-- ==== Sys2Proof/Word.lean ====
section
/-! DEFINITION. The machine's word types (spec/00_scope.md R3-R4, spec/03_core_state.md R70). -/

namespace Sys2Proof

/-- One byte. -/
abbrev Byte := BitVec 8

/-- A 32-bit instruction word (R37). -/
abbrev W32 := BitVec 32

/-- A general register, a command word, a scalar register (R13, R70). -/
abbrev W64 := BitVec 64

/-- An address register or a context virtual address (R70, R123). -/
abbrev A80 := BitVec 80

/-- A general register number g0-g31 (R39). -/
abbrev GReg := Fin 32

/-- An address register number a0-a15 (R39). -/
abbrev AReg := Fin 16

/-- An ordering class (R45). -/
abbrev Cls := Fin 16

/-- A core of the package (R276). -/
abbrev CoreId := Fin 512

/-- An island (cluster) of the package, 8d + c (R276). -/
abbrev IslandId := Fin 64

/-- A compute die. -/
abbrev DieId := Fin 8

end Sys2Proof
end

