-- ==== Sys2Proof/Config.lean ====
section
/-! DEFINITION. What an implementation fixes, and the free values: constants without a body, which no proof can
evaluate. Each is applied to the operands it depends on or to the counter State.fresh (notes/assumptions/12.md). -/

namespace Sys2Proof.Config

/-- A free 64-bit value for the n-th use (the places are listed in notes/assumptions/12.md). -/
opaque freeWord : Nat → BitVec 64

/-- The byte an unordered overlapping copy takes (R220), for the n-th use. -/
opaque freeByte : Nat → BitVec 8

/-- Which of its two values an aligned 8 bytes of an overlapping copy takes (R220): the copy's number, the place (0 memory, n + 1 the
scratchpad of core n), the octet's number there; true the value of the transfer order. -/
opaque overlapChoice : Nat → Nat → Nat → Bool

/-- Whether a load that no acquire at fabric scope orders takes what an aligned 8 bytes held before another node wrote it (R235, R240):
the use, the octet's number. -/
opaque staleChoice : Nat → Nat → Bool

/-- The address of a poisoned register after a rollback (R381): the rollback's number, the sequencer, the register (32 + n: a n). -/
opaque lostAddress : Nat → Nat → Nat → BitVec 80

/-- The bytes 0x1300-0x1FFF of the save area, private to the device (R417), for the n-th save. -/
opaque deferralByte : Nat → Nat → BitVec 8

/-- DSWAYS of the signed configuration (R289, R391): any of 0 to 16, read through dswaysConfigured. -/
opaque dswaysRaw : Fin 17

/-- The orphan cap of the signed configuration, in watts (R370). -/
opaque orphanRaw : Fin 2811

/-- The orphan cap: from 190 W to 3,000 W (R370), in milliwatts. -/
def orphanCap : Nat := (190 + orphanRaw.val) * 1000

/-- The identity number of the module (R346). -/
opaque moduleId : BitVec 64

/-- Group numbers that TARGET may name (R346). -/
opaque groups : List (BitVec 64)

/-- The low 3,071 bits of the moduli of the facility's and of the module's RSA-3072 keys (R348). -/
opaque facilityModulusRaw : BitVec 3071
opaque moduleModulusRaw : BitVec 3071

/-- The moduli, of 3,072 bits (R348). -/
def facilityModulus : Nat := 2 ^ 3071 + facilityModulusRaw.toNat
def moduleModulus : Nat := 2 ^ 3071 + moduleModulusRaw.toNat

/-- The facility's public exponent and the module's private one (R348). -/
opaque facilityExponent : BitVec 3072
opaque modulePrivate : BitVec 3072

/-- The facility's SLH-DSA public key: its seed and its root (R348). -/
opaque facilitySeed : Vector (BitVec 8) 24
opaque facilityRoot : Vector (BitVec 8) 24

/-- The module's SLH-DSA identity key: the secret seed, the seed of its random values, the public seed (R348). -/
opaque moduleSecret : Vector (BitVec 8) 24
opaque modulePrf : Vector (BitVec 8) 24
opaque moduleSeed : Vector (BitVec 8) 24

/-- The salt of an RSA signature and the random value of an SLH-DSA signature (R348), for the n-th use. -/
opaque signSalt : Nat → Vector (BitVec 8) 48
opaque signRandom : Nat → Vector (BitVec 8) 24

/-- The RSA and the SLH-DSA signature of Barchan's firmware, then those of signed configuration, verify (R388). -/
opaque bootSignatures : Vector Bool 4

/-- The security versions of Barchan's firmware and of signed configuration, and the minimum fused for each (R388). -/
opaque securityVersions : Vector Nat 2
opaque fusedMinima : Vector Nat 2

/-- The root of trust accepts firmware and signed configuration (R388): every signature verifies, no version is below its minimum. -/
def bootVerifies : Bool :=
  bootSignatures.toList.all id && decide (fusedMinima[0] ≤ securityVersions[0]) && decide (fusedMinima[1] ≤ securityVersions[1])

/-- The versions of ROM, Barchan's firmware and signed configuration (R392). -/
opaque versions : Vector Nat 3

/-- The measurements of the ROM, Barchan's firmware, signed configuration and fuse state (R389). -/
opaque measurements : Vector (List (BitVec 8)) 4

/-- The rest of an SPDM response (R389), by message, requests so far and the measurements it reports. -/
opaque spdmBody : Nat → List (BitVec 8) → List (List (BitVec 8)) → List (BitVec 8)

/-- The capability records' VERSION by ID, the units of LEN behind a header, the offset of the first record, the bytes between two of
them, the bytes of a record's contents by ID, values and place (R392). -/
opaque capVersion : Nat → BitVec 8
opaque capLen : Nat → Fin 254
opaque capStart : Fin 4096
opaque capGap : Nat → Fin 4096
opaque capByte : Nat → List Nat → Nat → BitVec 8

/-- Wysemond's vendor identifier, and the bytes of the DVSEC that R392 does not name. -/
opaque vendorId : BitVec 16
opaque dvsecByte : Nat → BitVec 8

/-- Barchan's prediction of a launch's power in milliwatts (R354): scheduler period, launch identifier, grant level, whether
under slow. -/
opaque predictedPower : Nat → Nat → Nat → Bool → Nat

/-- The predicted power of a scope beside its launches, in milliwatts (R354): 0 the package, n + 1 partition n. -/
opaque overheadPower : Nat → Nat

/-- The measured power of an island over a scheduler period, in milliwatts (R352): period, island. -/
opaque islandPower : Nat → Nat → Nat

/-- The power of the L2, the memory, the IO die and the links over a scheduler period, in milliwatts (R352). -/
opaque sharedPower : Nat → Nat

/-- The energy attributed to a launch in a scheduler period, in millijoules (R360): period, launch. -/
opaque launchEnergy : Nat → Nat → Nat

/-- The hash of a flow (R398): source core, source stream, destination node. -/
opaque flowHash : Nat → Nat → Nat → Nat

/-- The row that TINFO names for an uncorrectable byte of the SOF or of the latch, which have none (R75, R172). -/
opaque nearErrorRow : Nat → BitVec 11

/-- Whether a die passes its self-test at power-on (R390): the serving die is the lowest that does. -/
opaque selfTest : Fin 8 → Bool

end Sys2Proof.Config
end

