-- ==== Sys2Proof/Syntax.lean ====
section
/-! DEFINITION. The instructions: one constructor for each row of spec/opcode_table.json.
Sequencer instructions have the fields of spec/02_encoding.md R42-R55, engine commands those of R57-R60 with the wait
and signal fields of spec/01_stream.md R13; the rows without a word (a step of an engine, of the dispatcher, of the power
scheduler, a host command, a fabric message) carry what the outside or the schedule gives them. -/

namespace Sys2Proof

/-- A sequencer of a core: stream 0 or 1 (R10). -/
inductive SeqId where | a | x
  deriving DecidableEq, Repr

/-- An engine stream: M, V, C0, C1 are streams 2 to 5 (R10). -/
inductive Eng where | m | v | c0 | c1
  deriving DecidableEq, Repr

/-- A stream of a core (R10). -/
inductive StreamId where
  | seq (q : SeqId)
  | eng (e : Eng)
  deriving DecidableEq, Repr

/-- The scope of an atomic, a fence or a barrier instruction (R46, R235). -/
inductive Scope where | core | clu | die | pkg | fab | sys
  deriving DecidableEq, Repr

/-- The order of an atomic (R46). -/
inductive MemOrder where | rlx | acq | rel | ar
  deriving DecidableEq, Repr

/-- The condition of BC and BOUT (R48). -/
inductive Cond where | eq | ne | lt | ge | ltu | geu | tst | tstz
  deriving DecidableEq, Repr

/-- The wait mode WMODE (R14): 00 none, 01 consume, 10 peek, 11 zero. -/
inductive WMode where | none | take | peek | zero
  deriving DecidableEq, Repr

/-- The signal operation SOP (R15): 00 none, 01 add 1, 10 set to 1, 11 add the defined count. -/
inductive SOp where | none | add | set | cnt
  deriving DecidableEq, Repr

/-- The level of a completion counter (R52). -/
inductive Level where | launch | graph | phase | job
  deriving DecidableEq, Repr

/-- The divisor SETDIV selects (R53). -/
inductive DivSel where | c | m | v | w
  deriving DecidableEq, Repr

/-- The wait and signal fields of a command word (R13). -/
structure Sync where
  wsem : Fin 64
  wmode : WMode
  ssem : Fin 64
  sop : SOp
  deriving DecidableEq, Repr

/-- The element type of a Serir command (R58). -/
inductive VType where | fp32 | bf16 | fp16 | int32 | int16 | int8 | uint8 | mx
  deriving DecidableEq, Repr

/-- The MX element kind (R59, R150). -/
inductive MxKind where | e4m3 | e5m2 | e2m1 | int8
  deriving DecidableEq, Repr

/-- A Serir operand (R58): a row of a view, an SOF entry, the latch or a scalar. -/
inductive Opd where
  | row (view : Fin 8) (row : Fin 128)
  | sof (k : Fin 16)
  | latch
  | scalar (z : Fin 16)
  deriving DecidableEq, Repr

/-- The target of VQNT and VSCL (R59). -/
inductive QTarget where | e4m3 | e5m2 | e2m1 | int8 | pb
  deriving DecidableEq, Repr

/-- The operation of VRED and of CRED (R168, R218). -/
inductive RedOp where | add | min | max
  deriving DecidableEq, Repr

/-- The element type of CRED (R218). -/
inductive RedType where | fp32 | bf16 | int32
  deriving DecidableEq, Repr

/-- The identity of a reducing copy (R406). -/
structure RedIdent where
  node : Nat
  launch : Nat
  unit : Nat
  stream : Nat
  seq : BitVec 48
  deriving DecidableEq, Repr

/-- A piece of a reducing chunk at its target: partition, export, offset, element bytes. -/
structure RedPiece where
  part : Nat
  export_ : Fin 16
  offset : Nat
  bytes : List Byte
  deriving DecidableEq, Repr

/-- A chunk of a remote reducing copy (R406): its pieces at the target and the elements they bring. -/
structure RedChunk where
  ident : RedIdent
  id : Nat
  chunk : Nat
  op : RedOp
  ty : RedType
  pieces : List RedPiece
  deriving DecidableEq, Repr

/-- What the initiator closes at its targets (R407): the record of a copy that has completed, or every record of a launch of
a node that has ended. -/
inductive RecordClose where
  | copy (ident : RedIdent)
  | launch (node launch : Nat)
  deriving DecidableEq, Repr

/-- What a remote access asks of its target (R401-R402, R405-R406). -/
inductive RemoteOp where
  | load (n : Nat)
  | store (bytes : List Byte)
  | amo (op : Fin 8) (operand : W64)
  | cas (expected new : W64)
  | copyRead (n : Nat)
  | copyWrite (bytes : List Byte)
  | reduce (c : RedChunk)
  | close (c : RecordClose)
  deriving DecidableEq, Repr

/-- A remote request as it reaches its target (R401): source node and request number, partition, export, offset. -/
structure RemoteReq where
  src : Nat
  id : Nat
  part : Nat
  export_ : Fin 16
  offset : Nat
  op : RemoteOp
  deriving DecidableEq, Repr

/-- The answer to a remote request (R403-R405): data (the index of its lowest bad byte), done, refused, refused for a live
barrier word; lost stands for no answer in time. -/
inductive RemoteAns where
  | data (bytes : List Byte) (bad : Option Nat)
  | done
  | refused
  | barrier
  | lost
  deriving DecidableEq, Repr

/-- What the host gives when it creates a partition (R387): whole islands, physical ranges (base, length, permission bits
RD, W, AT), privileges, QCAP, floor, the 64 bytes of a creation descriptor, the bank record area. -/
structure PartSpec where
  islands : BitVec 64
  ranges : List (Nat × Nat × BitVec 3)
  privs : BitVec 16
  qcap : Nat
  floor : Nat
  desc : List Byte
  bankArea : Nat
  pool : Nat
  deriving DecidableEq, Repr

/-- A device register the mailbox reads and writes (R387: the registers of R289, R307, R351, R360, R375, R385, R399, R400). -/
inductive RegRef where
  | l2lim (d : DieId) | l2part (d : DieId) | dsched (d : DieId)
  | pcap (p : Nat) | prank (p : Nat) | ppower (p : Nat) | pthrot (p : Nat) | pkgpwr
  | account (c : Nat) (n : Fin 256)
  | hbmflr (p : Nat) | lppark | rbcount (p : Nat)
  | moncfg (d : DieId) (n : Fin 16) | monmin (d : DieId) (n : Fin 16) | monmax (d : DieId) (n : Fin 16)
  | monhist (d : DieId) (n : Fin 16) (b : Fin 32)
  | fnode | fstat
  | fwina (p : Nat) (n : Fin 16) | fwinb (p : Nat) (n : Fin 16) | fexpa (p : Nat) (n : Fin 16) | fexpb (p : Nat) (n : Fin 16)
  | route (node : Fin 262144)
  deriving DecidableEq, Repr

/-- The instructions and steps of the part: one constructor for each row of spec/opcode_table.json, in its order. -/
inductive Instr where
  -- integer, bit and multiply groups (R42, R118-R120)
  | add (d a b : GReg) | sub (d a b : GReg) | and (d a b : GReg) | or (d a b : GReg) | xor (d a b : GReg)
  | andn (d a b : GReg) | shl (d a b : GReg) | shr (d a b : GReg) | sra (d a b : GReg) | rol (d a b : GReg)
  | min (d a b : GReg) | max (d a b : GReg) | minu (d a b : GReg) | maxu (d a b : GReg)
  | slt (d a b : GReg) | sltu (d a b : GReg) | seq (d a b : GReg)
  | clz (d a : GReg) | ctz (d a : GReg) | popc (d a : GReg)
  | bfx (d a b : GReg) | bfxu (d a b : GReg) | bfi (d a b : GReg) | csel (d a b : GReg)
  | mul (d a b : GReg) | mulh (d a b : GReg) | mulhu (d a b : GReg)
  | div (d a b : GReg) | divu (d a b : GReg) | rem (d a b : GReg) | remu (d a b : GReg)
  -- immediates (R43, R121)
  | addi (d a : GReg) (i : BitVec 16) | andi (d a : GReg) (i : BitVec 16)
  | ori (d a : GReg) (i : BitVec 16) | xori (d a : GReg) (i : BitVec 16)
  | shli (d a : GReg) (n : Fin 64) | shri (d a : GReg) (n : Fin 64) | srai (d a : GReg) (n : Fin 64) | roli (d a : GReg) (n : Fin 64)
  | ldi (d : GReg) (i : BitVec 16) | ldk (d : GReg) (p : Fin 4) (i : BitVec 16)
  -- address registers (R44, R122)
  | aadd (d a : AReg) (b : GReg) | amov (d a : AReg) | aget (d : GReg) (a : AReg) | aseth (d : AReg) (a : GReg)
  | aaddi (d a : AReg) (i : BitVec 16)
  -- loads and stores (R45, R126)
  | ld (t : GReg) (a : AReg) (c : Cls) (i : BitVec 11) (z : Fin 4)
  | lds (t : GReg) (a : AReg) (c : Cls) (i : BitVec 11) (z : Fin 4)
  | st (t : GReg) (a : AReg) (c : Cls) (i : BitVec 11) (z : Fin 4)
  | lda (t a : AReg) (c : Cls) (i : BitVec 11)
  | sta (t a : AReg) (c : Cls) (i : BitVec 11)
  | ldx (t : GReg) (a : AReg) (c : Cls) (g : GReg) (s : Fin 4) (x : Bool) (z : Fin 4)
  | stx (t : GReg) (a : AReg) (c : Cls) (g : GReg) (s : Fin 4) (z : Fin 4)
  -- atomics, fence, barrier words (R46, R47, R128-R135)
  | amoSwap (t : GReg) (a : AReg) (c : Cls) (g : GReg) (o : MemOrder) (s : Scope)
  | amoAdd (t : GReg) (a : AReg) (c : Cls) (g : GReg) (o : MemOrder) (s : Scope)
  | amoAnd (t : GReg) (a : AReg) (c : Cls) (g : GReg) (o : MemOrder) (s : Scope)
  | amoOr (t : GReg) (a : AReg) (c : Cls) (g : GReg) (o : MemOrder) (s : Scope)
  | amoXor (t : GReg) (a : AReg) (c : Cls) (g : GReg) (o : MemOrder) (s : Scope)
  | amoMax (t : GReg) (a : AReg) (c : Cls) (g : GReg) (o : MemOrder) (s : Scope)
  | amoMin (t : GReg) (a : AReg) (c : Cls) (g : GReg) (o : MemOrder) (s : Scope)
  | amoMaxu (t : GReg) (a : AReg) (c : Cls) (g : GReg) (o : MemOrder) (s : Scope)
  | cas (t : GReg) (a : AReg) (c : Cls) (g : GReg) (o : MemOrder) (s : Scope)
  | fence (s : Scope) (m : BitVec 16)
  | barinit (t : GReg) (a : AReg) (c : Cls) (s : Scope)
  | barinitKill (a : AReg) (c : Cls) (s : Scope)
  | bararr (t : GReg) (a : AReg) (c : Cls) (s : Scope)
  | barwait (a : AReg) (c : Cls) (s : Scope)
  -- control flow (R48, R49, R136, R137)
  | b (o : BitVec 22)
  | bc (a b : GReg) (c : Cond) (o : BitVec 13)
  | bz (d : GReg) (o : BitVec 16) | bnz (d : GReg) (o : BitVec 16)
  | bq (n : Bool) (o : BitVec 22)
  | bout (a b : GReg) (c : Cond)
  | call (o : BitVec 22)
  | jmpi (a : GReg) | calli (a : GReg) | ret
  | loop (a : GReg) (l : BitVec 16)
  | loopi (n : BitVec 10) (l : BitVec 16)
  -- rings and semaphores (R50, R51)
  | enq (r : Eng) (a : GReg)
  | enqInline (r : Eng) (w : W64)
  | semwait (s : Fin 64) (m : WMode)
  | sempost (a : GReg) (s : Fin 64) (m : SOp)
  | semget (d : GReg) (s : Fin 64)
  | semset (a : GReg) (s : Fin 64)
  | ringset (r : Eng) (a : GReg) (z : Fin 16)
  -- work group (R52)
  | launch (d : GReg) (a : AReg)
  | wpop (d a : GReg) (n : Bool) (q : Fin 256)
  | wpush (d a : GReg) (q : Fin 256)
  | wsteal (d a : GReg) (q : Fin 256)
  | ccwait (a : GReg) (l : Level) (n : Fin 256)
  | ccget (d : GReg) (l : Level) (n : Fin 256)
  | cancel (a : GReg) (l : Level)
  | watch (d : GReg) (a : AReg)
  -- continuation and budgets (R53)
  | cont (n : BitVec 16)
  | yield
  | topup (a : GReg) (r : Fin 4)
  | phase (a : AReg)
  | setdiv (e : DivSel) (v : Fin 32)
  | setdivRegister (a : GReg) (e : DivSel)
  -- contexts (R54)
  | ctxnew (d : GReg) (a : AReg)
  | ctxgrant (d : GReg) (a : AReg)
  | ctxrevoke (d : GReg) (a : AReg) (h : Bool)
  | ctxrun (d : GReg)
  | ctxstop (d : GReg) (h : Bool)
  | ctxinfo (d a : GReg) (i : BitVec 8)
  -- system group (R55)
  | mfs (d : GReg) (r : BitVec 8)
  | mts (a : GReg) (r : BitVec 8)
  | trap (c : BitVec 8)
  | eret | halt | nop
  | time (d : GReg)
  | waitt (a : GReg)
  -- steps of a sequencer and of the rings
  | loadDataReturn (c : CoreId) (q : SeqId) (id : Nat)
  | engineNop (e : Eng) (y : Sync)
  | entryComplete (e : Eng)
  -- Erg (R57)
  | mprec (y : Sync) (pa pb : Fin 16)
  | mlda (y : Sync) (off : BitVec 22) (first count : Fin 16)
  | mstep (y : Sync) (off : BitVec 22) (first : Fin 32) (clr : Bool)
  | mnest (y : Sync) (off : BitVec 22)
  | mgo (y : Sync)
  | mgoStep
  | mclr (y : Sync) (first count : Fin 32) (anchor : BitVec 8)
  | manch (y : Sync) (first count : Fin 32) (anchor : BitVec 8)
  | mpin (y : Sync) (first count : Fin 32) (key : BitVec 16)
  | munpin (y : Sync) (first count : Fin 32)
  | mspill (y : Sync) (first count : Fin 32) (f : Bool)
  | mfill (y : Sync) (first count : Fin 32)
  | mdelta (y : Sync) (first : Fin 32) (d : Fin 4) (c : Fin 64) (off : BitVec 22)
  | mdeltaToken
  | mquery (y : Sync) (first : Fin 32) (d : Fin 4) (dst q : Opd)
  | tileFill (c : CoreId) (n : Fin 32)
  -- Serir (R58, R59)
  | vadd (y : Sync) (t : VType) (m : Bool) (d s1 s2 : Opd)
  | vsub (y : Sync) (t : VType) (m : Bool) (d s1 s2 : Opd)
  | vmul (y : Sync) (t : VType) (m : Bool) (d s1 s2 : Opd)
  | vfma (y : Sync) (t : VType) (m : Bool) (d s1 s2 : Opd)
  | vaddRz (y : Sync) (t : VType) (m : Bool) (d s1 s2 : Opd)
  | vsubRz (y : Sync) (t : VType) (m : Bool) (d s1 s2 : Opd)
  | vmulRz (y : Sync) (t : VType) (m : Bool) (d s1 s2 : Opd)
  | vfmaRz (y : Sync) (t : VType) (m : Bool) (d s1 s2 : Opd)
  | vcvtRz (y : Sync) (t : VType) (m : Bool) (d s1 : Opd) (dt : VType)
  | vaddSr (y : Sync) (t : VType) (m : Bool) (d s1 s2 : Opd)
  | vsubSr (y : Sync) (t : VType) (m : Bool) (d s1 s2 : Opd)
  | vmulSr (y : Sync) (t : VType) (m : Bool) (d s1 s2 : Opd)
  | vfmaSr (y : Sync) (t : VType) (m : Bool) (d s1 s2 : Opd)
  | vcvtSr (y : Sync) (t : VType) (m : Bool) (d s1 : Opd) (dt : VType)
  | vmin (y : Sync) (t : VType) (m : Bool) (d s1 s2 : Opd)
  | vmax (y : Sync) (t : VType) (m : Bool) (d s1 s2 : Opd)
  | vabs (y : Sync) (t : VType) (m : Bool) (d s1 : Opd)
  | vneg (y : Sync) (t : VType) (m : Bool) (d s1 : Opd)
  | vexp2 (y : Sync) (m : Bool) (d s1 : Opd)
  | vlog2 (y : Sync) (m : Bool) (d s1 : Opd)
  | vrcp (y : Sync) (m : Bool) (d s1 : Opd)
  | vrsq (y : Sync) (m : Bool) (d s1 : Opd)
  | vsqrt (y : Sync) (m : Bool) (d s1 : Opd)
  | vmac8 (y : Sync) (t : VType) (m : Bool) (d s1 s2 : Opd)
  | vadds (y : Sync) (t : VType) (m : Bool) (d s1 s2 : Opd)
  | vsubs (y : Sync) (t : VType) (m : Bool) (d s1 s2 : Opd)
  | vand (y : Sync) (t : VType) (m : Bool) (d s1 s2 : Opd)
  | vor (y : Sync) (t : VType) (m : Bool) (d s1 s2 : Opd)
  | vxor (y : Sync) (t : VType) (m : Bool) (d s1 s2 : Opd)
  | vshl (y : Sync) (t : VType) (m : Bool) (d s1 s2 : Opd)
  | vshr (y : Sync) (t : VType) (m : Bool) (d s1 s2 : Opd)
  | vsra (y : Sync) (t : VType) (m : Bool) (d s1 s2 : Opd)
  | vrshr (y : Sync) (t : VType) (m : Bool) (d s1 : Opd) (sh : Fin 32)
  | vceq (y : Sync) (t : VType) (m : Bool) (k : Fin 8) (s1 s2 : Opd)
  | vcne (y : Sync) (t : VType) (m : Bool) (k : Fin 8) (s1 s2 : Opd)
  | vclt (y : Sync) (t : VType) (m : Bool) (k : Fin 8) (s1 s2 : Opd)
  | vcle (y : Sync) (t : VType) (m : Bool) (k : Fin 8) (s1 s2 : Opd)
  | vsel (y : Sync) (t : VType) (d s1 s2 : Opd)
  | vbcst (y : Sync) (t : VType) (m : Bool) (d s1 : Opd)
  | vperm (y : Sync) (t : VType) (m : Bool) (d s1 s2 : Opd)
  | vtrn (y : Sync) (t : VType) (m : Bool) (d s1 : Opd)
  | vred (y : Sync) (t : VType) (m : Bool) (d s1 : Opd) (op : RedOp)
  | vmsk (y : Sync) (k : Fin 8)
  | vmand (y : Sync) (d a b : Fin 8)
  | vmor (y : Sync) (d a b : Fin 8)
  | vmxor (y : Sync) (d a b : Fin 8)
  | vmnot (y : Sync) (d a : Fin 8)
  | vmpop (y : Sync) (z : Fin 16) (a : Fin 8)
  | vcvt (y : Sync) (t : VType) (m : Bool) (d s1 : Opd) (dt : VType)
  | vqnt (y : Sync) (t : VType) (d s1 : Opd) (k : MxKind) (sof : Fin 16)
  | vqntPb (y : Sync) (t : VType) (d s1 : Opd) (p : Fin 16) (sof : Fin 16)
  | vscl (y : Sync) (t : VType) (d s1 : Opd) (k : QTarget)
  | vdeq (y : Sync) (m : Bool) (d s1 s2 : Opd)
  | vld (y : Sync) (m : Bool) (d : Opd) (off : BitVec 22)
  | vst (y : Sync) (m : Bool) (d : Opd) (off : BitVec 22)
  | vgath (y : Sync) (t : VType) (m : Bool) (d s1 : Opd) (z : Fin 16)
  | vscat (y : Sync) (t : VType) (m : Bool) (d s1 : Opd) (z : Fin 16)
  | vacc (y : Sync) (t : VType) (m : Bool) (d : Opd) (tile : Fin 32)
  | vacw (y : Sync) (m : Bool) (tile : Fin 32) (s1 : Opd)
  | vview (y : Sync) (t : VType) (w : Fin 8) (base : BitVec 11) (len : BitVec 6) (count : BitVec 11) (k : MxKind)
  | vdefer (y : Sync) (t : VType) (m : Bool) (q : Fin 8) (s1 : Opd) (v : Fin 4) (p : Fin 8)
  | vdrain (y : Sync) (t : VType) (d : Opd) (q : Fin 8) (v : Fin 4) (p : Fin 8) (f : Bool) (k : Fin 8)
  -- Wadi (R60)
  | ccopy (y : Sync) (off : BitVec 22)
  | cred (y : Sync) (off : BitVec 22) (op : RedOp) (ty : RedType)
  | cfill (y : Sync) (off : BitVec 22)
  | cpref (y : Sync) (off : BitVec 22)
  | cflush (y : Sync) (off : BitVec 22)
  | cnest (y : Sync) (off : BitVec 22)
  | cgo (y : Sync) (off : BitVec 22)
  | cgoChunk
  | cpack (y : Sync) (off : BitVec 22) (p : Fin 16)
  | cunpack (y : Sync) (off : BitVec 22) (p : Fin 16)
  | cjump (y : Sync) (off : BitVec 22)
  | chainFetch
  -- steps of the unit (R25-R27, R255, R261, R248)
  | unitStop (c : CoreId)
  | eventWriteRetry
  | unitResume (c : CoreId)
  | graceExpiry (c : CoreId)
  | contDrainComplete (c : CoreId)
  | unitEnd (c : CoreId)
  -- steps of the dispatcher (R309-R322)
  | unitPlacement (c : CoreId)
  | tenantCheck (d : DieId)
  | gangReservation (d : DieId) (l : Nat)
  | gangPreemption (d : DieId) (l : Nat)
  | gangStart (d : DieId) (l : Nat)
  | watchdogExpiry (d : DieId) (c : Nat)
  -- steps of an island (R278-R284)
  | islandGating (i : IslandId)
  | railChangeComplete (i : IslandId)
  | islandResetComplete (i : IslandId)
  | islandFailure (i : IslandId)
  | revocationComplete (c : Nat)
  -- the host (R299, R386, R387)
  | hostMemoryWrite (addr : Nat) (bytes : List Byte)
  | hostMemoryRead (addr : Nat) (n : Nat)
  | createPartition (p : PartSpec)
  | destroyPartition (p : Nat)
  | readRegister (r : RegRef)
  | writeRegister (r : RegRef) (v : W64)
  | l2limWrite (d : DieId) (v : BitVec 32)
  | monitorClear (d : DieId) (n : Fin 16)
  | monitorSample (d : DieId) (n : Fin 16) (v : BitVec 32)
  | phaseAccountWrite (c : Nat) (n : Fin 256) (v : BitVec 48)
  | fnodeWrite (v : W64)
  | setHostEventRing (addr : Nat) (entries : Nat)
  | dispose (p : Nat)
  | resetIsland (i : IslandId)
  | retireChannel (stack : Fin 9) (ch : Fin 32)
  | runPartition (p : Nat)
  | stopPartition (p : Nat) (hard : Bool)
  -- power (R345-R370)
  | swinuFragment (id : W64) (idx count : BitVec 16) (bytes : List Byte)  -- bytes: from byte 12 of the fragment on
  | swinuReassemblyTimeout (id : W64)
  | curve (msg : List Byte)
  | rankCaps (msg : List Byte)
  | messageTakesEffect
  | messageExpiry
  | powerMeasurement (mw : Nat)
  | currentLimiter (div : Fin 17)
  | schedulerPeriod
  | slowBoundExpiry
  | parkYieldTimeout (c : CoreId)
  | parkMigrationStart (d : DieId)
  | stackMigrationComplete (d : DieId)
  | gradeLift
  | heartbeat
  | heartbeatTimeout
  | spareCopyComplete (bank row : Nat)
  -- bring-up and attestation (R388-R391)
  | powerOn
  | trainingComplete (badStacks : BitVec 8) (badLinks : BitVec 8)
  | fullServiceStart
  | getVersion (req : List Byte) | getCapabilities (req : List Byte) | negotiateAlgorithms (req : List Byte)
  | getDigests (req : List Byte) | getCertificate (req : List Byte) | challenge (req : List Byte)
  | getMeasurements (req : List Byte) | keyExchange (req : List Byte) | finish (req : List Byte)
  -- fabric (R397-R411)
  | flitReceive (port : Fin 32) (flit : List Byte)
  | linkDown (port : Fin 32)
  | linkTrained (port : Fin 32)
  | remoteAccessArrival (r : RemoteReq)
  | reducingChunkArrival (r : RedChunk)
  | remoteResponse (id : Nat) (ans : RemoteAns)
  | remoteTimeout (id : Nat)
  | waitNotice (id : Nat)
  | nodeLoss (node : Nat)
  | timeMessage (tick : W64)
  | syncLoss
  -- decoding and waiting
  | illegalInstruction (w : W32)
  | waittTickReached (c : CoreId) (q : SeqId)
  | modulePowerRemoval
  deriving DecidableEq, Repr

end Sys2Proof
end

