-- ==== Sys2Proof/WellFormed.lean ====
section
/-! DEFINITION. Which terms of Instr are instructions of the part: the ranges, alignments and types of
spec/02_encoding.md R40, R45-R60 and the tables of spec/06_vector.md R154, R159, R171, R180, R181, each check by its own
name. The decoder builds a term and keeps it only when these hold; the encoder is its inverse on well-formed terms. -/

namespace Sys2Proof

/-- The codes of R58 and R59 for the types (decode and encode share them). -/
def VType.code : VType → Nat
  | .fp32 => 0 | .bf16 => 1 | .fp16 => 2 | .int32 => 3 | .int16 => 4 | .int8 => 5 | .uint8 => 6 | .mx => 7

/-- The set "FP" of R59. -/
def VType.isFp : VType → Bool
  | .fp32 | .bf16 | .fp16 => true
  | _ => false

/-- The set "integer" of R59. -/
def VType.isInt : VType → Bool
  | .int32 | .int16 | .int8 | .uint8 => true
  | _ => false

/-- The set "not MX" of R59. -/
def VType.notMx (t : VType) : Bool := t != .mx

/-- The set "FP32, BF16" of R59. -/
def VType.wide (t : VType) : Bool := t == .fp32 || t == .bf16

/-- The level code of an operand (R58). -/
def Opd.level : Opd → Nat
  | .row _ _ => 0 | .sof _ => 1 | .latch => 2 | .scalar _ => 3

/-- A row operand (R152): any level but 11. -/
def Opd.isRow (o : Opd) : Bool := o.level != 3

/-- SOF entries k to k + v exist (R180, R181); other levels have no such bound. -/
def Opd.sofSpan (o : Opd) (v : Nat) : Bool :=
  match o with
  | .sof k => k.val + v ≤ 15
  | _ => true

/-- A tile range does not pass tile 31 (R57): n is the number of tiles. -/
def tilesOk (first n : Nat) : Bool := first + n ≤ 32

/-- Tiles of a group of code d (R57): (d / 32)². -/
def groupTiles (d : Fin 4) : Nat := (d.val + 1) * (d.val + 1)

/-- The offset is a multiple of n (R56). -/
def alignedTo (off : BitVec 22) (n : Nat) : Bool := off.toNat % n == 0

/-- A field value lies in the range that its map entry states (R40, R56). R163 gives no QUAL for VCVT with destination type
111: out of range, QUAL 2 (DESIGN CHOICE, notes/assumptions/73.md). -/
def Instr.rangeOk : Instr → Bool
  | .lds _ _ _ _ z => z != 3
  | .loop _ l => l != 0
  | .loopi _ l => l != 0
  | .semwait _ m => m != .none
  | .sempost a _ m => m != .none && (m == .cnt || a == 0)
  | .ringset _ _ z => z.val ≤ 8
  | .topup _ r => r != 3
  | .setdiv _ v => 1 ≤ v.val && v.val ≤ 16
  | .ctxinfo _ _ i => i.toNat ≤ 11
  | .mfs _ r => r.toNat ≤ 0x13
  | .mts _ r => r.toNat ≤ 0x13
  | .mlda _ _ f c => f.val + (c.val + 1) ≤ 16
  | .mstep _ _ f _ => f.val ≤ 16
  | .mclr _ f c _ => tilesOk f.val (c.val + 1)
  | .manch _ f c _ => tilesOk f.val (c.val + 1)
  | .mpin _ f c _ => tilesOk f.val (c.val + 1)
  | .munpin _ f c => tilesOk f.val (c.val + 1)
  | .mspill _ f c _ => tilesOk f.val (c.val + 1)
  | .mfill _ f c => tilesOk f.val (c.val + 1)
  | .mdelta _ f d _ _ => tilesOk f.val (groupTiles d)
  | .mquery _ f d dst q => tilesOk f.val (groupTiles d) && dst.level ≤ 1 && q.isRow
  | .vbcst _ _ _ _ s => s.level == 1 || s.level == 3
  | .vtrn _ _ _ d s => d.isRow && s.isRow
  | .vqnt _ _ d s _ _ => d.isRow && s.isRow
  | .vqntPb _ _ d s _ _ => d.isRow && s.isRow
  | .vscl _ _ d s _ => d.isRow && s.isRow
  | .vdeq _ _ d s _ => d.isRow && s.level == 0
  | .vcvt _ _ _ _ _ dt => dt.notMx
  | .vcvtRz _ _ _ _ _ dt => dt.notMx
  | .vcvtSr _ _ _ _ _ dt => dt.notMx
  | .vacc _ _ _ d _ => d.isRow
  | .vview _ t _ base len count k =>
      (base.toNat + (len.toNat + 1) * (count.toNat + 1) ≤ 1536) && (k == .e4m3 || t == .mx)
  | .vdefer _ _ _ _ s v _ => s.level ≤ 1 && s.sofSpan v.val
  | .vdrain _ _ d _ v _ _ _ => d.level ≤ 1 && d.sofSpan v.val
  | _ => true

/-- A scratchpad offset is aligned as its entry requires (R57, R60, R172). -/
def Instr.alignOk : Instr → Bool
  | .mlda _ off _ _ => alignedTo off 128
  | .mstep _ off _ _ => alignedTo off 128
  | .mnest _ off => alignedTo off 256
  | .mdelta _ _ _ _ off => alignedTo off 64
  | .vld _ _ d off => alignedTo off (if d.isRow then 64 else 8)
  | .vst _ _ d off => alignedTo off (if d.isRow then 64 else 8)
  | .ccopy _ off => alignedTo off 64
  | .cred _ off _ _ => alignedTo off 64
  | .cfill _ off => alignedTo off 64
  | .cpref _ off => alignedTo off 64
  | .cflush _ off => alignedTo off 64
  | .cnest _ off => alignedTo off 256
  | .cgo _ off => alignedTo off 64
  | .cpack _ off _ => alignedTo off 64
  | .cunpack _ off _ => alignedTo off 64
  | .cjump _ off => alignedTo off 64
  | _ => true

/-- The type code is one that the entry allows (R59, R159). -/
def Instr.typeOk : Instr → Bool
  | .vadd _ t _ _ _ _ | .vsub _ t _ _ _ _ | .vmul _ t _ _ _ _ => t.notMx
  | .vfma _ t _ _ _ _ => t.isFp
  | .vaddRz _ t _ _ _ _ | .vsubRz _ t _ _ _ _ | .vmulRz _ t _ _ _ _ | .vfmaRz _ t _ _ _ _ => t.isFp
  | .vaddSr _ t _ _ _ _ | .vsubSr _ t _ _ _ _ | .vmulSr _ t _ _ _ _ | .vfmaSr _ t _ _ _ _ => t.isFp
  | .vcvtRz _ t _ _ _ _ | .vcvtSr _ t _ _ _ _ => t.isFp
  | .vmin _ t _ _ _ _ | .vmax _ t _ _ _ _ => t.notMx
  | .vabs _ t _ _ _ | .vneg _ t _ _ _ => t.notMx && t != .uint8
  | .vmac8 _ t _ _ _ _ => t == .int8 || t == .uint8
  | .vadds _ t _ _ _ _ | .vsubs _ t _ _ _ _ | .vand _ t _ _ _ _ | .vor _ t _ _ _ _ | .vxor _ t _ _ _ _
  | .vshl _ t _ _ _ _ | .vshr _ t _ _ _ _ | .vsra _ t _ _ _ _ => t.isInt
  | .vrshr _ t _ _ _ _ => t.isInt
  | .vceq _ t _ _ _ _ | .vcne _ t _ _ _ _ | .vclt _ t _ _ _ _ | .vcle _ t _ _ _ _ => t.notMx
  | .vsel _ t _ _ _ => t.notMx
  | .vbcst _ t _ _ _ | .vtrn _ t _ _ _ => t.notMx
  | .vperm _ t _ _ _ _ => t.notMx
  | .vred _ t _ _ _ _ => t.notMx
  | .vcvt _ t _ _ _ _ => t.notMx
  | .vqnt _ t _ _ _ _ | .vqntPb _ t _ _ _ _ | .vscl _ t _ _ _ => t.wide
  | .vgath _ t _ _ _ _ | .vscat _ t _ _ _ _ => t.notMx
  | .vacc _ t _ _ _ => t.wide
  | .vdefer _ t _ _ _ _ _ => t.notMx
  | .vdrain _ t _ _ _ _ _ _ => t.notMx
  | _ => true

/-- A well-formed instruction: its fields are in range, its offset aligned, its type allowed. -/
def Instr.wf (i : Instr) : Bool := i.rangeOk && i.alignOk && i.typeOk

/-- The instructions a sequencer fetches (rows 0-113 of spec/opcode_table.json). -/
def Instr.isSeq : Instr → Bool
  | .add .. | .sub .. | .and .. | .or .. | .xor .. | .andn .. | .shl .. | .shr .. | .sra .. | .rol .. | .min .. | .max ..
  | .minu .. | .maxu .. | .slt .. | .sltu .. | .seq .. | .clz .. | .ctz .. | .popc .. | .bfx .. | .bfxu .. | .bfi .. | .csel ..
  | .mul .. | .mulh .. | .mulhu .. | .div .. | .divu .. | .rem .. | .remu ..
  | .addi .. | .andi .. | .ori .. | .xori .. | .shli .. | .shri .. | .srai .. | .roli .. | .ldi .. | .ldk ..
  | .aadd .. | .amov .. | .aget .. | .aseth .. | .aaddi ..
  | .ld .. | .lds .. | .st .. | .lda .. | .sta .. | .ldx .. | .stx ..
  | .amoSwap .. | .amoAdd .. | .amoAnd .. | .amoOr .. | .amoXor .. | .amoMax .. | .amoMin .. | .amoMaxu .. | .cas ..
  | .fence .. | .barinit .. | .barinitKill .. | .bararr .. | .barwait ..
  | .b .. | .bc .. | .bz .. | .bnz .. | .bq .. | .bout .. | .call .. | .jmpi .. | .calli .. | .ret | .loop .. | .loopi ..
  | .enq .. | .enqInline .. | .semwait .. | .sempost .. | .semget .. | .semset .. | .ringset ..
  | .launch .. | .wpop .. | .wpush .. | .wsteal .. | .ccwait .. | .ccget .. | .cancel .. | .watch ..
  | .cont .. | .yield | .topup .. | .phase .. | .setdiv .. | .setdivRegister ..
  | .ctxnew .. | .ctxgrant .. | .ctxrevoke .. | .ctxrun .. | .ctxstop .. | .ctxinfo ..
  | .mfs .. | .mts .. | .trap .. | .eret | .halt | .nop | .time .. | .waitt .. => true
  | _ => false

/-- The engine ring or rings whose command an instruction is (R10): Erg's, Serir's or Wadi's. -/
inductive EngKind where | erg | serir | wadi
  deriving DecidableEq, Repr

/-- The kind of an engine stream. -/
def Eng.kind : Eng → EngKind
  | .m => .erg | .v => .serir | .c0 => .wadi | .c1 => .wadi

/-- The engine that runs a command, with the command's wait and signal fields (R13); none for the other rows. The NOP
names its stream. -/
def Instr.cmd : Instr → Option (EngKind × Sync)
  | .engineNop e y => some (e.kind, y)
  | .mprec y .. | .mlda y .. | .mstep y .. | .mnest y .. | .mgo y | .mclr y .. | .manch y .. | .mpin y .. | .munpin y ..
  | .mspill y .. | .mfill y .. | .mdelta y .. | .mquery y .. => some (.erg, y)
  | .vadd y .. | .vsub y .. | .vmul y .. | .vfma y .. | .vaddRz y .. | .vsubRz y .. | .vmulRz y .. | .vfmaRz y ..
  | .vcvtRz y .. | .vaddSr y .. | .vsubSr y .. | .vmulSr y .. | .vfmaSr y .. | .vcvtSr y .. | .vmin y .. | .vmax y ..
  | .vabs y .. | .vneg y .. | .vexp2 y .. | .vlog2 y .. | .vrcp y .. | .vrsq y .. | .vsqrt y .. | .vmac8 y .. | .vadds y ..
  | .vsubs y .. | .vand y .. | .vor y .. | .vxor y .. | .vshl y .. | .vshr y .. | .vsra y .. | .vrshr y .. | .vceq y ..
  | .vcne y .. | .vclt y .. | .vcle y .. | .vsel y .. | .vbcst y .. | .vperm y .. | .vtrn y .. | .vred y .. | .vmsk y ..
  | .vmand y .. | .vmor y .. | .vmxor y .. | .vmnot y .. | .vmpop y .. | .vcvt y .. | .vqnt y .. | .vqntPb y .. | .vscl y ..
  | .vdeq y .. | .vld y .. | .vst y .. | .vgath y .. | .vscat y .. | .vacc y .. | .vacw y .. | .vview y .. | .vdefer y ..
  | .vdrain y .. => some (.serir, y)
  | .ccopy y .. | .cred y .. | .cfill y .. | .cpref y .. | .cflush y .. | .cnest y .. | .cgo y .. | .cpack y ..
  | .cunpack y .. | .cjump y .. => some (.wadi, y)
  | _ => none

end Sys2Proof
end

