-- ==== Sys2Proof/Decode.lean ====
section
/-! DEFINITION. The decoder and the encoder. A 32-bit instruction word (spec/02_encoding.md R37-R55) decodes to an
instruction or to none, which the sequencer takes as illegal instruction (R40); a 64-bit command word (R56-R60) decodes to a
command or to the QUAL of R16's first failed condition. Words are natural numbers cut by division, so that every field is a
quotient and a remainder. -/

namespace Sys2Proof

/-- n bits of w from bit lo. -/
def bitsAt (w lo n : Nat) : Nat := w / 2 ^ lo % 2 ^ n

/-! ## Codes of the small fields -/

/-- Scope codes (R46); 110 and 111 are out of range. -/
def scopeOf : Nat → Option Scope
  | 0 => some .core | 1 => some .clu | 2 => some .die | 3 => some .pkg | 4 => some .fab | 5 => some .sys
  | _ => none

/-- The code of a scope (R46). -/
def Scope.code : Scope → Nat
  | .core => 0 | .clu => 1 | .die => 2 | .pkg => 3 | .fab => 4 | .sys => 5

/-- Order codes (R46). -/
def orderOf : Nat → MemOrder
  | 0 => .rlx | 1 => .acq | 2 => .rel | _ => .ar

/-- The code of an order (R46). -/
def MemOrder.code : MemOrder → Nat
  | .rlx => 0 | .acq => 1 | .rel => 2 | .ar => 3

/-- Condition codes (R48). -/
def condOf : Nat → Cond
  | 0 => .eq | 1 => .ne | 2 => .lt | 3 => .ge | 4 => .ltu | 5 => .geu | 6 => .tst | _ => .tstz

/-- The code of a condition (R48). -/
def Cond.code : Cond → Nat
  | .eq => 0 | .ne => 1 | .lt => 2 | .ge => 3 | .ltu => 4 | .geu => 5 | .tst => 6 | .tstz => 7

/-- Wait mode codes (R14). -/
def wmodeOf : Nat → WMode
  | 0 => .none | 1 => .take | 2 => .peek | _ => .zero

/-- The code of a wait mode (R14). -/
def WMode.code : WMode → Nat
  | .none => 0 | .take => 1 | .peek => 2 | .zero => 3

/-- Signal operation codes (R15). -/
def sopOf : Nat → SOp
  | 0 => .none | 1 => .add | 2 => .set | _ => .cnt

/-- The code of a signal operation (R15). -/
def SOp.code : SOp → Nat
  | .none => 0 | .add => 1 | .set => 2 | .cnt => 3

/-- Ring codes (R50). -/
def engOf : Nat → Eng
  | 0 => .m | 1 => .v | 2 => .c0 | _ => .c1

/-- The code of a ring (R50). -/
def Eng.code : Eng → Nat
  | .m => 0 | .v => 1 | .c0 => 2 | .c1 => 3

/-- Level codes of completion counters (R52). -/
def levelOf : Nat → Level
  | 0 => .launch | 1 => .graph | 2 => .phase | _ => .job

/-- The code of a level (R52). -/
def Level.code : Level → Nat
  | .launch => 0 | .graph => 1 | .phase => 2 | .job => 3

/-- Divisor codes (R53). -/
def divSelOf : Nat → DivSel
  | 0 => .c | 1 => .m | 2 => .v | _ => .w

/-- The code of a divisor (R53). -/
def DivSel.code : DivSel → Nat
  | .c => 0 | .m => 1 | .v => 2 | .w => 3

/-- Type codes (R58). -/
def vtypeOf : Nat → VType
  | 0 => .fp32 | 1 => .bf16 | 2 => .fp16 | 3 => .int32 | 4 => .int16 | 5 => .int8 | 6 => .uint8 | _ => .mx

/-- MX element kind codes (R59). -/
def kindOf : Nat → MxKind
  | 0 => .e4m3 | 1 => .e5m2 | 2 => .e2m1 | _ => .int8

/-- The code of an MX element kind (R59). -/
def MxKind.code : MxKind → Nat
  | .e4m3 => 0 | .e5m2 => 1 | .e2m1 => 2 | .int8 => 3

/-- Target codes of VSCL (R164). -/
def qtargetOf : Nat → QTarget
  | 0 => .e4m3 | 1 => .e5m2 | 2 => .e2m1 | 3 => .int8 | _ => .pb

/-- The code of a target (R164). -/
def QTarget.code : QTarget → Nat
  | .e4m3 => 0 | .e5m2 => 1 | .e2m1 => 2 | .int8 => 3 | .pb => 4

/-- Operation codes of VRED and CRED (R168, R218). -/
def redOpOf : Nat → RedOp
  | 0 => .add | 1 => .min | _ => .max

/-- The code of a reduction (R168, R218). -/
def RedOp.code : RedOp → Nat
  | .add => 0 | .min => 1 | .max => 2

/-- Type codes of CRED (R218). -/
def redTypeOf : Nat → RedType
  | 0 => .fp32 | 1 => .bf16 | _ => .int32

/-- The code of a CRED type (R218). -/
def RedType.code : RedType → Nat
  | .fp32 => 0 | .bf16 => 1 | .int32 => 2

/-! ## Sequencer instructions -/

/-- A 5-bit g register field. -/
def gAt (w lo : Nat) : GReg := Fin.ofNat 32 (bitsAt w lo 5)

/-- The low four bits of an a register field (R39). -/
def aAt (w lo : Nat) : AReg := Fin.ofNat 16 (bitsAt w lo 4)

/-- The class field of formats M and X (R38). -/
def clsAt (w : Nat) : Cls := Fin.ofNat 16 (bitsAt w 13 4)

/-- A 16-bit immediate (formats I and K). -/
def imm16 (w : Nat) : BitVec 16 := BitVec.ofNat 16 (bitsAt w 0 16)

/-- The instruction, when a condition of R40 holds. -/
def keepIf (c : Bool) (i : Instr) : Option Instr := if c then some i else none

/-- The bits from lo, n wide, are reserved and zero (R40). -/
def zeroAt (w lo n : Nat) : Bool := bitsAt w lo n == 0

/-- Major 0x01 (R42). -/
def decodeAlu (w : Nat) : Option Instr :=
  let d := gAt w 21; let a := gAt w 16; let b := gAt w 11
  match bitsAt w 0 11 with
  | 0 => some (.add d a b) | 1 => some (.sub d a b) | 2 => some (.and d a b) | 3 => some (.or d a b)
  | 4 => some (.xor d a b) | 5 => some (.andn d a b) | 6 => some (.shl d a b) | 7 => some (.shr d a b)
  | 8 => some (.sra d a b) | 9 => some (.rol d a b) | 10 => some (.min d a b) | 11 => some (.max d a b)
  | 12 => some (.minu d a b) | 13 => some (.maxu d a b) | 14 => some (.slt d a b) | 15 => some (.sltu d a b)
  | 16 => some (.seq d a b)
  | _ => none

/-- Major 0x02 (R42). -/
def decodeBit (w : Nat) : Option Instr :=
  let d := gAt w 21; let a := gAt w 16; let b := gAt w 11
  match bitsAt w 0 11 with
  | 0 => keepIf (zeroAt w 11 5) (.clz d a)
  | 1 => keepIf (zeroAt w 11 5) (.ctz d a)
  | 2 => keepIf (zeroAt w 11 5) (.popc d a)
  | 3 => some (.bfx d a b) | 4 => some (.bfxu d a b) | 5 => some (.bfi d a b) | 6 => some (.csel d a b)
  | _ => none

/-- Major 0x03 (R42). -/
def decodeMul (w : Nat) : Option Instr :=
  let d := gAt w 21; let a := gAt w 16; let b := gAt w 11
  match bitsAt w 0 11 with
  | 0 => some (.mul d a b) | 1 => some (.mulh d a b) | 2 => some (.mulhu d a b) | 3 => some (.div d a b)
  | 4 => some (.divu d a b) | 5 => some (.rem d a b) | 6 => some (.remu d a b)
  | _ => none

/-- Major 0x08 (R43). -/
def decodeShiftI (w : Nat) : Option Instr :=
  let d := gAt w 21; let a := gAt w 16; let n : Fin 64 := Fin.ofNat 64 (bitsAt w 0 6)
  let i : Instr := match bitsAt w 14 2 with
    | 0 => .shli d a n | 1 => .shri d a n | 2 => .srai d a n | _ => .roli d a n
  keepIf (zeroAt w 6 8) i

/-- Major 0x0C (R44). -/
def decodeAddr (w : Nat) : Option Instr :=
  let d5 := zeroAt w 25 1; let a5 := zeroAt w 20 1; let s2 := zeroAt w 11 5
  match bitsAt w 0 11 with
  | 0 => keepIf (d5 && a5) (.aadd (aAt w 21) (aAt w 16) (gAt w 11))
  | 1 => keepIf (d5 && a5 && s2) (.amov (aAt w 21) (aAt w 16))
  | 2 => keepIf (a5 && s2) (.aget (gAt w 21) (aAt w 16))
  | 3 => keepIf (d5 && s2) (.aseth (aAt w 21) (gAt w 16))
  | _ => none

/-- The size code of format M (R45). -/
def szM (w : Nat) : Fin 4 := Fin.ofNat 4 (bitsAt w 0 2)

/-- The offset of format M (R45). -/
def offM (w : Nat) : BitVec 11 := BitVec.ofNat 11 (bitsAt w 2 11)

/-- Majors 0x18 and 0x19 (R46). -/
def decodeAtomic (w : Nat) (mk : Nat → Option (GReg → AReg → Cls → GReg → MemOrder → Scope → Instr)) : Option Instr :=
  match scopeOf (bitsAt w 0 3), mk (bitsAt w 3 3) with
  | some s, some f => some (f (gAt w 21) (aAt w 17) (clsAt w) (gAt w 8) (orderOf (bitsAt w 6 2)) s)
  | _, _ => none

/-- The operations of AMO by fn[5:3] (R46). -/
def amoOf : Nat → Option (GReg → AReg → Cls → GReg → MemOrder → Scope → Instr)
  | 0 => some .amoSwap | 1 => some .amoAdd | 2 => some .amoAnd | 3 => some .amoOr
  | 4 => some .amoXor | 5 => some .amoMax | 6 => some .amoMin | 7 => some .amoMaxu
  | _ => none

/-- CAS keeps fn[5:3] zero (R46). -/
def casOf : Nat → Option (GReg → AReg → Cls → GReg → MemOrder → Scope → Instr)
  | 0 => some .cas
  | _ => none

/-- Major 0x1B (R47). -/
def decodeBarrier (w : Nat) : Option Instr :=
  let kill := bitsAt w 3 1 == 1
  let gsc := zeroAt w 6 7
  match scopeOf (bitsAt w 0 3) with
  | none => none
  | some s =>
    match bitsAt w 4 2 with
    | 0 => if kill then keepIf (gsc && zeroAt w 21 5) (.barinitKill (aAt w 17) (clsAt w) s)
           else keepIf gsc (.barinit (gAt w 21) (aAt w 17) (clsAt w) s)
    | 1 => keepIf (gsc && !kill) (.bararr (gAt w 21) (aAt w 17) (clsAt w) s)
    | 2 => keepIf (gsc && !kill && zeroAt w 21 5) (.barwait (aAt w 17) (clsAt w) s)
    | _ => none

/-- Major 0x2C (R50): the inline form takes the next two words, low half first. -/
def decodeEnq (w w1 w2 : Nat) : Option Instr :=
  let r := engOf (bitsAt w 21 2)
  match bitsAt w 0 11 with
  | 0 => keepIf (zeroAt w 23 3 && zeroAt w 11 5) (.enq r (gAt w 16))
  | 1 => keepIf (zeroAt w 23 3 && zeroAt w 11 10) (.enqInline r (BitVec.ofNat 64 (bitsAt w1 0 32 + bitsAt w2 0 32 * 2 ^ 32)))
  | _ => none

/-- Major 0x2D (R51). -/
def decodeSem (w : Nat) : Option Instr :=
  let s : Fin 64 := Fin.ofNat 64 (bitsAt w 8 6)
  let d0 := zeroAt w 21 5; let a0 := zeroAt w 16 5; let lo0 := zeroAt w 0 6; let m0 := zeroAt w 6 2
  match bitsAt w 14 2 with
  | 0 => keepIf (d0 && a0 && lo0) (.semwait s (wmodeOf (bitsAt w 6 2)))
  | 1 => keepIf (d0 && lo0) (.sempost (gAt w 16) s (sopOf (bitsAt w 6 2)))
  | 2 => keepIf (a0 && lo0 && m0) (.semget (gAt w 21) s)
  | _ => keepIf (d0 && lo0 && m0) (.semset (gAt w 16) s)

/-- Major 0x30 (R52). -/
def decodeWork (w : Nat) : Option Instr :=
  let d := gAt w 21; let a := gAt w 16
  let q : Fin 256 := Fin.ofNat 256 (bitsAt w 0 8)
  let l := levelOf (bitsAt w 8 2)
  match bitsAt w 12 4 with
  | 0 => keepIf (zeroAt w 20 1 && zeroAt w 0 12) (.launch d (aAt w 16))
  | 1 => keepIf (zeroAt w 9 3) (.wpop d a (bitsAt w 8 1 == 1) q)
  | 2 => keepIf (zeroAt w 8 4) (.wpush d a q)
  | 3 => keepIf (zeroAt w 8 4) (.wsteal d a q)
  | 4 => keepIf (zeroAt w 21 5 && zeroAt w 10 2) (.ccwait a l q)
  | 5 => keepIf (zeroAt w 16 5 && zeroAt w 10 2) (.ccget d l q)
  | 6 => keepIf (zeroAt w 21 5 && zeroAt w 10 2 && zeroAt w 0 8) (.cancel a l)
  | 7 => keepIf (zeroAt w 20 1 && zeroAt w 0 12) (.watch d (aAt w 16))
  | _ => none

/-- Major 0x35 (R53). -/
def decodeBudget (w : Nat) : Option Instr :=
  let d0 := zeroAt w 21 5
  match bitsAt w 12 4 with
  | 0 => keepIf (d0 && zeroAt w 16 5 && zeroAt w 0 12) .yield
  | 1 => keepIf (d0 && zeroAt w 2 10) (.topup (gAt w 16) (Fin.ofNat 4 (bitsAt w 0 2)))
  | 2 => keepIf (d0 && zeroAt w 20 1 && zeroAt w 0 12) (.phase (aAt w 16))
  | 3 =>
    let e := divSelOf (bitsAt w 8 2)
    if bitsAt w 10 1 == 0 then keepIf (d0 && zeroAt w 16 5 && zeroAt w 11 1 && zeroAt w 5 3) (.setdiv e (Fin.ofNat 32 (bitsAt w 0 5)))
    else keepIf (d0 && zeroAt w 11 1 && zeroAt w 0 8) (.setdivRegister (gAt w 16) e)
  | _ => none

/-- Major 0x38 (R54). -/
def decodeCtx (w : Nat) : Option Instr :=
  let d := gAt w 21
  match bitsAt w 12 4 with
  | 0 => keepIf (zeroAt w 20 1 && zeroAt w 0 12) (.ctxnew d (aAt w 16))
  | 1 => keepIf (zeroAt w 20 1 && zeroAt w 0 12) (.ctxgrant d (aAt w 16))
  | 2 => keepIf (zeroAt w 20 1 && zeroAt w 1 11) (.ctxrevoke d (aAt w 16) (bitsAt w 0 1 == 1))
  | 3 => keepIf (zeroAt w 16 5 && zeroAt w 0 12) (.ctxrun d)
  | 4 => keepIf (zeroAt w 16 5 && zeroAt w 1 11) (.ctxstop d (bitsAt w 0 1 == 1))
  | 5 => keepIf (zeroAt w 8 4) (.ctxinfo d (gAt w 16) (BitVec.ofNat 8 (bitsAt w 0 8)))
  | _ => none

/-- Major 0x3C (R55). -/
def decodeSys (w : Nat) : Option Instr :=
  let d := gAt w 21; let a := gAt w 16
  let d0 := zeroAt w 21 5; let a0 := zeroAt w 16 5; let r0 := zeroAt w 8 4; let all0 := zeroAt w 0 12
  let r : BitVec 8 := BitVec.ofNat 8 (bitsAt w 0 8)
  match bitsAt w 12 4 with
  | 0 => keepIf (a0 && r0) (.mfs d r)
  | 1 => keepIf (d0 && r0) (.mts a r)
  | 2 => keepIf (d0 && a0 && r0) (.trap r)
  | 3 => keepIf (d0 && a0 && all0) .eret
  | 4 => keepIf (d0 && a0 && all0) .halt
  | 5 => keepIf (d0 && a0 && all0) .nop
  | 6 => keepIf (a0 && all0) (.time d)
  | 7 => keepIf (d0 && all0) (.waitt a)
  | _ => none

/-- The control-flow majors 0x20 to 0x28 (R48, R49). -/
def decodeFlow (w : Nat) : Option Instr :=
  let d := gAt w 21; let a := gAt w 16; let b := gAt w 16
  let off22 : BitVec 22 := BitVec.ofNat 22 (bitsAt w 0 22)
  match bitsAt w 26 6 with
  | 0x20 => keepIf (zeroAt w 22 4) (.b off22)
  | 0x21 => some (.bc d b (condOf (bitsAt w 13 3)) (BitVec.ofNat 13 (bitsAt w 0 13)))
  | 0x22 => match bitsAt w 16 5 with
    | 0 => some (.bz d (imm16 w)) | 1 => some (.bnz d (imm16 w)) | _ => none
  | 0x23 => keepIf (zeroAt w 23 3) (.bq (bitsAt w 22 1 == 1) off22)
  | 0x24 => keepIf (zeroAt w 0 13) (.bout d b (condOf (bitsAt w 13 3)))
  | 0x25 => keepIf (zeroAt w 22 4) (.call off22)
  | 0x26 => match bitsAt w 0 11 with
    | 0 => keepIf (zeroAt w 21 5 && zeroAt w 11 5) (.jmpi a)
    | 1 => keepIf (zeroAt w 21 5 && zeroAt w 11 5) (.calli a)
    | 2 => keepIf (zeroAt w 21 5 && zeroAt w 16 5 && zeroAt w 11 5) .ret
    | _ => none
  | 0x27 => keepIf (zeroAt w 21 5) (.loop a (imm16 w))
  | 0x28 => some (.loopi (BitVec.ofNat 10 (bitsAt w 16 10)) (imm16 w))
  | _ => none

/-- The memory majors 0x10 to 0x16 (R45). -/
def decodeMem (w : Nat) : Option Instr :=
  let t := gAt w 21; let a := aAt w 17; let c := clsAt w
  match bitsAt w 26 6 with
  | 0x10 => some (.ld t a c (offM w) (szM w))
  | 0x11 => some (.lds t a c (offM w) (szM w))
  | 0x12 => some (.st t a c (offM w) (szM w))
  | 0x13 => keepIf (zeroAt w 25 1 && zeroAt w 0 2) (.lda (aAt w 21) a c (offM w))
  | 0x14 => keepIf (zeroAt w 25 1 && zeroAt w 0 2) (.sta (aAt w 21) a c (offM w))
  | 0x15 => keepIf (zeroAt w 3 3)
      (.ldx t a c (gAt w 8) (Fin.ofNat 4 (bitsAt w 6 2)) (bitsAt w 2 1 == 1) (Fin.ofNat 4 (bitsAt w 0 2)))
  | 0x16 => keepIf (zeroAt w 2 4) (.stx t a c (gAt w 8) (Fin.ofNat 4 (bitsAt w 6 2)) (Fin.ofNat 4 (bitsAt w 0 2)))
  | _ => none

/-- The major opcode map (R41); w1 and w2 are the words that follow, which only an inline ENQ takes. Ranges are checked by
Instr.rangeOk afterwards. -/
def decodeMajor (w w1 w2 : Nat) : Option Instr :=
  match bitsAt w 26 6 with
  | 0x01 => decodeAlu w
  | 0x02 => decodeBit w
  | 0x03 => decodeMul w
  | 0x04 => some (.addi (gAt w 21) (gAt w 16) (imm16 w))
  | 0x05 => some (.andi (gAt w 21) (gAt w 16) (imm16 w))
  | 0x06 => some (.ori (gAt w 21) (gAt w 16) (imm16 w))
  | 0x07 => some (.xori (gAt w 21) (gAt w 16) (imm16 w))
  | 0x08 => decodeShiftI w
  | 0x09 => keepIf (zeroAt w 16 5) (.ldi (gAt w 21) (imm16 w))
  | 0x0A => keepIf (zeroAt w 18 3) (.ldk (gAt w 21) (Fin.ofNat 4 (bitsAt w 16 2)) (imm16 w))
  | 0x0C => decodeAddr w
  | 0x0D => keepIf (zeroAt w 25 1 && zeroAt w 20 1) (.aaddi (aAt w 21) (aAt w 16) (imm16 w))
  | 0x10 | 0x11 | 0x12 | 0x13 | 0x14 | 0x15 | 0x16 => decodeMem w
  | 0x18 => decodeAtomic w amoOf
  | 0x19 => decodeAtomic w casOf
  | 0x1A => match scopeOf (bitsAt w 21 3) with
    | some s => keepIf (zeroAt w 24 2 && zeroAt w 16 5) (.fence s (imm16 w))
    | none => none
  | 0x1B => decodeBarrier w
  | 0x20 | 0x21 | 0x22 | 0x23 | 0x24 | 0x25 | 0x26 | 0x27 | 0x28 => decodeFlow w
  | 0x2C => decodeEnq w w1 w2
  | 0x2D => decodeSem w
  | 0x2E => keepIf (zeroAt w 23 3 && zeroAt w 4 12) (.ringset (engOf (bitsAt w 21 2)) (gAt w 16) (Fin.ofNat 16 (bitsAt w 0 4)))
  | 0x30 => decodeWork w
  | 0x34 => keepIf (zeroAt w 16 10) (.cont (imm16 w))
  | 0x35 => decodeBudget w
  | 0x38 => decodeCtx w
  | 0x3C => decodeSys w
  | _ => none

/-- The instruction at a word of the sequence store, none where R40 names it illegal. -/
def decodeSeq (w w1 w2 : Nat) : Option Instr :=
  match decodeMajor w w1 w2 with
  | some i => keepIf i.rangeOk i
  | none => none

/-- The words of the sequence store from the program counter on. -/
def decodeWords : List Nat → Option Instr
  | [] => none
  | w :: r => decodeSeq w (r.getD 0 0) (r.getD 1 0)

/-- How many words an instruction takes (R37). -/
def Instr.words : Instr → Nat
  | .enqInline .. => 3
  | _ => 1

/-! ### The encoder of sequencer instructions -/

/-- Format R (R38). -/
def fmtR (op d a b fn : Nat) : Nat := op * 2 ^ 26 + d * 2 ^ 21 + a * 2 ^ 16 + b * 2 ^ 11 + fn

/-- Formats I and K (R38). -/
def fmtI (op d a i : Nat) : Nat := op * 2 ^ 26 + d * 2 ^ 21 + a * 2 ^ 16 + i

/-- Format M (R38, R45). -/
def fmtM (op t a c off z : Nat) : Nat := op * 2 ^ 26 + t * 2 ^ 21 + a * 2 ^ 17 + c * 2 ^ 13 + off * 2 ^ 2 + z

/-- Format X (R38). -/
def fmtX (op t a c g sc fn : Nat) : Nat := op * 2 ^ 26 + t * 2 ^ 21 + a * 2 ^ 17 + c * 2 ^ 13 + g * 2 ^ 8 + sc * 2 ^ 6 + fn

/-- Format B (R38). -/
def fmtB (op cond off : Nat) : Nat := op * 2 ^ 26 + cond * 2 ^ 22 + off

/-- Format C (R38). -/
def fmtC (op a b cond off : Nat) : Nat := op * 2 ^ 26 + a * 2 ^ 21 + b * 2 ^ 16 + cond * 2 ^ 13 + off

/-- A one-bit field. -/
def bitOf (b : Bool) : Nat := if b then 1 else 0

/-- The words of a sequencer instruction (R41-R55); the empty list for the other rows. -/
def encodeSeq : Instr → List Nat
  | .add d a b => [fmtR 1 d a b 0] | .sub d a b => [fmtR 1 d a b 1] | .and d a b => [fmtR 1 d a b 2]
  | .or d a b => [fmtR 1 d a b 3] | .xor d a b => [fmtR 1 d a b 4] | .andn d a b => [fmtR 1 d a b 5]
  | .shl d a b => [fmtR 1 d a b 6] | .shr d a b => [fmtR 1 d a b 7] | .sra d a b => [fmtR 1 d a b 8]
  | .rol d a b => [fmtR 1 d a b 9] | .min d a b => [fmtR 1 d a b 10] | .max d a b => [fmtR 1 d a b 11]
  | .minu d a b => [fmtR 1 d a b 12] | .maxu d a b => [fmtR 1 d a b 13] | .slt d a b => [fmtR 1 d a b 14]
  | .sltu d a b => [fmtR 1 d a b 15] | .seq d a b => [fmtR 1 d a b 16]
  | .clz d a => [fmtR 2 d a 0 0] | .ctz d a => [fmtR 2 d a 0 1] | .popc d a => [fmtR 2 d a 0 2]
  | .bfx d a b => [fmtR 2 d a b 3] | .bfxu d a b => [fmtR 2 d a b 4] | .bfi d a b => [fmtR 2 d a b 5]
  | .csel d a b => [fmtR 2 d a b 6]
  | .mul d a b => [fmtR 3 d a b 0] | .mulh d a b => [fmtR 3 d a b 1] | .mulhu d a b => [fmtR 3 d a b 2]
  | .div d a b => [fmtR 3 d a b 3] | .divu d a b => [fmtR 3 d a b 4] | .rem d a b => [fmtR 3 d a b 5]
  | .remu d a b => [fmtR 3 d a b 6]
  | .addi d a i => [fmtI 4 d a i.toNat] | .andi d a i => [fmtI 5 d a i.toNat]
  | .ori d a i => [fmtI 6 d a i.toNat] | .xori d a i => [fmtI 7 d a i.toNat]
  | .shli d a n => [fmtI 8 d a n] | .shri d a n => [fmtI 8 d a (0x4000 + n)]
  | .srai d a n => [fmtI 8 d a (0x8000 + n)] | .roli d a n => [fmtI 8 d a (0xC000 + n)]
  | .ldi d i => [fmtI 9 d 0 i.toNat] | .ldk d p i => [fmtI 10 d p i.toNat]
  | .aadd d a b => [fmtR 12 d a b 0] | .amov d a => [fmtR 12 d a 0 1] | .aget d a => [fmtR 12 d a 0 2]
  | .aseth d a => [fmtR 12 d a 0 3] | .aaddi d a i => [fmtI 13 d a i.toNat]
  | .ld t a c i z => [fmtM 16 t a c i.toNat z] | .lds t a c i z => [fmtM 17 t a c i.toNat z]
  | .st t a c i z => [fmtM 18 t a c i.toNat z]
  | .lda t a c i => [fmtM 19 t a c i.toNat 0] | .sta t a c i => [fmtM 20 t a c i.toNat 0]
  | .ldx t a c g s x z => [fmtX 21 t a c g s (bitOf x * 4 + z)] | .stx t a c g s z => [fmtX 22 t a c g s z]
  | .amoSwap t a c g o s => [fmtX 24 t a c g o.code s.code] | .amoAdd t a c g o s => [fmtX 24 t a c g o.code (8 + s.code)]
  | .amoAnd t a c g o s => [fmtX 24 t a c g o.code (16 + s.code)] | .amoOr t a c g o s => [fmtX 24 t a c g o.code (24 + s.code)]
  | .amoXor t a c g o s => [fmtX 24 t a c g o.code (32 + s.code)] | .amoMax t a c g o s => [fmtX 24 t a c g o.code (40 + s.code)]
  | .amoMin t a c g o s => [fmtX 24 t a c g o.code (48 + s.code)] | .amoMaxu t a c g o s => [fmtX 24 t a c g o.code (56 + s.code)]
  | .cas t a c g o s => [fmtX 25 t a c g o.code s.code]
  | .fence s m => [fmtI 26 s.code 0 m.toNat]
  | .barinit t a c s => [fmtX 27 t a c 0 0 s.code] | .barinitKill a c s => [fmtX 27 0 a c 0 0 (8 + s.code)]
  | .bararr t a c s => [fmtX 27 t a c 0 0 (16 + s.code)] | .barwait a c s => [fmtX 27 0 a c 0 0 (32 + s.code)]
  | .b o => [fmtB 32 0 o.toNat] | .bc a b c o => [fmtC 33 a b c.code o.toNat]
  | .bz d o => [fmtI 34 d 0 o.toNat] | .bnz d o => [fmtI 34 d 1 o.toNat]
  | .bq n o => [fmtB 35 (bitOf n) o.toNat] | .bout a b c => [fmtC 36 a b c.code 0]
  | .call o => [fmtB 37 0 o.toNat]
  | .jmpi a => [fmtR 38 0 a 0 0] | .calli a => [fmtR 38 0 a 0 1] | .ret => [fmtR 38 0 0 0 2]
  | .loop a l => [fmtI 39 0 a l.toNat] | .loopi n l => [40 * 2 ^ 26 + n.toNat * 2 ^ 16 + l.toNat]
  | .enq r a => [fmtR 44 r.code a 0 0]
  | .enqInline r w => [fmtR 44 r.code 0 0 1, w.toNat % 2 ^ 32, w.toNat / 2 ^ 32]
  | .semwait s m => [fmtI 45 0 0 (s * 2 ^ 8 + m.code * 2 ^ 6)]
  | .sempost a s m => [fmtI 45 0 a (2 ^ 14 + s * 2 ^ 8 + m.code * 2 ^ 6)]
  | .semget d s => [fmtI 45 d 0 (2 * 2 ^ 14 + s * 2 ^ 8)] | .semset a s => [fmtI 45 0 a (3 * 2 ^ 14 + s * 2 ^ 8)]
  | .ringset r a z => [fmtI 46 r.code a z]
  | .launch d a => [fmtI 48 d a 0] | .wpop d a n q => [fmtI 48 d a (2 ^ 12 + bitOf n * 2 ^ 8 + q)]
  | .wpush d a q => [fmtI 48 d a (2 * 2 ^ 12 + q)] | .wsteal d a q => [fmtI 48 d a (3 * 2 ^ 12 + q)]
  | .ccwait a l n => [fmtI 48 0 a (4 * 2 ^ 12 + l.code * 2 ^ 8 + n)] | .ccget d l n => [fmtI 48 d 0 (5 * 2 ^ 12 + l.code * 2 ^ 8 + n)]
  | .cancel a l => [fmtI 48 0 a (6 * 2 ^ 12 + l.code * 2 ^ 8)] | .watch d a => [fmtI 48 d a (7 * 2 ^ 12)]
  | .cont n => [fmtI 52 0 0 n.toNat]
  | .yield => [fmtI 53 0 0 0] | .topup a r => [fmtI 53 0 a (2 ^ 12 + r)] | .phase a => [fmtI 53 0 a (2 * 2 ^ 12)]
  | .setdiv e v => [fmtI 53 0 0 (3 * 2 ^ 12 + e.code * 2 ^ 8 + v)]
  | .setdivRegister a e => [fmtI 53 0 a (3 * 2 ^ 12 + 2 ^ 10 + e.code * 2 ^ 8)]
  | .ctxnew d a => [fmtI 56 d a 0] | .ctxgrant d a => [fmtI 56 d a (2 ^ 12)]
  | .ctxrevoke d a h => [fmtI 56 d a (2 * 2 ^ 12 + bitOf h)] | .ctxrun d => [fmtI 56 d 0 (3 * 2 ^ 12)]
  | .ctxstop d h => [fmtI 56 d 0 (4 * 2 ^ 12 + bitOf h)] | .ctxinfo d a i => [fmtI 56 d a (5 * 2 ^ 12 + i.toNat)]
  | .mfs d r => [fmtI 60 d 0 r.toNat] | .mts a r => [fmtI 60 0 a (2 ^ 12 + r.toNat)]
  | .trap c => [fmtI 60 0 0 (2 * 2 ^ 12 + c.toNat)] | .eret => [fmtI 60 0 0 (3 * 2 ^ 12)]
  | .halt => [fmtI 60 0 0 (4 * 2 ^ 12)] | .nop => [fmtI 60 0 0 (5 * 2 ^ 12)]
  | .time d => [fmtI 60 d 0 (6 * 2 ^ 12)] | .waitt a => [fmtI 60 0 a (7 * 2 ^ 12)]
  | _ => []

/-- The instruction the decoder reads from bits numbered as spec/opcode_table.json numbers them: bit 0 is the least
significant bit of the first word (R37: little-endian words). -/
def decodeTableWord (nbits w : Nat) : Option Instr :=
  let v := bitsAt w 0 nbits
  decodeWords [bitsAt v 0 32, bitsAt v 32 32, bitsAt v 64 32]

/-! ## Engine commands -/

/-- The conditions of R56 in the order of R16: the QUAL of the first that fails, or the command. rsv: the reserved bits are
zero; raw: a raw code that has no term is in range. -/
def checked (rsv raw : Bool) (i : Instr) : Except Nat Instr :=
  if !rsv then .error 1
  else if !(raw && i.rangeOk) then .error 2
  else if !i.alignOk then .error 3
  else if !i.typeOk then .error 4
  else .ok i

/-- The wait and signal fields of a command word (R13). -/
def syncOf (w : Nat) : Sync :=
  { wsem := Fin.ofNat 64 (bitsAt w 58 6), wmode := wmodeOf (bitsAt w 56 2),
    ssem := Fin.ofNat 64 (bitsAt w 50 6), sop := sopOf (bitsAt w 48 2) }

/-- The upper 16 bits of a command word (R13). -/
def Sync.code (y : Sync) : Nat := y.wsem * 2 ^ 10 + y.wmode.code * 2 ^ 8 + y.ssem * 2 ^ 2 + y.sop.code

/-- A command word from its parts (R13). -/
def cmdWord (y : Sync) (opc opnd : Nat) : Nat := y.code * 2 ^ 48 + opc * 2 ^ 40 + opnd

/-- A Serir operand field (R58). -/
def opdOf (f : Nat) : Opd :=
  match bitsAt f 10 2 with
  | 0 => .row (Fin.ofNat 8 (bitsAt f 7 3)) (Fin.ofNat 128 (bitsAt f 0 7))
  | 1 => .sof (Fin.ofNat 16 (bitsAt f 0 4))
  | 2 => .latch
  | _ => .scalar (Fin.ofNat 16 (bitsAt f 0 4))

/-- The reserved bits of a Serir operand field are zero (R58). -/
def opdRsv (f : Nat) : Bool :=
  match bitsAt f 10 2 with
  | 0 => true
  | 1 => zeroAt f 4 6
  | 2 => zeroAt f 0 10
  | _ => zeroAt f 4 6

/-- The code of an operand (R58). -/
def Opd.code : Opd → Nat
  | .row v r => v * 2 ^ 7 + r
  | .sof k => 2 ^ 10 + k
  | .latch => 2 * 2 ^ 10
  | .scalar z => 3 * 2 ^ 10 + z

/-- A 22-bit offset. -/
def offOf (w lo : Nat) : BitVec 22 := BitVec.ofNat 22 (bitsAt w lo 22)

/-- A tile number field. -/
def tileAt (w lo : Nat) : Fin 32 := Fin.ofNat 32 (bitsAt w lo 5)

/-- Erg's command map (R57). -/
def decodeErg (w : Nat) : Except Nat Instr :=
  let y := syncOf w
  let off := offOf w 0
  let f := tileAt w 0; let c := tileAt w 5
  let h (lo : Nat) : Bool := zeroAt w lo (40 - lo)
  match bitsAt w 40 8 with
  | 0x00 => checked (h 0) true (.engineNop .m y)
  | 0x01 => checked (h 8) true (.mprec y (Fin.ofNat 16 (bitsAt w 4 4)) (Fin.ofNat 16 (bitsAt w 0 4)))
  | 0x02 => checked (h 30) true (.mlda y off (Fin.ofNat 16 (bitsAt w 22 4)) (Fin.ofNat 16 (bitsAt w 26 4)))
  | 0x03 => checked (h 28) true (.mstep y off (tileAt w 22) (bitsAt w 27 1 == 1))
  | 0x04 => checked (h 22) true (.mnest y off)
  | 0x05 => checked (h 0) true (.mgo y)
  | 0x06 => checked (h 18) true (.mclr y f c (BitVec.ofNat 8 (bitsAt w 10 8)))
  | 0x07 => checked (h 18) true (.manch y f c (BitVec.ofNat 8 (bitsAt w 10 8)))
  | 0x08 => checked (h 26) true (.mpin y f c (BitVec.ofNat 16 (bitsAt w 10 16)))
  | 0x09 => checked (h 10) true (.munpin y f c)
  | 0x0A => checked (h 11) true (.mspill y f c (bitsAt w 10 1 == 1))
  | 0x0B => checked (h 10) true (.mfill y f c)
  | 0x0C => checked (h 35) true (.mdelta y f (Fin.ofNat 4 (bitsAt w 5 2)) (Fin.ofNat 64 (bitsAt w 7 6)) (offOf w 13))
  | 0x0D =>
    let d := bitsAt w 7 12; let q := bitsAt w 19 12
    checked (h 31 && opdRsv d && opdRsv q) true (.mquery y f (Fin.ofNat 4 (bitsAt w 5 2)) (opdOf d) (opdOf q))
  | _ => .error 0

/-- Wadi's command map (R60); e names the copy stream of a NOP. -/
def decodeWadi (e : Eng) (w : Nat) : Except Nat Instr :=
  let y := syncOf w
  let off := offOf w 0
  let h (lo : Nat) : Bool := zeroAt w lo (40 - lo)
  let p : Fin 16 := Fin.ofNat 16 (bitsAt w 22 4)
  match bitsAt w 40 8 with
  | 0x00 => checked (h 0) true (.engineNop e y)
  | 0x01 => checked (h 22) true (.ccopy y off)
  | 0x02 => checked (h 22) true (.cnest y off)
  | 0x03 => checked (h 22) true (.cgo y off)
  | 0x04 => checked (h 26) true (.cpack y off p)
  | 0x05 => checked (h 26) true (.cunpack y off p)
  | 0x06 => checked (h 26) (bitsAt w 22 2 != 3 && bitsAt w 24 2 != 3)
      (.cred y off (redOpOf (bitsAt w 22 2)) (redTypeOf (bitsAt w 24 2)))
  | 0x07 => checked (h 22) true (.cfill y off)
  | 0x08 => checked (h 22) true (.cpref y off)
  | 0x09 => checked (h 22) true (.cflush y off)
  | 0x0A => checked (h 22) true (.cjump y off)
  | _ => .error 0

/-- A mask register field. -/
def maskAt (w lo : Nat) : Fin 8 := Fin.ofNat 8 (bitsAt w lo 3)

/-- Serir's commands whose three operand fields are operands (R59). -/
def decodeVec3 (w : Nat) (i : Opd → Opd → Opd → Instr) : Except Nat Instr :=
  let d := bitsAt w 24 12; let a := bitsAt w 12 12; let b := bitsAt w 0 12
  checked (opdRsv d && opdRsv a && opdRsv b) true (i (opdOf d) (opdOf a) (opdOf b))

/-- Serir's commands with a destination and one source (R59); rsv and raw are the conditions on source 2. R58 says that a field
the map marks zero must hold 0x000 and names no QUAL: a nonzero one counts as reserved, QUAL 1 (DESIGN CHOICE,
notes/assumptions/73.md). -/
def decodeVec2 (w : Nat) (rsv raw : Bool) (i : Opd → Opd → Instr) : Except Nat Instr :=
  let d := bitsAt w 24 12; let a := bitsAt w 12 12
  checked (opdRsv d && opdRsv a && rsv) raw (i (opdOf d) (opdOf a))

/-- Serir's comparisons (R59): the destination field names a mask. -/
def decodeVecCmp (w : Nat) (i : Opd → Opd → Instr) : Except Nat Instr :=
  let a := bitsAt w 12 12; let b := bitsAt w 0 12
  checked (zeroAt w 27 9 && opdRsv a && opdRsv b) true (i (opdOf a) (opdOf b))

/-- Serir's mask commands (R59, R170): bit 36 must be 0 (QUAL 2) and the type 000 (QUAL 4). -/
def decodeVecMask (w : Nat) (rsv : Bool) (i : Instr) : Except Nat Instr :=
  match checked rsv (bitsAt w 36 1 == 0) i with
  | .ok i => if bitsAt w 37 3 == 0 then .ok i else .error 4
  | .error q => .error q

/-- A check of the type code for a command that names no type (R59: 000). -/
def typeZero (w : Nat) (r : Except Nat Instr) : Except Nat Instr :=
  match r with
  | .ok i => if bitsAt w 37 3 == 0 then .ok i else .error 4
  | .error q => .error q

/-- A check that a command's fixed type is the one given (R59). -/
def typeIs (w : Nat) (t : VType) (r : Except Nat Instr) : Except Nat Instr :=
  match r with
  | .ok i => if bitsAt w 37 3 == t.code then .ok i else .error 4
  | .error q => .error q

/-- The commands 0x00 to 0x17 of Serir's map (R59). NOP has no type and no mask in the map and R154 does not list it: nonzero
type bits or bit 36 count as reserved, QUAL 1 (DESIGN CHOICE, notes/assumptions/73.md). -/
def decodeSerirArith (w : Nat) : Except Nat Instr :=
  let y := syncOf w; let t := vtypeOf (bitsAt w 37 3); let m := bitsAt w 36 1 == 1
  let z2 := zeroAt w 0 12
  match bitsAt w 40 8 with
  | 0x00 => checked (zeroAt w 0 40) true (.engineNop .v y)
  | 0x01 => decodeVec3 w (.vadd y t m)
  | 0x02 => decodeVec3 w (.vsub y t m)
  | 0x03 => decodeVec3 w (.vmul y t m)
  | 0x04 => decodeVec3 w (.vfma y t m)
  | 0x05 => decodeVec3 w (.vmin y t m)
  | 0x06 => decodeVec3 w (.vmax y t m)
  | 0x07 => decodeVec2 w z2 true (.vabs y t m)
  | 0x08 => decodeVec2 w z2 true (.vneg y t m)
  | 0x09 => typeIs w .fp32 (decodeVec2 w z2 true (.vexp2 y m))
  | 0x0A => typeIs w .fp32 (decodeVec2 w z2 true (.vlog2 y m))
  | 0x0B => typeIs w .fp32 (decodeVec2 w z2 true (.vrcp y m))
  | 0x0C => typeIs w .fp32 (decodeVec2 w z2 true (.vrsq y m))
  | 0x0D => typeIs w .fp32 (decodeVec2 w z2 true (.vsqrt y m))
  | 0x0E => decodeVec3 w (.vmac8 y t m)
  | 0x0F => decodeVec3 w (.vadds y t m)
  | 0x10 => decodeVec3 w (.vsubs y t m)
  | 0x11 => decodeVec3 w (.vand y t m)
  | 0x12 => decodeVec3 w (.vor y t m)
  | 0x13 => decodeVec3 w (.vxor y t m)
  | 0x14 => decodeVec3 w (.vshl y t m)
  | 0x15 => decodeVec3 w (.vshr y t m)
  | 0x16 => decodeVec3 w (.vsra y t m)
  | 0x17 => decodeVec2 w (zeroAt w 5 7) true (fun d a => .vrshr y t m d a (Fin.ofNat 32 (bitsAt w 0 5)))
  | _ => .error 0

/-- The commands 0x18 to 0x2B of Serir's map (R59). -/
def decodeSerirData (w : Nat) : Except Nat Instr :=
  let y := syncOf w; let t := vtypeOf (bitsAt w 37 3); let m := bitsAt w 36 1 == 1
  let z2 := zeroAt w 0 12
  let nomask := bitsAt w 36 1 == 0
  match bitsAt w 40 8 with
  | 0x18 => decodeVecCmp w (.vceq y t m (maskAt w 24))
  | 0x19 => decodeVecCmp w (.vcne y t m (maskAt w 24))
  | 0x1A => decodeVecCmp w (.vclt y t m (maskAt w 24))
  | 0x1B => decodeVecCmp w (.vcle y t m (maskAt w 24))
  | 0x1C =>
    let d := bitsAt w 24 12; let a := bitsAt w 12 12; let b := bitsAt w 0 12
    checked (opdRsv d && opdRsv a && opdRsv b) nomask (.vsel y t (opdOf d) (opdOf a) (opdOf b))
  | 0x1D => decodeVec2 w z2 true (.vbcst y t m)
  | 0x1E => decodeVec3 w (.vperm y t m)
  | 0x1F => decodeVec2 w z2 true (.vtrn y t m)
  | 0x20 => decodeVec2 w (zeroAt w 3 9) (bitsAt w 0 3 ≤ 2) (fun d a => .vred y t m d a (redOpOf (bitsAt w 0 3)))
  | 0x21 => decodeVecMask w (zeroAt w 27 9 && zeroAt w 0 24) (.vmsk y (maskAt w 24))
  | 0x22 => decodeVecMask w (zeroAt w 27 9 && zeroAt w 15 9 && zeroAt w 3 9) (.vmand y (maskAt w 24) (maskAt w 12) (maskAt w 0))
  | 0x23 => decodeVecMask w (zeroAt w 27 9 && zeroAt w 15 9 && zeroAt w 3 9) (.vmor y (maskAt w 24) (maskAt w 12) (maskAt w 0))
  | 0x24 => decodeVecMask w (zeroAt w 27 9 && zeroAt w 15 9 && zeroAt w 3 9) (.vmxor y (maskAt w 24) (maskAt w 12) (maskAt w 0))
  | 0x25 => decodeVecMask w (zeroAt w 27 9 && zeroAt w 15 9 && zeroAt w 0 12) (.vmnot y (maskAt w 24) (maskAt w 12))
  | 0x26 =>
    let d := bitsAt w 24 12
    match opdOf d with
    | .scalar z => decodeVecMask w (opdRsv d && zeroAt w 15 9 && zeroAt w 0 12) (.vmpop y z (maskAt w 12))
    | _ => .error (if opdRsv d && zeroAt w 15 9 && zeroAt w 0 12 then 2 else 1)
  | 0x28 => decodeVec2 w (zeroAt w 3 9) true (fun d a => .vcvt y t m d a (vtypeOf (bitsAt w 0 3)))
  | 0x29 =>
    let k : Fin 16 := Fin.ofNat 16 (bitsAt w 7 4)
    if bitsAt w 0 3 == 4 then
      decodeVec2 w (zeroAt w 11 1) nomask (fun d a => .vqntPb y t d a (Fin.ofNat 16 (bitsAt w 3 4)) k)
    else
      decodeVec2 w (zeroAt w 11 1) (nomask && bitsAt w 0 3 < 4 && zeroAt w 3 4)
        (fun d a => .vqnt y t d a (kindOf (bitsAt w 0 3)) k)
  | 0x2A => decodeVec2 w (zeroAt w 3 9) (nomask && bitsAt w 0 3 ≤ 4) (fun d a => .vscl y t d a (qtargetOf (bitsAt w 0 3)))
  | 0x2B => typeIs w .mx (decodeVec3 w (.vdeq y m))
  | _ => .error 0

/-- The commands 0x30 to 0x39 of Serir's map (R59). -/
def decodeSerirMove (w : Nat) : Except Nat Instr :=
  let y := syncOf w; let t := vtypeOf (bitsAt w 37 3); let m := bitsAt w 36 1 == 1
  let z2 := zeroAt w 0 12
  let nomask := bitsAt w 36 1 == 0
  let d := bitsAt w 24 12; let a := bitsAt w 12 12; let b := bitsAt w 0 12
  match bitsAt w 40 8 with
  | 0x30 => typeZero w (checked (opdRsv d && zeroAt w 22 2) true (.vld y m (opdOf d) (offOf w 0)))
  | 0x31 => typeZero w (checked (opdRsv d && zeroAt w 22 2) true (.vst y m (opdOf d) (offOf w 0)))
  | 0x32 => match opdOf b with
    | .scalar z => checked (opdRsv d && opdRsv a && opdRsv b) true (.vgath y t m (opdOf d) (opdOf a) z)
    | _ => .error (if opdRsv d && opdRsv a && opdRsv b then 2 else 1)
  | 0x33 => match opdOf b with
    | .scalar z => checked (opdRsv d && opdRsv a && opdRsv b) true (.vscat y t m (opdOf d) (opdOf a) z)
    | _ => .error (if opdRsv d && opdRsv a && opdRsv b then 2 else 1)
  | 0x34 => checked (opdRsv d && zeroAt w 17 7 && z2) true (.vacc y t m (opdOf d) (tileAt w 12))
  | 0x35 => typeIs w .fp32 (checked (zeroAt w 29 7 && opdRsv a && z2) true (.vacw y m (tileAt w 24) (opdOf a)))
  | 0x36 => checked (zeroAt w 0 3) nomask
      (.vview y t (maskAt w 33) (BitVec.ofNat 11 (bitsAt w 22 11)) (BitVec.ofNat 6 (bitsAt w 16 6))
        (BitVec.ofNat 11 (bitsAt w 5 11)) (kindOf (bitsAt w 3 2)))
  | 0x38 => checked (zeroAt w 27 9 && opdRsv a && zeroAt w 5 7) true
      (.vdefer y t m (maskAt w 24) (opdOf a) (Fin.ofNat 4 (bitsAt w 0 2)) (maskAt w 2))
  | 0x39 => checked (opdRsv d && zeroAt w 15 9 && zeroAt w 9 3) nomask
      (.vdrain y t (opdOf d) (maskAt w 12) (Fin.ofNat 4 (bitsAt w 0 2)) (maskAt w 2) (bitsAt w 5 1 == 1) (maskAt w 6))
  | _ => .error 0

/-- The rounding variants of Serir's map (R58, R159). -/
def decodeSerirRound (w : Nat) : Except Nat Instr :=
  let y := syncOf w; let t := vtypeOf (bitsAt w 37 3); let m := bitsAt w 36 1 == 1
  match bitsAt w 40 8 with
  | 0x41 => decodeVec3 w (.vaddRz y t m)
  | 0x42 => decodeVec3 w (.vsubRz y t m)
  | 0x43 => decodeVec3 w (.vmulRz y t m)
  | 0x44 => decodeVec3 w (.vfmaRz y t m)
  | 0x68 => decodeVec2 w (zeroAt w 3 9) true (fun d a => .vcvtRz y t m d a (vtypeOf (bitsAt w 0 3)))
  | 0x81 => decodeVec3 w (.vaddSr y t m)
  | 0x82 => decodeVec3 w (.vsubSr y t m)
  | 0x83 => decodeVec3 w (.vmulSr y t m)
  | 0x84 => decodeVec3 w (.vfmaSr y t m)
  | 0xA8 => decodeVec2 w (zeroAt w 3 9) true (fun d a => .vcvtSr y t m d a (vtypeOf (bitsAt w 0 3)))
  | _ => .error 0

/-- Serir's command map (R59). -/
def decodeSerir (w : Nat) : Except Nat Instr :=
  let o := bitsAt w 40 8
  if o < 0x18 then decodeSerirArith w
  else if o < 0x30 then decodeSerirData w
  else if o < 0x40 then decodeSerirMove w
  else decodeSerirRound w

/-- The static check of R16 (conditions 1 to 5) of a command word on an engine stream. -/
def decodeCmd (e : Eng) (w : Nat) : Except Nat Instr :=
  match e with
  | .m => decodeErg w
  | .v => decodeSerir w
  | .c0 => decodeWadi .c0 w
  | .c1 => decodeWadi .c1 w

/-! ### The encoder of engine commands -/

/-- The operand fields of a Serir command (R58). -/
def vecWord (y : Sync) (opc : Nat) (t m d a b : Nat) : Nat :=
  cmdWord y opc (t * 2 ^ 37 + m * 2 ^ 36 + d * 2 ^ 24 + a * 2 ^ 12 + b)

/-- A Serir command with three operands. -/
def vec3 (y : Sync) (opc : Nat) (t : VType) (m : Bool) (d a b : Opd) : Nat :=
  vecWord y opc t.code (bitOf m) d.code a.code b.code

/-- A Serir command with a destination, one source and a literal source 2. -/
def vec2 (y : Sync) (opc : Nat) (t : VType) (m : Bool) (d a : Opd) (b : Nat) : Nat :=
  vecWord y opc t.code (bitOf m) d.code a.code b

/-- The word of an engine command (R57-R60); 0 for the other rows. -/
def encodeCmd : Instr → Nat
  | .engineNop _ y => cmdWord y 0 0
  | .mprec y a b => cmdWord y 1 (a * 2 ^ 4 + b)
  | .mlda y off f c => cmdWord y 2 (c * 2 ^ 26 + f * 2 ^ 22 + off.toNat)
  | .mstep y off f c => cmdWord y 3 (bitOf c * 2 ^ 27 + f * 2 ^ 22 + off.toNat)
  | .mnest y off => cmdWord y 4 off.toNat
  | .mgo y => cmdWord y 5 0
  | .mclr y f c a => cmdWord y 6 (a.toNat * 2 ^ 10 + c * 2 ^ 5 + f)
  | .manch y f c a => cmdWord y 7 (a.toNat * 2 ^ 10 + c * 2 ^ 5 + f)
  | .mpin y f c k => cmdWord y 8 (k.toNat * 2 ^ 10 + c * 2 ^ 5 + f)
  | .munpin y f c => cmdWord y 9 (c * 2 ^ 5 + f)
  | .mspill y f c b => cmdWord y 10 (bitOf b * 2 ^ 10 + c * 2 ^ 5 + f)
  | .mfill y f c => cmdWord y 11 (c * 2 ^ 5 + f)
  | .mdelta y f d c off => cmdWord y 12 (off.toNat * 2 ^ 13 + c * 2 ^ 7 + d * 2 ^ 5 + f)
  | .mquery y f d dst q => cmdWord y 13 (q.code * 2 ^ 19 + dst.code * 2 ^ 7 + d * 2 ^ 5 + f)
  | .vadd y t m d a b => vec3 y 1 t m d a b | .vsub y t m d a b => vec3 y 2 t m d a b
  | .vmul y t m d a b => vec3 y 3 t m d a b | .vfma y t m d a b => vec3 y 4 t m d a b
  | .vaddRz y t m d a b => vec3 y 0x41 t m d a b | .vsubRz y t m d a b => vec3 y 0x42 t m d a b
  | .vmulRz y t m d a b => vec3 y 0x43 t m d a b | .vfmaRz y t m d a b => vec3 y 0x44 t m d a b
  | .vcvtRz y t m d a dt => vec2 y 0x68 t m d a dt.code
  | .vaddSr y t m d a b => vec3 y 0x81 t m d a b | .vsubSr y t m d a b => vec3 y 0x82 t m d a b
  | .vmulSr y t m d a b => vec3 y 0x83 t m d a b | .vfmaSr y t m d a b => vec3 y 0x84 t m d a b
  | .vcvtSr y t m d a dt => vec2 y 0xA8 t m d a dt.code
  | .vmin y t m d a b => vec3 y 5 t m d a b | .vmax y t m d a b => vec3 y 6 t m d a b
  | .vabs y t m d a => vec2 y 7 t m d a 0 | .vneg y t m d a => vec2 y 8 t m d a 0
  | .vexp2 y m d a => vec2 y 9 .fp32 m d a 0 | .vlog2 y m d a => vec2 y 10 .fp32 m d a 0
  | .vrcp y m d a => vec2 y 11 .fp32 m d a 0 | .vrsq y m d a => vec2 y 12 .fp32 m d a 0
  | .vsqrt y m d a => vec2 y 13 .fp32 m d a 0
  | .vmac8 y t m d a b => vec3 y 14 t m d a b
  | .vadds y t m d a b => vec3 y 15 t m d a b | .vsubs y t m d a b => vec3 y 16 t m d a b
  | .vand y t m d a b => vec3 y 17 t m d a b | .vor y t m d a b => vec3 y 18 t m d a b
  | .vxor y t m d a b => vec3 y 19 t m d a b | .vshl y t m d a b => vec3 y 20 t m d a b
  | .vshr y t m d a b => vec3 y 21 t m d a b | .vsra y t m d a b => vec3 y 22 t m d a b
  | .vrshr y t m d a s => vec2 y 23 t m d a s
  | .vceq y t m k a b => vecWord y 0x18 t.code (bitOf m) k a.code b.code
  | .vcne y t m k a b => vecWord y 0x19 t.code (bitOf m) k a.code b.code
  | .vclt y t m k a b => vecWord y 0x1A t.code (bitOf m) k a.code b.code
  | .vcle y t m k a b => vecWord y 0x1B t.code (bitOf m) k a.code b.code
  | .vsel y t d a b => vec3 y 0x1C t false d a b
  | .vbcst y t m d a => vec2 y 0x1D t m d a 0
  | .vperm y t m d a b => vec3 y 0x1E t m d a b
  | .vtrn y t m d a => vec2 y 0x1F t m d a 0
  | .vred y t m d a o => vec2 y 0x20 t m d a o.code
  | .vmsk y k => vecWord y 0x21 0 0 k 0 0
  | .vmand y d a b => vecWord y 0x22 0 0 d a b
  | .vmor y d a b => vecWord y 0x23 0 0 d a b
  | .vmxor y d a b => vecWord y 0x24 0 0 d a b
  | .vmnot y d a => vecWord y 0x25 0 0 d a 0
  | .vmpop y z a => vecWord y 0x26 0 0 (Opd.scalar z).code a 0
  | .vcvt y t m d a dt => vec2 y 0x28 t m d a dt.code
  | .vqnt y t d a k s => vec2 y 0x29 t false d a (s * 2 ^ 7 + k.code)
  | .vqntPb y t d a p s => vec2 y 0x29 t false d a (s * 2 ^ 7 + p * 2 ^ 3 + 4)
  | .vscl y t d a k => vec2 y 0x2A t false d a k.code
  | .vdeq y m d a b => vec3 y 0x2B .mx m d a b
  | .vld y m d off => cmdWord y 0x30 (bitOf m * 2 ^ 36 + d.code * 2 ^ 24 + off.toNat)
  | .vst y m d off => cmdWord y 0x31 (bitOf m * 2 ^ 36 + d.code * 2 ^ 24 + off.toNat)
  | .vgath y t m d a z => vec3 y 0x32 t m d a (.scalar z)
  | .vscat y t m d a z => vec3 y 0x33 t m d a (.scalar z)
  | .vacc y t m d k => vecWord y 0x34 t.code (bitOf m) d.code k 0
  | .vacw y m k a => vecWord y 0x35 0 (bitOf m) k a.code 0
  | .vview y t w base len count k =>
      cmdWord y 0x36 (t.code * 2 ^ 37 + w * 2 ^ 33 + base.toNat * 2 ^ 22 + len.toNat * 2 ^ 16 + count.toNat * 2 ^ 5 + k.code * 2 ^ 3)
  | .vdefer y t m q a v p => vecWord y 0x38 t.code (bitOf m) q a.code (p * 2 ^ 2 + v)
  | .vdrain y t d q v p f k => vecWord y 0x39 t.code 0 d.code q (k * 2 ^ 6 + bitOf f * 2 ^ 5 + p * 2 ^ 2 + v)
  | .ccopy y off => cmdWord y 1 off.toNat | .cnest y off => cmdWord y 2 off.toNat | .cgo y off => cmdWord y 3 off.toNat
  | .cpack y off p => cmdWord y 4 (p * 2 ^ 22 + off.toNat) | .cunpack y off p => cmdWord y 5 (p * 2 ^ 22 + off.toNat)
  | .cred y off o t => cmdWord y 6 (t.code * 2 ^ 24 + o.code * 2 ^ 22 + off.toNat)
  | .cfill y off => cmdWord y 7 off.toNat | .cpref y off => cmdWord y 8 off.toNat | .cflush y off => cmdWord y 9 off.toNat
  | .cjump y off => cmdWord y 10 off.toNat
  | _ => 0

end Sys2Proof
end

