-- ==== Sys2Proof/Machine/State.lean ====
section
/-! DEFINITION. The state of one package, as plain data: every piece of state that the spec names (INVENTORY.md, State),
its value after reset, the faults and the refusals. -/

namespace Sys2Proof.Machine

open Sys2Proof

/-- Bytes by address: addresses strictly rising, no byte equal to 0, which is what an unlisted address reads as
(notes/assumptions/5.md). Used for memory, scratchpad, URS, SOF, latch, sequence store and plane latches. -/
abbrev Cells := List Host.Cell

/-! ## One sequencer -/

/-- The mark of a register or queue entry whose data came back bad (R110, R403): the cause that its first reader raises
and the address that TINFO reports. -/
structure Mark where
  cause : BitVec 8
  qual : BitVec 4
  addr : A80
  deriving DecidableEq, Repr

/-- A level of a hardware loop (R114); the last body word may lie past the end of the store. -/
structure LoopLevel where
  start : BitVec 17
  last : BitVec 19
  count : W64
  deriving DecidableEq, Repr

/-- The barrier arrival record (R134). -/
structure Arrival where
  addr : A80
  gen : BitVec 32
  deriving DecidableEq, Repr

/-- An entry of a data queue (R71): a value with its mark, or the place reserved by a load into g30 or g31 (R126). -/
inductive Slot where
  | ready (v : W64) (m : Option Mark)
  | reserved (id : Nat)
  deriving DecidableEq, Repr

/-- Why a sequencer has not completed its next instruction (R72, R108, R138, R143, R255, R321). -/
inductive Stall where
  | none
  | interlock                        -- a register whose load has not returned (R85)
  | order                            -- earlier accesses still to be performed (R131, R238), or 32 loads outstanding (R109)
  | popEmpty                         -- a data or branch-outcome queue is empty
  | pushFull                         -- a data or branch-outcome queue is full
  | ringFull (e : Eng)
  | ringBusy (e : Eng)               -- RINGSET (R22)
  | seed                             -- MTS to SEED (R143)
  | sem (s : Fin 64) (m : WMode)
  | barrier
  | tick (t : W64)                   -- WAITT (R147)
  | counter                          -- CCWAIT (R251)
  | workQueue (q : Fin 256)          -- a blocking WPOP (R253)
  | cont                             -- a CONT meeting (R260)
  | segment                          -- PHASE (R268)
  | revoking                         -- a context under revocation (R328)
  deriving DecidableEq, Repr

/-- Where the data of a load or an atomic goes (R126): a g or a register, a queue entry, or nowhere. -/
inductive Dest where
  | g (r : GReg)
  | a (r : AReg)
  | push (r : GReg)
  | discard
  deriving DecidableEq, Repr

/-- A place in which bytes lie: the core's own scratchpad (R124), memory at a physical address, or a remote export (R401). -/
inductive Space where
  | spad
  | phys
  | remote (node part : Nat) (exp : Fin 16)
  deriving DecidableEq, Repr

/-- A part of an access, within one page (R125): its address in the program's space, where it lies, its length. -/
structure Piece where
  va : A80
  space : Space
  addr : Nat
  len : Nat
  deriving DecidableEq, Repr

/-- What an outstanding access does (R126, R128, R129). -/
inductive AccessOp where
  | load (size : Nat) (sx : Bool)
  | loadA
  | store (bytes : List Byte)
  | amo (op : Fin 8) (operand : W64)
  | cas (expected new : W64)
  deriving DecidableEq, Repr

/-- An access of a sequencer that has completed (R108) and is not yet performed or has not yet returned: class, pieces,
destination, orders of an atomic; answers: what came back from remote pieces so far, and what the local pieces that were
performed ahead of the others gave (R125). -/
structure Access where
  id : Nat
  cls : Cls
  op : AccessOp
  dest : Dest
  pieces : List Piece
  acq : Bool
  rel : Bool
  wide : Bool                            -- its acquire reaches the fabric's observers (R235)
  since : W64                            -- the tick of its issue (R403)
  answers : List (Nat × RemoteAns)
  sent : Bool
  deriving DecidableEq, Repr

/-- A deferred cause of a remote store (R404), with the store's number, which rises in program order. -/
structure Deferred where
  id : Nat
  cause : BitVec 8
  cls : Cls
  addr : A80
  deriving DecidableEq, Repr

/-- One sequencer (R70, R107, R110, R114, R134, R144, R266). -/
structure Seq where
  g : Vector W64 32
  gMark : Vector (Option Mark) 32
  a : Vector A80 16
  aMark : Vector (Option Mark) 16
  pc : BitVec 17
  loops : List LoopLevel                 -- innermost first
  halted : Bool
  handler : Bool
  hpc : Option (BitVec 17)
  arrival : Option Arrival
  cont : Option (BitVec 16)              -- the CONT at which it stands (R260)
  stall : Stall
  out : List Access                      -- in program order
  deferred : List Deferred               -- oldest first
  seqno : BitVec 48
  deriving DecidableEq, Repr

/-! ## Engine streams -/

/-- A configured ring (R21). -/
structure Ring where
  base : BitVec 22
  log : Fin 9
  wslot : Nat
  rslot : Nat
  used : Nat
  deriving DecidableEq, Repr

/-- How far a started entry is: not begun, elements done (R157), a nest step or a chunk with a pending event (R195, R226),
tokens done (R209), waiting for a remote target (R405: chunks sent or acknowledged). -/
inductive Prog where
  | fresh
  | elems (n : Nat)
  | nest (idx : List Nat) (chunk : Nat) (event : Bool)
  | tokens (n : Nat)
  deriving DecidableEq, Repr

/-- The entry at the head of an engine stream (R16): its word, and where a chain gave it (R231). -/
structure Head where
  word : W64
  chain : Option A80
  deriving DecidableEq, Repr

/-- The state of an engine stream (R33): no entry, an entry that waits, one that runs, one whose work is done and whose
signal is to be applied (busy cycles, the same at P_A and P_B as declared, bytes, defined count), one whose signal overflowed (R19), one that faulted. -/
inductive Phase where
  | idle
  | waiting
  | running (p : Prog)
  | done (busy declared bytes count : Nat)
  | sigPending (count : Nat)
  | faulted
  deriving DecidableEq, Repr

/-- A chunk of a remote copy that the target has not answered (R405, R406), and whether it reads. -/
structure PendingChunk where
  id : Nat
  chunk : Nat
  va : A80
  read : Bool
  deriving DecidableEq, Repr

/-- A part of a remote copy that failed (R405): its chunk, the initiator's address, the cause. -/
structure FailedChunk where
  chunk : Nat
  va : A80
  cause : BitVec 8
  deriving DecidableEq, Repr

/-- A copy of a CGO whose source and destination share bytes (R220): the number of its free choices, by transfer position what the
source held before the copy started where the copy writes it, and what writing byte by byte has left (the core of a scratchpad, none in
memory). -/
structure Overlap where
  seed : Nat
  before : List (Nat × Byte)
  slow : List (Option CoreId × Nat × Byte)
  deriving DecidableEq, Repr

/-- Where bytes of a copy lie (R214): a scratchpad of the cluster, memory, another node. -/
inductive Place where
  | spad (c : CoreId)
  | phys
  | remote (node part : Nat) (exp : Fin 16)
  deriving DecidableEq, Repr

/-- A part of a run within one page or window. -/
structure Part where
  place : Place
  addr : Nat
  len : Nat
  va : A80
  pos : Nat
  deriving DecidableEq, Repr

/-- A write of a copy that is still to be performed (R242), of at most one aligned 8 bytes: where it goes, the parts that its bytes
are read from as it is performed or, where there are none, the bytes, and the reduction. -/
structure OctetWrite where
  dst : Part
  srcs : List Part
  bytes : List Byte
  red : Option (RedOp × RedType)
  deriving DecidableEq, Repr

/-- The memories of a core that its engines write (R234). -/
inductive Near where
  | spad | urs | sof | latch
  deriving DecidableEq, Repr

/-- A byte that Serir or Erg has written and other streams do not see yet (R184, R242). -/
structure LateByte where
  near : Near
  addr : Nat
  byte : Byte
  deriving DecidableEq, Repr

/-- A view register (R150). -/
structure View where
  set : Bool
  type : VType
  kind : MxKind
  base : BitVec 11
  len : BitVec 6
  count : BitVec 11
  deriving DecidableEq, Repr

/-- An entry of the refetch list (R381): its copy stream, its word, and the nest that a CGO ran. -/
structure RefetchItem where
  stream : Fin 2
  word : W64
  nest : List Byte
  deriving DecidableEq, Repr

/-- An engine stream (R10, R21-R24). -/
structure Stream where
  ring : Option Ring
  count : BitVec 48                      -- entries enqueued
  seqno : BitVec 48                      -- entries started
  head : Option Head
  phase : Phase
  chainPc : Option A80                   -- chain mode (R230)
  lost : Bool                            -- an add-back was held at 65,535 (R24)
  chunks : List PendingChunk             -- remote chunks awaiting an answer
  data : List (Nat × List Byte)          -- remote data that has arrived for the command, by piece
  fails : List FailedChunk               -- parts of it that failed
  caps : Nat × Nat                       -- plane caps at the start of the entry (R188)
  clock : Nat                            -- the divisor at the start of the entry (R84)
  views : Vector View 8                  -- the views at the start of the entry (R78)
  awaits : List Nat                      -- tiles for which the running command stalls (R191)
  tmpl : List Byte                       -- the descriptor or template that the running entry has read (R217, R225), empty before it
  overlap : Option Overlap               -- the copy of a CGO under way, where it overlaps (R220)
  todo : List OctetWrite                 -- writes of a copy still to be performed, in transfer order (R242)
  late : List LateByte                   -- writes of Serir or Erg still to be performed (R242)
  redo : Option RefetchItem              -- what the refetch list gains when the entry completes (R381)
  lag : Bool                             -- the step under way leaves its writes to be performed later; false between steps
  credLines : List (Nat × A80)           -- destination lines of a CRED whose signal is due, with their addresses (R221)
  deriving DecidableEq, Repr

/-! ## Serir, Erg, Wadi -/

/-- The state of a slot of a deferral queue (R182). -/
inductive DeferSlot where
  | free
  | open_ (p : Fin 8) (fill : Nat)
  | full (p : Fin 8)
  | drained
  deriving DecidableEq, Repr

/-- A deferral queue that is not empty (R179): shape, head, tail, slots. -/
structure DeferQueue where
  type : VType
  values : Nat
  width : Nat
  head : Nat
  tail : Nat
  used : Nat
  slots : List DeferSlot
  deriving DecidableEq, Repr

/-- Serir's registers (R149, R179). -/
structure Serir where
  views : Vector View 8
  masks : Vector (BitVec 16384) 8
  sel : Fin 8
  z : Vector W64 16
  lanes : Vector W64 64
  queues : Vector (Option DeferQueue) 8
  deriving DecidableEq, Repr

/-- An entry of the ownership table (R83), with the mark of a fill under way (R206). -/
structure Tile where
  spilla : A80
  owner : BitVec 12
  key : BitVec 16
  anchor : BitVec 8
  sat : Bool
  pois : Bool
  pinned : Bool
  present : Bool
  busy : Bool
  dirty : Bool
  filling : Bool
  deriving DecidableEq, Repr

/-- A nest set: the 256 bytes of a descriptor (R192, R223) and a valid bit. -/
structure NestSet where
  bytes : List Byte
  valid : Bool
  deriving DecidableEq, Repr

/-- Erg's registers (R185). -/
structure Erg where
  pa : Fin 16                            -- P_A - 1
  pb : Fin 16                            -- P_B - 1
  planes : Cells                         -- array r at 2,080 r: 16 planes, then the scale line
  loaded : BitVec 16
  la : BitVec 22
  laValid : Bool
  active : NestSet
  shadow : NestSet
  deriving DecidableEq, Repr

/-- The nest sets of a copy stream (R223). -/
structure CopyNest where
  active : NestSet
  shadow : NestSet
  deriving DecidableEq, Repr

/-! ## The unit on a core -/

/-- The system registers that a unit owns (R74). -/
structure Sys where
  budi : BitVec 48
  budt : BitVec 48
  budg : BitVec 32
  ctxid : BitVec 16
  trapvEn : BitVec 16
  trapvAddr : BitVec 15
  tcause : BitVec 16
  tinfo : W64
  tpc : W64
  level : Fin 8
  throt : BitVec 8
  stallv : BitVec 48
  stallm : BitVec 48
  seed : W64
  unit : BitVec 32
  launch : W64
  deriving DecidableEq, Repr

/-- The four divisors C, M, V, W (R84). -/
structure Divs where
  c : Fin 32
  m : Fin 32
  v : Fin 32
  w : Fin 32
  deriving DecidableEq, Repr

/-- A cause raised by a stream (R34, R75). -/
structure Cause where
  stream : Nat
  code : BitVec 8
  qual : BitVec 4
  chain : Bool
  tinfo : W64
  tpc : W64
  deriving DecidableEq, Repr

/-- What follows the cut (R25, R252, R263): deliver the trap, save the unit, or discard it. -/
inductive StopAim where
  | trap
  | save
  | discard
  | rollback
  deriving DecidableEq, Repr

/-- A stop in progress (R25, R35): KIND, aim, causes. -/
structure Stop where
  kind : BitVec 8
  aim : StopAim
  causes : List Cause                    -- the one reported in TCAUSE first
  cycle : Nat                            -- the cycle of the cause reported (R35)
  fatal : Bool                           -- R383: the trap is fatal to the unit
  unitCause : BitVec 8                   -- a cause that the unit as a whole raises at its cut (R36: 0x09, 0x0E), 0 none
  preempt : Option (BitVec 8)            -- KIND of a pre-emption to be taken on the stopped unit (R35)
  wait : Option (Fin 64 × WMode)         -- the SEMWAIT that X had pending when its handler took over (R27, R145)
  deriving DecidableEq, Repr

/-- The pending wait of a stream on a semaphore (R18), with the cycle in which it became pending. -/
structure Wait where
  core : CoreId
  stream : StreamId
  sem : Fin 64
  mode : WMode
  since : Nat
  deriving DecidableEq, Repr

/-- The phase checkpoint (R381). -/
structure Checkpoint where
  a : Seq
  x : Seq
  ax : List (List Slot)                  -- AX0, AX1, XA0, XA1
  outcomes : List (List Bool)
  sems : Vector (BitVec 16) 48
  streams : List Stream                  -- M, V, C0, C1
  serir : Serir
  pa : Fin 16
  pb : Fin 16
  nests : List NestSet                   -- Erg's and the copy streams', active then shadow
  divs : Divs
  seed : W64
  refetch : List RefetchItem             -- in completion order
  deriving DecidableEq, Repr

/-- The segment in progress (R268, R381-R383). -/
structure Segment where
  words : List W64                       -- enqueued since the last PHASE, in ENQ order
  busy : Nat                             -- busy cycles of its completed entries, at P_A and P_B as declared
  irreversible : Bool
  failures : Nat
  phases : Nat                           -- PHASEs completed since the start or the last resumption
  refetch : List RefetchItem             -- the local-window copies of this segment
  refetchMany : Bool                     -- more than 256 of them
  rerun : List RefetchItem               -- copies of the refetch still to run (R383)
  deriving DecidableEq, Repr

/-- The unit resident on a core (R245-R248, R255, R260, R310). -/
structure Resident where
  launch : Nat
  unit : Nat
  ctx : Nat
  variant : Fin 3
  tiles : Nat                            -- T (R77)
  wmask : Vector W64 6
  smask : Vector W64 6
  reasons : BitVec 7                     -- as REASONS of R265
  draining : Bool                        -- R260
  caps : Nat × Nat                       -- cA, cB in force (R257)
  pvar : Bool
  fdiv : Divs                            -- FDIV of the operating point in force
  vlevel : Fin 8                         -- its VLEVEL
  iused : Nat                            -- BUDI charged since it came to the core
  tused : Nat
  resident : Nat                         -- reference cycles since it came to the core
  deriving DecidableEq, Repr

/-- One core. -/
structure Core where
  unit : Option Resident
  a : Seq
  x : Seq
  ax0 : List Slot
  ax1 : List Slot
  xa0 : List Slot
  xa1 : List Slot
  axOut : List Bool                      -- pushed by A, popped by X (R73)
  xaOut : List Bool
  sys : Sys
  divReq : Divs
  refused : Nat                          -- reference cycles for which a bank still refuses an engine (R81, R321)
  code : Cells                           -- the sequence store (R11)
  codeBad : List Nat
  urs : Cells                            -- byte b of row n at 256 n + b (R77)
  ursBad : List Nat                      -- uncorrectable bytes
  valid : BitVec 1536                    -- valid bits (R79)
  sof : Cells                            -- entry k at 256 k (R80)
  latch : Cells
  sofBad : List Nat                      -- uncorrectable bytes of the SOF and of the latch (R172, R183)
  latchBad : List Nat
  spad : Cells                           -- scratchpad (R81)
  spadBad : List Nat
  sems : Vector (BitVec 16) 48
  waits : List Wait                      -- pending on local semaphores, oldest first
  mEng : Stream
  vEng : Stream
  c0Eng : Stream
  c1Eng : Stream
  serir : Serir
  erg : Erg
  tiles : Vector Tile 32
  nest0 : CopyNest
  nest1 : CopyNest
  stop : Option Stop
  handled : Option Stop                  -- the stop whose handler runs in the unit's own context (R144)
  periodBytes : Nat                      -- BUDT charged on this core in this scheduler period (R352)
  seg : Segment
  check : Option Checkpoint
  deriving DecidableEq, Repr

/-! ## Islands and dies -/

/-- The state of an island (R282). -/
inductive IslandState where
  | gated | on | resetting | failed
  deriving DecidableEq, Repr

/-- One island (R276-R283). -/
structure Island where
  state : IslandState
  level : Fin 8
  target : Fin 8
  bank : Vector (BitVec 16) 16
  waits : List Wait
  last : Option Nat                      -- context of the last unit placed
  record : Bool                          -- a bank record has been written
  deriving DecidableEq, Repr

/-- A task queue of a die (R306, R321). -/
structure TaskQueue where
  ctx : Nat
  deficit : BitVec 64                    -- signed
  wc : Nat
  deriving DecidableEq, Repr

/-- A watchdog drain of a partition's islands on a die (R322): the partition, the contexts whose queues expired, the units it
stopped (launch, unit, context), the cycle in which it began. -/
structure Drain where
  part : Nat
  ctxs : List Nat
  units : List (Nat × Nat × Nat)
  cycle : Nat
  deriving DecidableEq, Repr

/-- A registered watchpoint (R302). -/
structure Watchpoint where
  slice : Nat
  line : Nat                             -- physical address of the line
  words : BitVec 16
  cond : BitVec 8
  mask : W64
  value : W64
  task : A80
  record : List Byte                     -- the 128 bytes of the task record
  ctx : Nat
  pending : Bool
  deriving DecidableEq, Repr

/-- A monitor (R385). -/
structure Monitor where
  cfg : BitVec 32
  least : BitVec 32
  most : BitVec 32
  hist : Vector (BitVec 32) 32
  deriving DecidableEq, Repr

/-- The states of a stack (R378). -/
inductive StackState where
  | active | migrating | parked | returning
  deriving DecidableEq, Repr

/-- One die (R289, R306-R316, R364, R378, R385). -/
structure Die where
  dsways : Fin 32
  tbits : Fin 8
  slice : BitVec 16
  qshift : Fin 32
  queues : List TaskQueue                -- ascending context number
  ptr : Nat
  reserved : List (Nat × Nat)            -- core, launch (R313, R316)
  drains : List Drain
  watch : List Watchpoint
  monitors : Vector Monitor 16
  parked : Bool
  parkTick : W64                         -- the tick at which its units received the park reason (R364)
  hot : Bool
  stack : StackState
  lpPages : List (Nat × Nat)             -- pages of its stack whose current copy is in the LP tier, as ranges (R378)
  deriving DecidableEq, Repr

/-! ## Contexts and launches -/

/-- A range of a grant (R325, R331, R336): base and length in bytes, permissions RD, W, AT in bits 0 to 2. -/
structure Range where
  base : Nat
  len : Nat
  perm : BitVec 3
  revoked : Bool
  deriving DecidableEq, Repr

/-- A fabric window (R400). -/
structure Window where
  a : W64
  b : W64
  deriving DecidableEq, Repr

/-- A revocation in progress (R336, R337). -/
structure Revocation where
  issuer : Option Nat                    -- none: the host
  status : Option A80                    -- where STATUS lies in the issuer's space
  ctr : Option (Fin 256)
  all : Bool
  pool : Nat                             -- units to return
  floor : Nat                            -- watts to return
  deriving DecidableEq, Repr

/-- What a partition has beside the fields of a context (R279, R324, R351, R375, R400). -/
structure Partition where
  islands : BitVec 64
  bankArea : Nat
  pcap : BitVec 16
  prank : Fin 16
  ppower : BitVec 16
  pthrot : BitVec 8
  hbmflr : BitVec 16
  rbcount : BitVec 48
  windows : Vector Window 16
  exports : Vector Window 16
  seenLimit : Option Nat                 -- its limit when floors were last evaluated, none without one (R358)
  powers : List Nat                      -- its power over the latest scheduler periods, the newest first (R351, R352)
  nextLaunch : Nat                       -- counts the identifiers of its launches (R247, R343)
  deriving DecidableEq, Repr

/-- A context (R324-R329, R338, R341). -/
structure Ctx where
  num : Nat
  parent : Option Nat
  depth : Fin 16
  running : Bool
  destroying : Bool
  revoking : Option Revocation
  root : A80
  weight : Fin 128
  evlog : Fin 16
  wdog : BitVec 16
  catches : BitVec 16
  pinbase : A80
  evctr : Fin 256
  evq : A80
  init : A80
  ranBefore : Bool
  cores : BitVec 512
  ranges : List Range
  qcap : Nat
  floor : Nat
  privs : BitVec 16
  pool : BitVec 48
  counters : List (Nat × BitVec 48)      -- key 256 level + n, only nonzero counters, ascending
  nextEvent : W64                        -- number of the next event of its ring
  held : List (List Byte)                -- records held for lack of a free entry, oldest first
  evLost : BitVec 48
  completions : W64                      -- SEQ of the last completion record (R249)
  admitted : Bool                        -- its effective floor is admitted (R357)
  broken : Bool
  energy : List (Nat × BitVec 48)        -- phase accounts written, by number (R360); the others are unlimited
  part : Option Partition
  deriving DecidableEq, Repr

/-- The fields of a task record (R245). -/
structure TaskRec where
  image : A80
  eclass : Fin 8
  rank : Fin 16
  units : Nat
  place : W64
  preds : List (Fin 256 × Level × BitVec 32)
  deadline : W64
  startTick : W64
  optab : A80
  gang : Bool
  persist : Bool
  pvar : Bool
  ibudi : BitVec 48
  ibudt : BitVec 48
  ibudg : BitVec 32
  ccl : Fin 256
  ccg : Fin 256
  ccp : Fin 256
  ccj : Fin 256
  compl : A80
  savepool : A80
  deriving DecidableEq, Repr

/-- The state of a die's share of a launch (R317). -/
inductive ShareState where
  | waiting | ready | reserved | running | ended
  deriving DecidableEq, Repr

/-- The parts of a saved unit that the save area keeps in a form private to the device, or has no place for
(notes/assumptions/21.md). -/
structure SavePriv where
  queues : Vector (Option DeferQueue) 8
  used : List Nat                        -- entries in the rings M, V, C0, C1
  aMarks : List (Vector (Option Mark) 16)
  gMarks : List (Vector (Option Mark) 32)
  slotMarks : List (List (Option Mark))
  check : Option Checkpoint
  seg : Segment
  handled : Option Stop
  tcause : BitVec 16
  tinfo : W64
  tpc : W64
  lost : List Bool
  deferred : List (List Deferred)
  seqnos : List (BitVec 48)              -- of the six streams
  counts : List Nat                      -- the defined counts of signal-pending entries
  caps : List (Nat × Nat)                -- the plane caps of the entries that had begun (R188)
  clocks : List Nat                      -- and their divisors (R84)
  overs : List (Option Overlap)          -- of M, V, C0, C1 (R220)
  chains : List (Option A80)             -- where a chain gave the entries at the heads of M, V, C0, C1 (R231)
  parked : Bool                          -- the park reason was pending at the save (R355, R364)
  deriving DecidableEq, Repr

/-- Where a started unit is (R267, R338). -/
inductive UnitState where
  | running (core : CoreId)
  | saved (byYield : Bool) (priv : SavePriv)
  | awaiting (ring : Option Nat) (event : W64) (fatal : Bool) (priv : SavePriv)
  | ended
  deriving DecidableEq, Repr

/-- An operating-point entry (R257). -/
structure OpEntry where
  variant : Fin 3
  vlevel : Fin 8
  fdiv : Divs
  caps : Nat × Nat
  cores : Nat
  deriving DecidableEq, Repr

/-- A live item (R246). -/
structure LiveItem where
  kind : Nat
  first : Nat
  count : Nat
  data : Nat
  deriving DecidableEq, Repr

/-- A continuation-table entry (R246): number, items, resume word indices of A and X by variant. -/
structure ContEntry where
  num : Nat
  items : List LiveItem
  resume : List (Nat × Nat)
  deriving DecidableEq, Repr

/-- A load-list entry (R246). -/
inductive LoadEntry where
  | ring (e : Eng) (base : BitVec 22) (log : Fin 9)
  | view (w : Fin 8) (v : View)
  deriving DecidableEq, Repr

/-- An accepted image; input: the initial data of the items of continuation 0 (R248): kind, first place, bytes, contents. -/
structure Image where
  tiles : Nat
  vars : Nat
  wmask : Vector W64 6
  smask : Vector W64 6
  init : Vector (BitVec 16) 48
  entries : List (Nat × Nat)
  code : Cells
  conts : List ContEntry
  loads : List LoadEntry
  input : List (Nat × Nat × Nat × Cells)
  deriving DecidableEq, Repr

/-- A unit that has started. -/
structure UnitRec where
  num : Nat
  state : UnitState
  deriving DecidableEq, Repr

/-- A launch (R245-R253, R317). -/
structure Launch where
  id : Nat
  ctx : Nat
  task : TaskRec
  shares : List (DieId × ShareState)
  units : List UnitRec
  level : Fin 8
  deques : List (Fin 256 × Nat × List W64)   -- queue, unit, items from the head
  closed : List (Fin 256)
  ran : BitVec 8
  faults : Nat
  gmin : Fin 8
  gmax : Fin 8
  caps : BitVec 8
  fcause : BitVec 8
  start : W64
  iused : BitVec 48
  tused : BitVec 48
  startCycle : Nat                       -- the cycles of its first placement and of its mark (R318)
  mark : Option (BitVec 8)               -- the status it is to end with, once marked (R252)
  markCycle : Nat
  held : Bool                            -- the device has not yet ended it though its units have ended (notes/assumptions/2.md)
  images : List (DieId × Image × List OpEntry)   -- what the dies that have read its image and table hold of them (R247)
  cores : Nat                            -- CORES of the operating point at its start (R258, R313), 0 before
  deriving DecidableEq, Repr

/-! ## The package -/

/-- The grades (R361). -/
inductive Grade where
  | normal | slow | park | shed | floor
  deriving DecidableEq, Repr

/-- A curve (R347): VFROM, VTO, points (tick, milliwatts). -/
structure Curve where
  vfrom : Nat
  vto : Nat
  points : List (Nat × Nat)
  deriving DecidableEq, Repr

/-- Rank caps (R347): VFROM, VTO, watts by rank, none where a rank has no cap. -/
structure RankCaps where
  vfrom : Nat
  vto : Nat
  caps : List (Option Nat)
  deriving DecidableEq, Repr

/-- A message under reassembly (R345). -/
structure Assembly where
  id : W64
  count : Nat
  since : W64                            -- the tick of its first fragment
  parts : List (Nat × List Byte)
  deriving DecidableEq, Repr

/-- The power scheduler (R345-R370). -/
structure Power where
  curve : Option Curve
  nextCurve : Option Curve
  caps : Option RankCaps
  nextCaps : Option RankCaps
  lastCurveSeq : Option W64
  lastCapsSeq : Option W64
  orphanBeat : Bool                      -- the orphan cap waits for heartbeats (R370), or for a curve (R350, R370)
  orphanCurve : Bool
  pmax : Nat                             -- milliwatts
  grade : Grade
  level : Nat                            -- Lpkg in milliwatts
  measured : Nat                         -- average over 1 ms, in milliwatts
  current : Fin 17                       -- the floor the current limiter sets on divisors, 0 none
  beat : W64                             -- tick of the last heartbeat
  parkOrder : List DieId                 -- dies still to be parked, in order; the first may be under way
  parkDone : List DieId                  -- dies parked, the latest first
  since : W64                            -- the tick at which the grade was entered
  lift : Option W64                      -- the tick since which the lift condition of R366 has held
  assemblies : List Assembly
  periods : Nat
  ended : List (Nat × Nat × Fin 256)     -- launches that ended in this scheduler period: identifier, context, CCP (R360)
  hung : Bool                            -- Barchan hangs or is being updated (R369)
  deriving DecidableEq, Repr

/-- The service states (R388, R390, R391). -/
inductive Service where
  | unpowered | bootFailed | reduced | draining | full
  deriving DecidableEq, Repr

/-- What the package tells the outside: replies of the mailbox and the DOE, acknowledgements, reports. -/
inductive Reply where
  | mailbox (ok : Bool) (value : W64)
  | data (bytes : List Byte)
  | ack (bytes : List Byte)
  | spdm (bytes : List Byte) (opaqueData : List (Nat × List Byte)) (signature : List Byte)
  | report (code arg : Nat)
  | remote (id : Nat) (ans : RemoteAns)
  | notice (id : Nat)                    -- a wait notice (R407)
  | hop (port : Fin 32) (src dst : Nat) (bytes : List Byte)  -- a message of another node goes on (R398)
  | close (c : RecordClose)              -- the initiator closes records at its targets (R407)
  deriving DecidableEq, Repr

/-- The host port (R338, R386, R387, R389). -/
structure HostPort where
  ring : Option (Nat × Nat)              -- address and entries of the host event ring
  nextEvent : W64
  held : List (List Byte)
  replies : List Reply                   -- newest first
  spdm : List (Fin 9 × List Byte)        -- requests since GET_VERSION (R389), newest first: message, in that rule's order
  session : Bool
  resets : List IslandId                 -- commands RESET_ISLAND that are not complete (R387)
  deriving DecidableEq, Repr

/-- The memory controllers (R374-R380). -/
structure MemCtl where
  retired : List (Fin 9 × Fin 32)        -- stack (8: the LP tier), channel
  shadow : BitVec 8                      -- LPPARK.SHADOW
  corrected : List (Nat × Nat × W64)     -- rows with a corrected error: bank, row, tick
  copying : List (Nat × Nat × Nat)       -- bank, row, spare
  spared : List (Nat × Nat × Nat)        -- the remap CAMs
  retiredSpares : List (Nat × Nat)
  exhausted : List Nat
  deriving DecidableEq, Repr

/-- A remote request that awaits an answer (R403-R405); port: the port it was sent on, none while it waits for a path or for
the move of its flow (R398), or loops back (R401). -/
structure RemoteWait where
  id : Nat
  core : CoreId
  stream : StreamId
  access : Nat                           -- access number or chunk
  piece : Nat
  node : Nat
  req : RemoteOp
  part : Nat
  exp : Fin 16
  offset : Nat
  port : Option (Fin 32)
  since : W64                            -- the tick of its issue, or of its last wait notice (R407)
  deriving DecidableEq, Repr

/-- A message between two other nodes that this package forwards (R398): source node, its core and stream, destination node, content. -/
structure Transit where
  src : Nat
  core : Nat
  stream : Nat
  dst : Nat
  bytes : List Byte
  deriving DecidableEq, Repr

/-- A record of a reducing copy at its target (R406). -/
structure RedRecord where
  ident : RedIdent
  base : Nat
  map : W64
  deriving DecidableEq, Repr

/-- A fabric port (R397, R399): up, the last number received in order, the highest number of its own that the peer has
acknowledged (notes/assumptions/35.md). -/
structure Port where
  up : Bool
  recvSeq : BitVec 16
  acked : BitVec 16
  deriving DecidableEq, Repr

/-- The fabric side of the package (R396-R411). -/
structure Fabric where
  valid : Bool
  node : Fin 262144
  sync : Bool
  source : Bool                          -- it is the time source (R408)
  ports : Vector Port 32
  routes : List (Nat × BitVec 32)        -- entries written, ascending by node
  flows : List (Nat × Nat × Nat × Fin 32)  -- the port of a flow (R398): core, stream, node, port
  transit : List Transit                 -- messages to forward that wait for a path, oldest first
  hops : List (Nat × Nat × Nat × Nat × Fin 32)  -- the port of a forwarded flow: node, core, stream, destination, port
  waiting : List RemoteWait              -- oldest first
  nextId : Nat
  records : List RedRecord
  held : List RedChunk                   -- chunks that found no free record (R407)
  lost : List Nat
  heard : List (Nat × W64)               -- the ticks at which paths last reached nodes (R411)
  validSince : W64                       -- the tick at which FNODE.VALID was set
  lastTime : W64                         -- the tick of the last time message
  slew : Int                             -- the correction of TICK still to be made, in ns (R408)
  slewRem : Nat                          -- ns since the last ns of it
  inbox : List (Fin 32 × List Byte)      -- payloads received in order, newest first
  deriving DecidableEq, Repr

/-- What the machine does next: a stream of a core runs, an event of spec/opcode_table.json comes about, reference cycles
pass, an access of a sequencer's store path is performed, or one part of an access (R125), an engine runs and leaves its
writes to be performed later, one octet of them is performed (R242), a scratchpad bank refuses an engine, an error appears in stored
bits, a die passes a temperature bound, the package becomes or ceases to be the time source (R408), a message between other nodes comes by, a stack's migration goes on by some pages (R378), the device takes time to end a
launch or has taken it
(notes/assumptions/11.md). -/
inductive Act where
  | run (core : CoreId) (stream : StreamId)
  | event (i : Instr)
  | elapse (cycles : Nat)
  | drain (core : CoreId) (q : SeqId) (id : Nat)
  | part (core : CoreId) (q : SeqId) (id piece : Nat)
  | slow (core : CoreId) (e : Eng)
  | octet (core : CoreId) (e : Eng) (i : Nat)
  | refuse (core : CoreId) (e : Eng) (cycles : Nat)
  | badMem (addr bank row : Nat)
  | badSpare (bank row : Nat)
  | badSpad (core : CoreId) (off : Nat)
  | badRow (core : CoreId) (byte : Nat)
  | badSof (core : CoreId) (byte : Nat)
  | badLatch (core : CoreId) (byte : Nat)
  | badCode (core : CoreId) (addr : Nat)
  | corrected (bank row : Nat)
  | hot (d : DieId) (h : Bool)
  | barchan (hung : Bool)
  | timeSource (on : Bool)
  | transit (t : Transit)
  | pages (d : DieId) (n : Nat)
  | endLater (launch : Nat)
  | endNow (launch : Nat)
  deriving DecidableEq, Repr

/-- A byte of memory that was last written while tenants were partitioned (R290): the tenant id it was written through, what it was
before (which another set may still hold), and whether the page was written through two tenant ids of different sets. -/
structure TenantByte where
  addr : Nat
  ten : Nat
  before : Byte
  both : Bool
  deriving DecidableEq, Repr

/-- A byte that another node has written (R235, R402): what it was before, and the loads, by sequencer and class, that R238 orders behind
one that has seen the write. -/
structure FarByte where
  addr : Nat
  before : Byte
  known : List (CoreId × SeqId × Cls)
  deriving DecidableEq, Repr

/-- One package. -/
structure State where
  core : CoreId                          -- the core and the stream that exec acts for
  stream : StreamId
  agenda : List Act
  fresh : Nat                            -- the next free value
  tick : W64
  sub : Nat                              -- twelfths of a nanosecond beyond tick
  cycle : Nat                            -- reference cycles since reset
  cores : Vector Core 512
  islands : Vector Island 64
  dies : Vector Die 8
  mem : Cells
  memBad : List Nat
  live : List Nat                        -- addresses of live barrier words
  tenants : List TenantByte
  far : List FarByte
  ctxs : List Ctx
  launches : List Launch                 -- queued launches, in order of acceptance
  nextLaunch : Nat
  power : Power
  service : Service
  serving : Option DieId
  failedStacks : BitVec 8                -- in training (R390, R392)
  failedLinks : BitVec 8
  host : HostPort
  memctl : MemCtl
  fabric : Fabric
  deriving DecidableEq, Repr

/-! ## Reset -/

/-- The seed of lane L (R95). -/
def laneSeed (seed : W64) (l : Nat) : W64 :=
  let k : W64 := 0x9E3779B97F4A7C15#64
  let v := seed ^^^ (BitVec.ofNat 64 l * k)
  if v = 0 then k else v

/-- The 64 lane generators seeded from SEED (R95). -/
def lanesOf (seed : W64) : Vector W64 64 := Vector.ofFn fun l => laneSeed seed l.val

/-- A sequencer at the start of a unit (R70, R107), its pc at 0. -/
def Seq.reset : Seq :=
  { g := Vector.replicate 32 0, gMark := Vector.replicate 32 none, a := Vector.replicate 16 0,
    aMark := Vector.replicate 16 none, pc := 0, loops := [], halted := false, handler := false, hpc := none,
    arrival := none, cont := none, stall := .none, out := [], deferred := [], seqno := 0 }

/-- An unset view (R150). -/
def View.reset : View := { set := false, type := .fp32, kind := .e4m3, base := 0, len := 0, count := 0 }

/-- An engine stream that is off (R33). -/
def Stream.reset : Stream :=
  { ring := none, count := 0, seqno := 0, head := none, phase := .idle, chainPc := none, lost := false, chunks := [],
    data := [], fails := [], caps := (16, 16), clock := 1, views := Vector.replicate 8 View.reset, awaits := [],
    tmpl := [], overlap := none, todo := [], late := [], redo := none, lag := false, credLines := [] }

/-- Serir at the start of a unit (R149), for a SEED. -/
def Serir.reset (seed : W64) : Serir :=
  { views := Vector.replicate 8 View.reset, masks := Vector.replicate 8 (BitVec.allOnes 16384), sel := 0,
    z := Vector.replicate 16 0, lanes := lanesOf seed, queues := Vector.replicate 8 none }

/-- An invalid nest set; at the start of a unit its bytes are zero (notes/assumptions/72.md). -/
def NestSet.reset : NestSet := { bytes := List.replicate 256 0, valid := false }

/-- The nest sets of a copy stream at the start of a unit. -/
def CopyNest.reset : CopyNest := { active := NestSet.reset, shadow := NestSet.reset }

/-- Erg at the start of a unit (R185). -/
def Erg.reset : Erg :=
  { pa := 7, pb := 7, planes := [], loaded := 0, la := 0, laValid := false, active := NestSet.reset, shadow := NestSet.reset }

/-- An ownership entry at allocation to a context (R83). -/
def Tile.reset (owner : BitVec 12) : Tile :=
  { spilla := 0, owner := owner, key := 0, anchor := 0x7F, sat := false, pois := false, pinned := false, present := true,
    busy := false, dirty := false, filling := false }

/-- All divisors equal to n. -/
def Divs.all (n : Fin 32) : Divs := { c := n, m := n, v := n, w := n }

/-- System registers at the start of a unit (R74), with zeros where the launch gives the value. -/
def Sys.reset : Sys :=
  { budi := 0, budt := 0, budg := 0, ctxid := 0, trapvEn := 0, trapvAddr := 0, tcause := 0, tinfo := 0, tpc := 0, level := 0,
    throt := 0, stallv := 0, stallm := 0, seed := 1, unit := 0, launch := 0 }

/-- An empty segment (R268, R381). -/
def Segment.reset : Segment :=
  { words := [], busy := 0, irreversible := false, failures := 0, phases := 0, refetch := [], refetchMany := false,
    rerun := [] }

/-- A core with no unit (R281). -/
def Core.reset : Core :=
  { unit := none, a := Seq.reset, x := Seq.reset, ax0 := [], ax1 := [], xa0 := [], xa1 := [], axOut := [], xaOut := [],
    sys := Sys.reset, divReq := Divs.all 1, refused := 0, code := [], codeBad := [], urs := [], ursBad := [], valid := 0,
    sof := [], latch := [], sofBad := [], latchBad := [], spad := [], spadBad := [], sems := Vector.replicate 48 0, waits := [], mEng := Stream.reset,
    vEng := Stream.reset, c0Eng := Stream.reset, c1Eng := Stream.reset, serir := Serir.reset 1, erg := Erg.reset,
    tiles := Vector.replicate 32 (Tile.reset 0), nest0 := CopyNest.reset, nest1 := CopyNest.reset, stop := none, handled := none, periodBytes := 0,
    seg := Segment.reset, check := none }

/-- An island before any unit is placed (R279, R281, R282). -/
def Island.reset : Island :=
  { state := .gated, level := 0, target := 0, bank := Vector.replicate 16 0, waits := [], last := none, record := false }

/-- A monitor after reset (R385). -/
def Monitor.reset : Monitor := { cfg := 0, least := 0xFFFFFFFF, most := 0, hist := Vector.replicate 32 0 }

/-- A die after reset (R289, R307). -/
def Die.reset : Die :=
  { dsways := 16, tbits := 0, slice := 1000, qshift := 20, queues := [], ptr := 0, reserved := [], drains := [], watch := [],
    monitors := Vector.replicate 16 Monitor.reset, parked := false, parkTick := 0, hot := false, stack := .active, lpPages := [] }

/-- The power scheduler after reset (R351). -/
def Power.reset : Power :=
  { curve := none, nextCurve := none, caps := none, nextCaps := none, lastCurveSeq := none, lastCapsSeq := none,
    orphanBeat := false, orphanCurve := false, pmax := 3000000, grade := .normal, level := 3000000, measured := 0, current := 0, beat := 0,
    parkOrder := [], parkDone := [], since := 0, lift := none, assemblies := [], periods := 0, ended := [], hung := false }

/-- A port after reset (R397, R399). -/
def Port.reset : Port := { up := false, recvSeq := 0, acked := 0 }

/-- The package right after reset: no power-on sequence has run, no partition exists, memory lists nothing. -/
def State.reset : State :=
  { core := 0, stream := .seq .x, agenda := [], fresh := 0, tick := 0, sub := 0, cycle := 0,
    cores := Vector.replicate 512 Core.reset, islands := Vector.replicate 64 Island.reset,
    dies := Vector.replicate 8 Die.reset, mem := [], memBad := [], live := [], tenants := [], far := [], ctxs := [], launches := [], nextLaunch := 1,
    power := Power.reset, service := .unpowered, serving := none,
    failedStacks := 0, failedLinks := 0,
    host := { ring := none, nextEvent := 1, held := [], replies := [], spdm := [], session := false, resets := [] },
    memctl := { retired := [], shadow := 0xFF, corrected := [], copying := [], spared := [], retiredSpares := [],
                exhausted := [] },
    fabric := { valid := false, node := 0, sync := false, source := false, ports := Vector.replicate 32 Port.reset, routes := [], flows := [], transit := [], hops := [], waiting := [],
                nextId := 1, records := [], held := [], lost := [], heard := [], validSince := 0, lastTime := 0, slew := 0, slewRem := 0, inbox := [] } }

/-! ## Faults and refusals -/

/-- Why the machine stops where the spec gives no effect. -/
inductive Fault where
  /-- A host access to an address that no HDM decoder covers (R386): the spec names no outcome. Raised by HOST_MEMORY_READ
  and HOST_MEMORY_WRITE; safe. -/
  | hostAddress
  deriving DecidableEq, Repr

/-- Why an instruction has no meaning in the model. -/
inductive Refusal where
  /-- The instruction's arm of exec is not modelled yet; raised by exec alone; safe. -/
  | notModelled (mnemonic : String)
  deriving DecidableEq, Repr

end Sys2Proof.Machine
end

