-- ==== Sys2Proof/Machine/Cells.lean ====
section
/-! DEFINITION. Operations on bytes by address: reading, writing in canonical form (addresses strictly rising, no byte
that equals what an unlisted address reads as, 0). -/

namespace Sys2Proof.Machine

open Sys2Proof

/-- The canonical form of a list of cells. -/
def Memory.wf : Cells → Bool
  | [] => true
  | [(_, b)] => b != 0
  | (a, b) :: (a', b') :: r => b != 0 && decide (a < a') && Memory.wf ((a', b') :: r)

/-- The byte at an address. -/
def getByte : Cells → Nat → Byte
  | [], _ => 0
  | (k, b) :: r, a => if k = a then b else getByte r a

/-- Bytes spread over n addresses from a, given the cells that lie there. -/
def spreadBytes : Cells → Nat → Nat → List Byte
  | _, _, 0 => []
  | [], a, n + 1 => 0 :: spreadBytes [] (a + 1) n
  | (k, b) :: r, a, n + 1 => if k = a then b :: spreadBytes r (a + 1) n else 0 :: spreadBytes ((k, b) :: r) (a + 1) n

/-- The n bytes from a. -/
def getBytes (m : Cells) (a n : Nat) : List Byte :=
  spreadBytes (m.filter fun c => decide (a ≤ c.1) && decide (c.1 < a + n)) a n

/-- The cells of a byte string at a, without zero bytes. -/
def cellsOf : Nat → List Byte → Cells
  | _, [] => []
  | a, b :: r => if b = 0 then cellsOf (a + 1) r else (a, b) :: cellsOf (a + 1) r

/-- Write a byte string at a. -/
def putBytes (m : Cells) (a : Nat) (bs : List Byte) : Cells :=
  (m.filter fun c => decide (c.1 < a)) ++ (cellsOf a bs ++ m.filter fun c => decide (a + bs.length ≤ c.1))

/-- Write one byte. -/
def putByte (m : Cells) (a : Nat) (b : Byte) : Cells := putBytes m a [b]

/-- Remove every cell from a to a + n - 1 (they read 0). -/
def clearBytes (m : Cells) (a n : Nat) : Cells :=
  m.filter fun c => decide (c.1 < a) || decide (a + n ≤ c.1)

/-- The n-byte little-endian number at a. -/
def getNat (m : Cells) (a n : Nat) : Nat := leNatOf (getBytes m a n)
where
  /-- Little-endian value. -/
  leNatOf : List Byte → Nat
    | [] => 0
    | b :: r => b.toNat + 256 * leNatOf r

/-- Write only the bytes whose mark is set: (write, byte) pairs from a on. -/
def putMasked (m : Cells) : Nat → List (Bool × Byte) → Cells
  | _, [] => m
  | a, l => putBytes m a (mergeMasked (getBytes m a l.length) l)
where
  /-- Old bytes where the mark is clear. -/
  mergeMasked : List Byte → List (Bool × Byte) → List Byte
    | o :: os, (w, b) :: r => (if w then b else o) :: mergeMasked os r
    | [], (w, b) :: r => (if w then b else 0) :: mergeMasked [] r
    | _, [] => []

/-- Write scattered bytes one by one. -/
def putScattered (m : Cells) (l : List (Nat × Byte)) : Cells := l.foldl (fun c p => putByte c p.1 p.2) m

/-- The first address from a to a + n - 1 that a list of bad addresses names (R110, R218: the lowest). -/
def firstBad (bad : List Nat) (a n : Nat) : Option Nat :=
  bad.foldl (fun r b => if a ≤ b ∧ b < a + n then (match r with | some x => if b < x then some b else r | none => some b) else r) none

/-- A write makes the bytes good again. -/
def clearBad (bad : List Nat) (a n : Nat) : List Nat := bad.filter fun b => decide (b < a) || decide (a + n ≤ b)

/-- Insert an address into an ascending list without repeats. -/
def insertAsc (l : List Nat) (a : Nat) : List Nat :=
  match l with
  | [] => [a]
  | x :: r => if a < x then a :: x :: r else if a = x then x :: r else x :: insertAsc r a

end Sys2Proof.Machine
end

