-- ==== Sys2Proof/Machine/Ops.lean ====
section
/-! DEFINITION. The named operations on parts of the state: cores, sequencers, engine streams, queues, semaphores' counts,
islands, dies, contexts, launches. Everything else reads and writes the state through them. -/

namespace Sys2Proof.Machine

open Sys2Proof

/-! ## Cores, islands, dies -/

/-- Core c. -/
def State.coreAt (s : State) (c : CoreId) : Core := s.cores[c]

/-- Replace core c. -/
def State.setCore (s : State) (c : CoreId) (k : Core) : State := { s with cores := s.cores.set c k }

/-- Change core c. -/
def State.modCore (s : State) (c : CoreId) (f : Core → Core) : State := s.setCore c (f (s.coreAt c))

/-- The core exec acts for. -/
def State.cur (s : State) : Core := s.coreAt s.core

/-- Change the core exec acts for. -/
def State.modCur (s : State) (f : Core → Core) : State := s.modCore s.core f

/-- The island of a core (R276). -/
def islandOf (c : CoreId) : IslandId := ⟨c.val / 8, by have := c.isLt; omega⟩

/-- The die of a core (R276). -/
def dieOf (c : CoreId) : DieId := ⟨c.val / 64, by have := c.isLt; omega⟩

/-- The die of an island. -/
def dieOfIsland (i : IslandId) : DieId := ⟨i.val / 8, by have := i.isLt; omega⟩

/-- Core k of an island (R276). -/
def coreOf (i : IslandId) (k : Fin 8) : CoreId := ⟨8 * i.val + k.val, by have := i.isLt; have := k.isLt; omega⟩

/-- The cores of an island, ascending. -/
def islandCores (i : IslandId) : List CoreId := (List.finRange 8).map (coreOf i)

/-- The cores of a die, ascending. -/
def dieCores (d : DieId) : List CoreId :=
  (List.finRange 64).map fun k => ⟨64 * d.val + k.val, by have := d.isLt; have := k.isLt; omega⟩

/-- All cores, ascending. -/
def allCores : List CoreId := List.finRange 512

/-- Island i. -/
def State.island (s : State) (i : IslandId) : Island := s.islands[i]

/-- Change island i. -/
def State.modIsland (s : State) (i : IslandId) (f : Island → Island) : State :=
  { s with islands := s.islands.set i (f s.islands[i]) }

/-- Die d. -/
def State.die (s : State) (d : DieId) : Die := s.dies[d]

/-- Change die d. -/
def State.modDie (s : State) (d : DieId) (f : Die → Die) : State := { s with dies := s.dies.set d (f s.dies[d]) }

/-! ## Sequencers and queues of a core -/

/-- A sequencer of a core. -/
def Core.seq (k : Core) : SeqId → Seq
  | .a => k.a
  | .x => k.x

/-- Change a sequencer of a core. -/
def Core.modSeq (k : Core) (q : SeqId) (f : Seq → Seq) : Core :=
  match q with
  | .a => { k with a := f k.a }
  | .x => { k with x := f k.x }

/-- The other sequencer. -/
def otherSeq : SeqId → SeqId
  | .a => .x
  | .x => .a

/-- The index of a sequencer (R10). -/
def seqIndex : SeqId → Nat
  | .a => 0
  | .x => 1

/-- The index of a stream (R10). -/
def streamIndex : StreamId → Nat
  | .seq q => seqIndex q
  | .eng .m => 2
  | .eng .v => 3
  | .eng .c0 => 4
  | .eng .c1 => 5

/-- An engine stream of a core. -/
def Core.eng (k : Core) : Eng → Stream
  | .m => k.mEng
  | .v => k.vEng
  | .c0 => k.c0Eng
  | .c1 => k.c1Eng

/-- Change an engine stream of a core. -/
def Core.modEng (k : Core) (e : Eng) (f : Stream → Stream) : Core :=
  match e with
  | .m => { k with mEng := f k.mEng }
  | .v => { k with vEng := f k.vEng }
  | .c0 => { k with c0Eng := f k.c0Eng }
  | .c1 => { k with c1Eng := f k.c1Eng }

/-- A stream with nothing left of the command at its head. -/
def Stream.cleared (t : Stream) : Stream :=
  { t with chunks := [], data := [], fails := [], awaits := [], tmpl := [], overlap := none, todo := [], late := [], redo := none, credLines := [] }

/-- The engine streams. -/
def engines : List Eng := [.m, .v, .c0, .c1]

/-- The queue that a sequencer pops through g28 or g29 (R71). -/
def Core.inbound (k : Core) (q : SeqId) (second : Bool) : List Slot :=
  match q, second with
  | .a, false => k.xa0
  | .a, true => k.xa1
  | .x, false => k.ax0
  | .x, true => k.ax1

/-- Replace the queue that a sequencer pops. -/
def Core.setInbound (k : Core) (q : SeqId) (second : Bool) (l : List Slot) : Core :=
  match q, second with
  | .a, false => { k with xa0 := l }
  | .a, true => { k with xa1 := l }
  | .x, false => { k with ax0 := l }
  | .x, true => { k with ax1 := l }

/-- The queue that a sequencer pushes through g30 or g31 (R71): the other's inbound queue. -/
def Core.outbound (k : Core) (q : SeqId) (second : Bool) : List Slot := k.inbound (otherSeq q) second

/-- Replace the queue that a sequencer pushes. -/
def Core.setOutbound (k : Core) (q : SeqId) (second : Bool) (l : List Slot) : Core := k.setInbound (otherSeq q) second l

/-- The branch outcomes a sequencer pops (R73). -/
def Core.outcomesIn (k : Core) : SeqId → List Bool
  | .a => k.xaOut
  | .x => k.axOut

/-- Replace the branch outcomes a sequencer pops. -/
def Core.setOutcomesIn (k : Core) (q : SeqId) (l : List Bool) : Core :=
  match q with
  | .a => { k with xaOut := l }
  | .x => { k with axOut := l }

/-- The descriptor of a nest set that is valid (R194, R225). -/
def NestSet.get (n : NestSet) : Option (List Byte) := if n.valid then some n.bytes else none

/-- A nest set with its valid bit clear. -/
def NestSet.drop (n : NestSet) : NestSet := { n with valid := false }

/-- LA where it is valid (R185). -/
def Erg.nestA (x : Erg) : Option (BitVec 22) := if x.laValid then some x.la else none

/-! ## Contexts and launches -/

/-- Context n. -/
def State.ctx (s : State) (n : Nat) : Option Ctx := s.ctxs.find? fun c => c.num == n

/-- Change context n. -/
def State.modCtx (s : State) (n : Nat) (f : Ctx → Ctx) : State :=
  { s with ctxs := s.ctxs.map fun c => if c.num = n then f c else c }

/-- Launch n. -/
def State.launch (s : State) (n : Nat) : Option Launch := s.launches.find? fun l => l.id == n

/-- Change launch n. -/
def State.modLaunch (s : State) (n : Nat) (f : Launch → Launch) : State :=
  { s with launches := s.launches.map fun l => if l.id = n then f l else l }

/-- The chain of contexts from n up to its partition (at most nine, R324). -/
def State.ancestry (s : State) : Nat → Nat → List Nat
  | 0, _ => []
  | fuel + 1, n =>
    match s.ctx n with
    | none => []
    | some c => n :: (match c.parent with | some p => s.ancestry fuel p | none => [])

/-- A context and its ancestors. -/
def State.lineage (s : State) (n : Nat) : List Nat := s.ancestry 10 n

/-- The partition a context belongs to. -/
def State.partitionOf (s : State) (n : Nat) : Option Nat := (s.lineage n).getLast?

/-- x is n or a descendant of n. -/
def State.within (s : State) (x n : Nat) : Bool := (s.lineage x).contains n

/-- The contexts of a subtree. -/
def State.subtree (s : State) (n : Nat) : List Nat := (s.ctxs.map (·.num)).filter fun x => s.within x n

/-- The grant of context x contains core c. -/
def State.grants (s : State) (x : Nat) (c : CoreId) : Bool :=
  match s.ctx x with | some y => y.cores.getLsbD c.val | none => false

/-- The unit resident on core c. -/
def State.resident (s : State) (c : CoreId) : Option Resident := (s.coreAt c).unit

/-- The cores that hold a unit satisfying p, ascending. -/
def State.holding (s : State) (p : Resident → Bool) : List CoreId :=
  allCores.filter fun c => match s.resident c with | some r => p r | none => false

/-- Change the resident unit of a core. -/
def Core.modUnit (k : Core) (f : Resident → Resident) : Core := { k with unit := k.unit.map f }

/-- The resident unit of a core drains no longer (R260). -/
def Core.noDrain (k : Core) : Core := k.modUnit fun u => { u with draining := false }

/-- The next free value of the model (notes/assumptions/12.md). -/
def State.freeValue (s : State) : W64 × State := (Config.freeWord s.fresh, { s with fresh := s.fresh + 1 })

/-- Tell the outside something. -/
def State.reply (s : State) (r : Reply) : State := { s with host := { s.host with replies := r :: s.host.replies } }

/-- Saturating subtraction on the 48-bit budgets (R254: they stop at the most negative value). -/
def chargeBudget (n : Nat) (b : BitVec n) (k : Nat) : BitVec n :=
  let r := b.toInt - (k : Int)
  if r < - ((2 ^ (n - 1) : Nat) : Int) then BitVec.ofInt n (- ((2 ^ (n - 1) : Nat) : Int)) else BitVec.ofInt n r

/-- Bits of REASONS (R265). -/
def reasonBudget : BitVec 7 := 1
def reasonVoluntary : BitVec 7 := 2
def reasonTenant : BitVec 7 := 4
def reasonPark : BitVec 7 := 8
def reasonStop : BitVec 7 := 16
def reasonRevoke : BitVec 7 := 32
def reasonVariant : BitVec 7 := 64

/-- A reason is among those pending. -/
def hasReason (r m : BitVec 7) : Bool := (r &&& m) != 0

/-- A reason that starts the grace is pending (R255): budget, tenant, park, stop, revoke. -/
def graceRuns (r : BitVec 7) : Bool := hasReason r (reasonBudget ||| reasonTenant ||| reasonPark ||| reasonStop ||| reasonRevoke)

/-- Add a reason to the unit of core c; a unit of a PERSIST launch passes it to all of the launch (R267). -/
def State.addReason (s : State) (c : CoreId) (m : BitVec 7) : State :=
  match s.resident c with
  | none => s
  | some r =>
    let persist := match s.launch r.launch with | some l => l.task.persist | none => false
    if persist then
      (s.holding fun u => u.launch == r.launch).foldl
        (fun t k => t.modCore k fun co => co.modUnit fun u => { u with reasons := u.reasons ||| m }) s
    else s.modCore c fun co => co.modUnit fun u => { u with reasons := u.reasons ||| m }

/-- The budget reason arises when a charge leaves BUDI or BUDT negative (R255). -/
def State.budgetReason (s : State) (c : CoreId) : State :=
  let k := s.coreAt c
  match k.unit with
  | none => s
  | some u =>
    if (k.sys.budi.msb || k.sys.budt.msb) && !hasReason u.reasons reasonBudget then s.addReason c reasonBudget else s

/-- Charge BUDI and BUDT of the unit of core c (R254, R255). -/
def State.charge (s : State) (c : CoreId) (i t : Nat) : State :=
  (s.modCore c fun k =>
    { k with sys := { k.sys with budi := chargeBudget 48 k.sys.budi i, budt := chargeBudget 48 k.sys.budt t },
             periodBytes := k.periodBytes + t,
             unit := k.unit.map fun u => { u with iused := u.iused + i, tused := u.tused + t } }).budgetReason c

/-- A progress event of a unit of core c: WC of its task queue returns to 0 (R321). -/
def State.progress (s : State) (c : CoreId) : State :=
  match s.resident c with
  | none => s
  | some u => s.modDie (dieOf c) fun d =>
      { d with queues := d.queues.map fun q => if q.ctx = u.ctx then { q with wc := 0 } else q }

/-- Mark the segment of core c irreversible (R382). -/
def State.irreversible (s : State) (c : CoreId) : State :=
  s.modCore c fun k => { k with seg := { k.seg with irreversible := true } }

/-- What a closing of records covers (R407). -/
def closesRecord (c : RecordClose) (i : RedIdent) : Bool :=
  match c with
  | .copy x => x == i
  | .launch node l => node == i.node && l == i.launch

/-- Close records of reducing copies (R407): here, and at other nodes by a message. -/
def State.closeRecords (s : State) (c : RecordClose) : State :=
  let t := { s with fabric := { s.fabric with records := s.fabric.records.filter fun r => !closesRecord c r.ident } }
  if t.fabric.valid then t.reply (.close c) else t

end Sys2Proof.Machine
end

