-- ==== Sys2Proof/Machine/Submit.lean ====
section
/-! DEFINITION. Task records (spec/10_work_unit.md R245, R247), completion counters (R250, R251), floor admission
(spec/19_power.md R353, R357), the queueing of a launch (spec/17_die_sched.md R306, R317). -/

namespace Sys2Proof.Machine

open Sys2Proof

/-- One PRED field (R245): none when a reserved bit is set; an invalid entry gives an empty list. -/
def parsePred (v : Nat) : Option (List (Fin 256 × Level × BitVec 32)) :=
  if bitsOf v 10 5 != 0 || bitsOf v 48 16 != 0 then none
  else if bitsOf v 15 1 = 0 then some []
  else some [(Fin.ofNat 256 (bitsOf v 0 8), levelOf (bitsOf v 8 2), BitVec.ofNat 32 (bitsOf v 16 32))]

/-- The 128 bytes of a task record (R245); none where R247 refuses with code 0x01. -/
def parseTask (bs : List Byte) : Option TaskRec :=
  let f := fieldNat bs
  let flags := f 0x52 2
  let gang := flags % 2 == 1
  match parsePred (f 0x18 8), parsePred (f 0x20 8), parsePred (f 0x28 8), parsePred (f 0x30 8) with
  | some p0, some p1, some p2, some p3 =>
    if f 0x00 10 % 256 == 0 && f 0x0A 1 < 8 && f 0x0B 1 < 16 && 1 ≤ f 0x0C 4 && f 0x0C 4 < 2 ^ 24 && f 0x10 8 != 0
        && (gang || f 0x40 8 == 0) && f 0x48 10 % 128 == 0 && flags < 8
        && 1 ≤ f 0x54 6 && f 0x54 6 < 2 ^ 47 && 1 ≤ f 0x5A 6 && f 0x5A 6 < 2 ^ 47 && f 0x60 4 < 2 ^ 31
        && f 0x68 10 % 64 == 0 && f 0x72 10 % 65536 == 0 && f 0x7C 4 == 0 then
      some { image := BitVec.ofNat 80 (f 0x00 10), eclass := Fin.ofNat 8 (f 0x0A 1), rank := Fin.ofNat 16 (f 0x0B 1),
             units := f 0x0C 4, place := BitVec.ofNat 64 (f 0x10 8), preds := p0 ++ p1 ++ p2 ++ p3,
             deadline := BitVec.ofNat 64 (f 0x38 8), startTick := BitVec.ofNat 64 (f 0x40 8),
             optab := BitVec.ofNat 80 (f 0x48 10), gang := gang, persist := bitsOf flags 1 1 == 1, pvar := bitsOf flags 2 1 == 1,
             ibudi := BitVec.ofNat 48 (f 0x54 6), ibudt := BitVec.ofNat 48 (f 0x5A 6), ibudg := BitVec.ofNat 32 (f 0x60 4),
             ccl := Fin.ofNat 256 (f 0x64 1), ccg := Fin.ofNat 256 (f 0x65 1), ccp := Fin.ofNat 256 (f 0x66 1),
             ccj := Fin.ofNat 256 (f 0x67 1), compl := BitVec.ofNat 80 (f 0x68 10), savepool := BitVec.ofNat 80 (f 0x72 10) }
    else none
  | _, _, _, _ => none

/-! ## Completion counters -/

/-- The key of a counter. -/
def counterKey (l : Level) (n : Nat) : Nat := 256 * l.code + n

/-- A completion counter (R250). -/
def Ctx.counter (c : Ctx) (l : Level) (n : Nat) : BitVec 48 :=
  match c.counters.find? fun p => p.1 == counterKey l n with
  | some p => p.2
  | none => 0

/-- Put a value under a key of an ascending list that holds only nonzero values. -/
def putCount (l : List (Nat × BitVec 48)) (k : Nat) (v : BitVec 48) : List (Nat × BitVec 48) :=
  l.filter (fun p => decide (p.1 < k)) ++ ((if v = 0 then [] else [(k, v)]) ++ l.filter fun p => decide (k < p.1))

/-- The test of CCWAIT and of PRED (R251). -/
def reached (counter threshold : BitVec 48) : Bool := !(counter - threshold).msb

/-- Every valid predicate of a launch holds (R245, R317). -/
def State.predsHold (s : State) (l : Launch) : Bool :=
  match s.ctx l.ctx with
  | none => false
  | some c => l.task.preds.all fun p => reached (c.counter p.2.1 p.1.val) (p.2.2.zeroExtend 48)

/-- A context and its ancestors are Running, and none is being destroyed (R333). -/
def State.ctxRuns (s : State) (x : Nat) : Bool :=
  (s.lineage x).all fun n => match s.ctx n with | some c => c.running && !c.destroying | none => false

/-- Waiting launches whose predicates hold become Ready (R317); those of contexts that do not run stay waiting (R334). -/
def State.readyLaunches (s : State) : State :=
  { s with launches := s.launches.map fun l =>
      if l.mark.isNone && s.predsHold l && s.ctxRuns l.ctx then
        { l with shares := l.shares.map fun p => if p.2 = .waiting then (p.1, .ready) else p }
      else l }

/-- Increment a counter of a context (R248, R250); 0xFF names none. -/
def State.countUp (s : State) (ctx : Nat) (l : Level) (n : Fin 256) : State :=
  if n = 255 then s
  else (s.modCtx ctx fun c => { c with counters := putCount c.counters (counterKey l n.val) (c.counter l n.val + 1) }).readyLaunches

/-! ## Floors -/

/-- The effective floor of a context in watts (R357). -/
def State.effectiveFloor (s : State) (c : Ctx) : Nat :=
  c.floor - ((s.ctxs.filter fun x => x.parent == some c.num).map (·.floor)).sum

/-- The limit Lp of a partition in milliwatts, none where there is none (R353). -/
def State.partitionLimit (s : State) (p : Partition) : Option Nat :=
  let cap := if p.pcap = 0xFFFF then none else some (p.pcap.toNat * 1000)
  let rank := match s.power.caps with
    | some r => (r.caps.getD p.prank.val none).map (· * 1000)
    | none => none
  match cap, rank with
  | some a, some b => some (min a b)
  | some a, none => some a
  | none, r => r

/-- The admitted effective floors of the contexts that satisfy p, in milliwatts (R357: broken floors count). -/
def State.admittedFloors (s : State) (p : Ctx → Bool) : Nat :=
  ((s.ctxs.filter fun c => c.admitted && p c).map fun c => s.effectiveFloor c * 1000).sum

/-- The least level that floors leave, 190 W in milliwatts (R357, R358). -/
def gatedFloor : Nat := 190000

/-- The floor of context c can be admitted (R357). -/
def State.floorFits (s : State) (c : Ctx) : Bool :=
  let f := s.effectiveFloor c * 1000
  c.admitted || f = 0 ||
    (decide (s.admittedFloors (fun _ => true) + f + gatedFloor ≤ s.power.level) &&
      match s.partitionOf c.num with
      | none => true
      | some p =>
        match s.ctx p with
        | some pc => match pc.part with
          | some part => match s.partitionLimit part with
            | some lim => decide (s.admittedFloors (fun x => s.partitionOf x.num == some p) + f ≤ lim)
            | none => true
          | none => true
        | none => true)

/-! ## Queueing a launch -/

/-- The dies that PLACE names (R245), ascending. -/
def placeDies (place : W64) : List DieId :=
  (List.finRange 8).filter fun d => (place.toNat / 2 ^ (8 * d.val)) % 256 != 0

/-- A cluster of PLACE has no core of the grant (R247, notes/assumptions/22.md). -/
def placeOutside (place : W64) (cores : BitVec 512) : Bool :=
  (List.finRange 64).any fun i => place.getLsbD i.val && ((cores.toNat / 2 ^ (8 * i.val)) % 256 == 0)

/-- The queued launches of a context (R247: every accepted launch that has not ended). -/
def State.queuedBy (s : State) (c : Nat) : List Launch := s.launches.filter fun l => l.ctx == c

/-- A task queue of a die for a context, made when absent (R306). -/
def addQueue (qs : List TaskQueue) (c : Nat) : List TaskQueue :=
  if qs.any fun q => q.ctx == c then qs
  else qs.filter (fun q => decide (q.ctx < c)) ++ ({ ctx := c, deficit := 0, wc := 0 } :: qs.filter fun q => decide (c < q.ctx))

/-- The code with which a context's launch is refused, 0 when it is accepted (R247: first in the order 1, 2, 4, 3). -/
def State.refusal (s : State) (c : Ctx) (t : Option TaskRec) : Nat :=
  match t with
  | none => 1
  | some t =>
    if placeOutside t.place c.cores then 2
    else if c.qcap ≤ (s.queuedBy c.num).length then 4
    else if !s.floorFits c then 3
    else 0

/-- A launch just accepted. -/
def freshLaunch (id ctx : Nat) (t : TaskRec) : Launch :=
  { id := id, ctx := ctx, task := t, shares := (placeDies t.place).map fun d => (d, .waiting), units := [], level := 7,
    deques := [], closed := [], ran := 0, faults := 0, gmin := 7, gmax := 0, caps := 0xFF, fcause := 0, start := 0, iused := 0,
    tused := 0, startCycle := 0, mark := none, markCycle := 0, held := false, images := [], cores := 0 }

/-- The dies that have read the image and the table of a launch. -/
def Launch.checked (l : Launch) : List DieId := l.images.map (·.1)

/-- Identifiers of a partition's launches: its context number in the low twelve bits, a count of its own above them, so that one
partition's launches change no identifier of another's (R343; notes/assumptions/6.md). -/
def launchIdOf (part count : Nat) : Nat := count * 4096 + part % 4096

/-- The identifier that the next launch of context c receives (R247). -/
def State.newLaunchId (s : State) (c : Nat) : Nat :=
  match (s.partitionOf c).bind s.ctx with
  | some p => match p.part with
    | some y => launchIdOf p.num y.nextLaunch
    | none => s.nextLaunch
  | none => s.nextLaunch

/-- The count of identifiers goes on: from 2^36 - 1 to 1. -/
def nextCount (n : Nat) : Nat := n % (2 ^ 36 - 1) + 1

/-- The counts after an identifier was given to a launch of context c. -/
def State.countLaunch (s : State) (c : Nat) : State :=
  match s.partitionOf c with
  | some p => s.modCtx p fun x => { x with part := x.part.map fun y => { y with nextLaunch := nextCount y.nextLaunch } }
  | none => { s with nextLaunch := s.nextLaunch % (2 ^ 48 - 1) + 1 }

/-- Submit a task record as a LAUNCH of context c (R247): the new identifier, or 2^63 + the refusal code. -/
def State.submit (s : State) (c : Nat) (bs : List Byte) : State × W64 :=
  match s.ctx c with
  | none => (s, BitVec.ofNat 64 (2 ^ 63 + 1))
  | some cx =>
    match s.refusal cx (parseTask bs), parseTask bs with
    | 0, some t =>
      let id := s.newLaunchId c
      let s1 := { s.countLaunch c with launches := s.launches ++ [freshLaunch id c t] }
      let s2 := s1.modCtx c fun x => { x with admitted := true }
      let s3 := (placeDies t.place).foldl (fun u d => u.modDie d fun y => { y with queues := addQueue y.queues c }) s2
      (s3.readyLaunches, BitVec.ofNat 64 id)
    | code, _ => (s, BitVec.ofNat 64 (2 ^ 63 + code))

end Sys2Proof.Machine
end

