-- ==== Sys2Proof/Machine/Num.lean ====
section
/-! DEFINITION. Numbers (spec/04_numbers.md R86-R105): exact values, the floating-point formats, rounding, the correctly
rounded functions, microscaling and planar blocks, ACC64. -/

namespace Sys2Proof.Machine

open Sys2Proof

/-- An exact value: NaN, an infinity, or (-1)^neg m 2^e (m = 0: a signed zero). -/
inductive Num where
  | nan
  | inf (neg : Bool)
  | fin (neg : Bool) (m : Nat) (e : Int)
  deriving DecidableEq, Repr

/-- A floating-point format (R87): exponent bits, fraction bits, bias, whether the top exponent holds infinity and NaN (as in
IEEE), its canonical NaN and its largest finite pattern (magnitude bits). -/
structure Fmt where
  ebits : Nat
  fbits : Nat
  bias : Nat
  ieee : Bool
  nan : Nat
  largest : Nat
  deriving DecidableEq, Repr

def fmtFp32 : Fmt := ⟨8, 23, 127, true, 0x7FC00000, 0x7F7FFFFF⟩
def fmtBf16 : Fmt := ⟨8, 7, 127, true, 0x7FC0, 0x7F7F⟩
def fmtFp16 : Fmt := ⟨5, 10, 15, true, 0x7E00, 0x7BFF⟩
def fmtE4m3 : Fmt := ⟨4, 3, 7, false, 0x7F, 0x7E⟩
def fmtE5m2 : Fmt := ⟨5, 2, 15, true, 0x7E, 0x7B⟩
def fmtE2m1 : Fmt := ⟨2, 1, 1, false, 0, 7⟩

/-- The bits of a format. -/
def Fmt.width (f : Fmt) : Nat := 1 + f.ebits + f.fbits

/-- The exponent of the smallest subnormal (R87). -/
def Fmt.qmin (f : Fmt) : Int := 1 - (f.bias : Int) - (f.fbits : Int)

/-- The value of a bit pattern (R87). -/
def Fmt.decode (f : Fmt) (bits : Nat) : Num :=
  let neg := bits / 2 ^ (f.ebits + f.fbits) % 2 == 1
  let e := bits / 2 ^ f.fbits % 2 ^ f.ebits
  let fr := bits % 2 ^ f.fbits
  if f.ieee && e = 2 ^ f.ebits - 1 then (if fr = 0 then .inf neg else .nan)
  else if !f.ieee && f.ebits = 4 && bits % 128 = 127 then .nan
  else if e = 0 then .fin neg fr f.qmin
  else .fin neg (2 ^ f.fbits + fr) (f.qmin + (e - 1 : Nat))

/-- How a result is rounded (R93, R94): sr carries the 24 bits drawn. -/
inductive Rnd where
  | rne | rtz | sr (u : Nat)
  deriving DecidableEq, Repr

/-- A quotient m / 2^sh rounded to an integer (R93, R94); sticky: the exact value lies above m / 2^sh, below the next one. -/
def roundShift (r : Rnd) (m sh : Nat) (sticky : Bool) : Nat :=
  let n := m / 2 ^ sh
  let rem := m % 2 ^ sh
  match r with
  | .rne => if 2 * rem > 2 ^ sh ∨ (2 * rem = 2 ^ sh ∧ 0 < sh ∧ (sticky = true ∨ n % 2 = 1)) then n + 1 else n
  | .rtz => n
  | .sr u => if 2 ^ 24 ≤ rem * 2 ^ 24 / 2 ^ sh + u then n + 1 else n

/-- The exponent of the leading bit of m 2^e, m > 0. -/
def leadExp (m : Nat) (e : Int) : Int := e + (Nat.log2 m : Nat)

/-- The magnitude pattern of m 2^e rounded to a format with no bound above. -/
def Fmt.roundMag (f : Fmt) (r : Rnd) (m : Nat) (e : Int) (sticky : Bool) : Nat :=
  if m = 0 then 0
  else
    let q := max (leadExp m e - f.fbits) f.qmin
    let n := if q ≤ e then m * 2 ^ (e - q).toNat else roundShift r m (q - e).toNat sticky
    (q - f.qmin).toNat * 2 ^ f.fbits + n

/-- m 2^e > the value of a magnitude pattern. -/
def Fmt.exceeds (f : Fmt) (m : Nat) (e : Int) (pat : Nat) : Bool :=
  match f.decode pat with
  | .fin _ m2 e2 =>
    let q := min e e2
    decide (m2 * 2 ^ (e2 - q).toNat < m * 2 ^ (e - q).toNat)
  | _ => false

/-- A pattern with its sign. -/
def Fmt.signed (f : Fmt) (neg : Bool) (mag : Nat) : Nat := if neg then mag + 2 ^ (f.ebits + f.fbits) else mag

/-- The infinity pattern. -/
def Fmt.infPat (f : Fmt) : Nat := (2 ^ f.ebits - 1) * 2 ^ f.fbits

/-- Round a finite value to a format with infinities (R93, R94). -/
def Fmt.roundFin (f : Fmt) (r : Rnd) (neg : Bool) (m : Nat) (e : Int) (sticky : Bool) : Nat :=
  let r' := match r with
    | .sr u => if f.exceeds m e f.largest then .rne else .sr u
    | x => x
  let p := f.roundMag r' m e sticky
  if p ≤ f.largest then f.signed neg p
  else match r' with
    | .rtz => f.signed neg f.largest
    | _ => f.signed neg f.infPat

/-- Round a value to a format with infinities; every NaN is the canonical one (R88). -/
def Fmt.encode (f : Fmt) (r : Rnd) : Num → Nat
  | .nan => f.nan
  | .inf neg => f.signed neg f.infPat
  | .fin neg m e => f.roundFin r neg m e false

/-- Round a value to an element format, clamped to the largest finite (R91). -/
def Fmt.encodeClamp (f : Fmt) : Num → Nat
  | .nan => f.nan
  | .inf neg => f.signed neg f.largest
  | .fin neg m e => f.signed neg (min (f.roundMag .rne m e false) f.largest)

/-! ## Exact arithmetic -/

/-- The integer that a finite value is in units of 2^q, q at most its exponent. -/
def scaledInt (neg : Bool) (m : Nat) (e q : Int) : Int :=
  let v : Int := (m * 2 ^ (e - q).toNat : Nat)
  if neg then -v else v

/-- The exact sum (R88): an exact zero of opposite signs is +0. -/
def Num.add : Num → Num → Num
  | .nan, _ => .nan
  | _, .nan => .nan
  | .inf a, .inf b => if a = b then .inf a else .nan
  | .inf a, _ => .inf a
  | _, .inf b => .inf b
  | .fin a m e, .fin b n g =>
    let q := min e g
    let v := scaledInt a m e q + scaledInt b n g q
    if v = 0 then .fin (m == 0 && n == 0 && a && b) 0 q
    else .fin (decide (v < 0)) v.natAbs q

/-- The negation. -/
def Num.neg : Num → Num
  | .nan => .nan
  | .inf a => .inf (!a)
  | .fin a m e => .fin (!a) m e

/-- The magnitude. -/
def Num.abs : Num → Num
  | .nan => .nan
  | .inf _ => .inf false
  | .fin _ m e => .fin false m e

/-- The exact product (R88). -/
def Num.mul : Num → Num → Num
  | .nan, _ => .nan
  | _, .nan => .nan
  | .inf a, .inf b => .inf (a != b)
  | .inf a, .fin b n _ => if n = 0 then .nan else .inf (a != b)
  | .fin a m _, .inf b => if m = 0 then .nan else .inf (a != b)
  | .fin a m e, .fin b n g => .fin (a != b) (m * n) (e + g)

/-- The value is NaN. -/
def Num.isNan : Num → Bool
  | .nan => true
  | _ => false

/-- The value is a zero. -/
def Num.isZero : Num → Bool
  | .fin _ m _ => m == 0
  | _ => false

/-- The sign. -/
def Num.sign : Num → Bool
  | .nan => false
  | .inf a => a
  | .fin a _ _ => a

/-- x < y for values that are not NaN; zeros are equal. -/
def Num.lt : Num → Num → Bool
  | .nan, _ => false
  | _, .nan => false
  | .inf a, .inf b => a && !b
  | .inf a, .fin _ _ _ => a
  | .fin _ _ _, .inf b => !b
  | .fin a m e, .fin b n g => decide (scaledInt a m e (min e g) < scaledInt b n g (min e g))

/-- x = y for values that are not NaN. -/
def Num.eq (x y : Num) : Bool := !x.isNan && !y.isNan && !x.lt y && !y.lt x

/-- The IEEE minimum (R88). -/
def Num.minimum (x y : Num) : Num :=
  if x.isNan || y.isNan then .nan
  else if x.lt y then x
  else if y.lt x then y
  else if x.sign then x else y

/-- The IEEE maximum (R88). -/
def Num.maximum (x y : Num) : Num :=
  if x.isNan || y.isNan then .nan
  else if x.lt y then y
  else if y.lt x then x
  else if x.sign then y else x

/-- An integer as a value. -/
def Num.ofInt (v : Int) : Num := .fin (decide (v < 0)) v.natAbs 0

/-- m 2^e times 2^k. -/
def Num.scale (k : Int) : Num → Num
  | .fin a m e => .fin a m (e + k)
  | x => x

/-! ## Integers -/

/-- Clamp to a range. -/
def clampInt (lo hi v : Int) : Int := if v < lo then lo else if hi < v then hi else v

/-- The least value of a signed n-bit integer. -/
def minInt (n : Nat) : Int := - ((2 ^ (n - 1) : Nat) : Int)

/-- The greatest value of a signed n-bit integer. -/
def maxInt (n : Nat) : Int := ((2 ^ (n - 1) : Nat) : Int) - 1

/-- Round a finite value to an integer (R93: the unit in the last place is 1). -/
def roundInt (r : Rnd) (neg : Bool) (m : Nat) (e : Int) : Int :=
  let n := if 0 ≤ e then m * 2 ^ e.toNat else roundShift r m (-e).toNat false
  if neg then -(n : Int) else (n : Int)

/-- Convert to an integer range (R93): saturate, NaN to 0. -/
def Num.toInt (r : Rnd) (lo hi : Int) : Num → Int
  | .nan => 0
  | .inf neg => if neg then lo else hi
  | .fin neg m e => clampInt lo hi (roundInt r neg m e)

/-- VRSHR (R92): round half up, shift, clamp. -/
def roundShiftRight (x : Int) (s : Nat) (lo hi : Int) : Int :=
  let t := if 0 < s then x + ((2 ^ (s - 1) : Nat) : Int) else x
  clampInt lo hi (t / ((2 ^ s : Nat) : Int))

/-! ## The correctly rounded functions (R105) -/

/-- The integer square root: bits from 2^i down. -/
def isqrtFrom (n : Nat) : Nat → Nat → Nat
  | r, 0 => if (r + 1) * (r + 1) ≤ n then r + 1 else r
  | r, i + 1 =>
    let c := r + 2 ^ (i + 1)
    isqrtFrom n (if c * c ≤ n then c else r) i

/-- floor (sqrt n). -/
def isqrt (n : Nat) : Nat := isqrtFrom n 0 (Nat.log2 n / 2 + 1)

/-- 1 / (m 2^e), m > 0. -/
def rcpFp32 (neg : Bool) (m : Nat) (e : Int) : Nat :=
  let k := Nat.log2 m + 64
  fmtFp32.roundFin .rne neg (2 ^ k / m) (-(k : Int) - e) (2 ^ k % m != 0)

/-- sqrt (m 2^e), m > 0. -/
def sqrtFp32 (m : Nat) (e : Int) : Nat :=
  let m2 := if e % 2 = 0 then m else 2 * m
  let e2 := if e % 2 = 0 then e else e - 1
  let n := m2 * 2 ^ 128
  let r := isqrt n
  fmtFp32.roundFin .rne false r (e2 / 2 - 64) (r * r != n)

/-- 1 / sqrt (m 2^e), m > 0. -/
def rsqFp32 (m : Nat) (e : Int) : Nat :=
  let m2 := if e % 2 = 0 then m else 2 * m
  let e2 := if e % 2 = 0 then e else e - 1
  let k := Nat.log2 m2 + 80
  let r := isqrt (2 ^ (2 * k) / m2)
  fmtFp32.roundFin .rne false r (-(k : Int) - e2 / 2) (r * r * m2 != 2 ^ (2 * k))

/-- Bounds of 2^(f / 2^n) in units of 2^-p for f < 2^n, by the square roots 2^(1/2), 2^(1/4), ...: lower and upper. -/
def exp2Bounds (p : Nat) : Nat → Nat → Nat → Nat → Nat → Nat → Nat × Nat
  | 0, _, _, _, lo, hi => (lo, hi)
  | n + 1, f, l, u, lo, hi =>
    let l' := isqrt (l * 2 ^ p)
    let u' := isqrt (u * 2 ^ p) + 1
    if f.testBit n then exp2Bounds p n f l' u' (lo * l' / 2 ^ p) (hi * u' / 2 ^ p + 1)
    else exp2Bounds p n f l' u' lo hi

/-- 2^(w + f / 2^n): rounded at both bounds with p working bits; the first precision at which they agree. -/
def exp2Round (w : Int) (n f : Nat) : List Nat → Nat
  | [] => 0
  | p :: rest =>
    let n' := min n p
    let f' := f / 2 ^ (n - n')
    let r := exp2Bounds p n' f' (2 * 2 ^ p) (2 * 2 ^ p) (2 ^ p) (2 ^ p)
    let hi := if n' < n then r.2 + r.2 / 2 ^ (p - 1) + 1 else r.2
    let a := fmtFp32.roundFin .rne false r.1 (w - p) true
    let b := fmtFp32.roundFin .rne false hi (w - p) false
    if a = b ∨ rest = [] then a else exp2Round w n f rest

/-- The working precisions tried in turn (notes/assumptions/23.md). -/
def precisions : List Nat := [96, 192, 384, 768]

/-- 2^x for x = (-1)^neg m 2^e, m > 0 (R105). -/
def exp2Fp32 (neg : Bool) (m : Nat) (e : Int) : Nat :=
  if 9 < leadExp m e then (if neg then 0 else fmtFp32.infPat)
  else if 0 ≤ e then
    let x : Int := (m * 2 ^ e.toNat : Nat)
    fmtFp32.roundFin .rne false 1 (if neg then -x else x) false
  else
    let n := (-e).toNat
    let x : Int := if neg then -(m : Int) else (m : Int)
    let d : Int := ((2 ^ n : Nat) : Int)
    let w := x / d
    let f := (x % d).toNat
    if f = 0 then fmtFp32.roundFin .rne false 1 w false else exp2Round w n f precisions

/-- Bits of log2 y for y in [lo, hi] / 2^p within [1, 2): (bits so far, how many). -/
def log2Bits (p : Nat) : Nat → Nat → Nat → Nat → Nat → Nat × Nat
  | 0, _, _, acc, k => (acc, k)
  | n + 1, lo, hi, acc, k =>
    let l := lo * lo / 2 ^ p
    let u := hi * hi / 2 ^ p + 1
    if 2 * 2 ^ p ≤ l then log2Bits p n (l / 2) (u / 2 + 1) (2 * acc + 1) (k + 1)
    else if u ≤ 2 * 2 ^ p then log2Bits p n l u (2 * acc) (k + 1)
    else (acc, k)

/-- w + log2 (y / 2^p0), rounded at both bounds. -/
def log2Round (w : Int) (y p0 : Nat) : List Nat → Nat
  | [] => 0
  | p :: rest =>
    let y' := y * 2 ^ p / 2 ^ p0
    let r := log2Bits p (p / 2) y' (if y * 2 ^ p % 2 ^ p0 = 0 then y' else y' + 1) 0 0
    let lo := w * ((2 ^ r.2 : Nat) : Int) + (r.1 : Int)
    let hi := lo + 1
    let enc (v : Int) (st : Bool) : Nat := fmtFp32.roundFin .rne (decide (v < 0)) v.natAbs (-(r.2 : Int)) st
    -- the exact value lies strictly between lo and hi
    let a := if lo < 0 then enc lo false else enc lo true
    let b := if hi ≤ 0 then enc hi true else enc hi false
    if (a = b ∧ lo ≠ 0 ∧ hi ≠ 0) ∨ rest = [] then a else log2Round w y p0 rest

/-- log2 of m 2^e, m > 0 (R105). -/
def log2Fp32 (m : Nat) (e : Int) : Nat :=
  let k := Nat.log2 m
  let w := e + (k : Int)
  if m = 2 ^ k then fmtFp32.encode .rne (if w = 0 then .fin false 0 0 else Num.ofInt w)
  else log2Round w m k precisions

/-- The functions of R105. -/
inductive Fun1 where
  | exp2 | log2 | rcp | rsq | sqrt
  deriving DecidableEq, Repr

/-- A correctly rounded function of an FP32 pattern (R105). -/
def fun1 (f : Fun1) (bits : Nat) : Nat :=
  let one := 0x3F800000
  let nan := fmtFp32.nan
  let inf := fmtFp32.infPat
  match f, fmtFp32.decode bits with
  | _, .nan => nan
  | .exp2, .inf neg => if neg then 0 else inf
  | .log2, .inf neg => if neg then nan else inf
  | .rcp, .inf neg => fmtFp32.signed neg 0
  | .rsq, .inf neg => if neg then nan else 0
  | .sqrt, .inf neg => if neg then nan else inf
  | .exp2, .fin neg m e => if m = 0 then one else exp2Fp32 neg m e
  | .log2, .fin neg m e => if m = 0 then fmtFp32.signed true inf else if neg then nan else log2Fp32 m e
  | .rcp, .fin neg m e => if m = 0 then fmtFp32.signed neg inf else rcpFp32 neg m e
  | .rsq, .fin neg m e => if m = 0 then fmtFp32.signed neg inf else if neg then nan else rsqFp32 m e
  | .sqrt, .fin neg m e => if m = 0 then fmtFp32.signed neg 0 else if neg then nan else sqrtFp32 m e

/-! ## Element types -/

/-- The bytes of an element of a type (R58, R86); MX elements are packed separately. -/
def VType.size : VType → Nat
  | .fp32 => 4 | .bf16 => 2 | .fp16 => 2 | .int32 => 4 | .int16 => 2 | .int8 => 1 | .uint8 => 1 | .mx => 1

/-- The format of a floating-point type. -/
def vfmt : VType → Fmt
  | .bf16 => fmtBf16
  | .fp16 => fmtFp16
  | _ => fmtFp32

/-- The range of an integer type. -/
def intRange : VType → Int × Int
  | .int32 => (minInt 32, maxInt 32)
  | .int16 => (minInt 16, maxInt 16)
  | .int8 => (minInt 8, maxInt 8)
  | _ => (0, 255)

/-- The integer that a pattern of an integer type is. -/
def intOf (t : VType) (bits : Nat) : Int :=
  match t with
  | .uint8 => (bits % 256 : Nat)
  | .int8 => sextInt 8 bits
  | .int16 => sextInt 16 bits
  | _ => sextInt 32 bits

/-- The value of an element pattern. -/
def valueOf (t : VType) (bits : Nat) : Num :=
  if t.isFp then (vfmt t).decode bits else Num.ofInt (intOf t bits)

/-- The pattern of an integer, wrapped (R92). -/
def wrapTo (t : VType) (v : Int) : Nat := wrapNat (8 * VType.size t) v

/-- The pattern of an integer, clamped (R92). -/
def satTo (t : VType) (v : Int) : Nat := wrapTo t (clampInt (intRange t).1 (intRange t).2 v)

/-- Convert a value to a type (R93). -/
def convertTo (t : VType) (r : Rnd) (v : Num) : Nat :=
  if t.isFp then (vfmt t).encode r v else wrapTo t (v.toInt r (intRange t).1 (intRange t).2)

/-! ## Microscaling and planar blocks -/

/-- emax of R91. -/
def mxEmax : MxKind → Int
  | .e4m3 => 8 | .e5m2 => 15 | .e2m1 => 2 | .int8 => 0

/-- The bits of an MX element (R86, R90). -/
def mxBits : MxKind → Nat
  | .e2m1 => 4
  | _ => 8

/-- The value of an element of a block with scale X (R90). -/
def mxValue (k : MxKind) (bits scale : Nat) : Num :=
  if scale = 0xFF then .nan
  else
    let v := match k with
      | .e4m3 => fmtE4m3.decode bits
      | .e5m2 => fmtE5m2.decode bits
      | .e2m1 => fmtE2m1.decode bits
      | .int8 => (Num.ofInt (sextInt 8 bits)).scale (-6)
    v.scale ((scale : Int) - 127)

/-- floor(log2 |v|) of a finite nonzero value. -/
def Num.exponent : Num → Option Int
  | .fin _ m e => if m = 0 then none else some (leadExp m e)
  | _ => none

/-- The E of R91 and R97: the greatest exponent of the finite nonzero values, 127 when there is none. -/
def blockExp (vs : List Num) : Int :=
  match vs.filterMap Num.exponent with
  | [] => 127
  | x :: r => r.foldl max x

/-- The element of R91 under scale X. -/
def mxElement (k : MxKind) (scale : Nat) (v : Num) : Nat :=
  let t := v.scale (127 - (scale : Int))
  match k with
  | .e4m3 => fmtE4m3.encodeClamp t
  | .e5m2 => fmtE5m2.encodeClamp t
  | .e2m1 => fmtE2m1.encodeClamp t
  | .int8 => wrapNat 8 ((t.scale 6).toInt .rne (-127) 127)

/-- The scale of a block (R91). -/
def mxScale (k : MxKind) (vs : List Num) : Nat :=
  if vs.any Num.isNan then 0xFF
  else if vs.all Num.isZero then 0
  else (clampInt 0 254 (blockExp vs - mxEmax k + 127)).toNat

/-- Scale and elements of one block (R91): zero elements keep their sign, but a block of zeros gives +0. -/
def mxBlock (k : MxKind) (vs : List Num) : Nat × List Nat :=
  let x := mxScale k vs
  if x = 0xFF || vs.all Num.isZero then (x, vs.map fun _ => 0) else (x, vs.map (mxElement k x))

/-- The scale of a row of a planar block (R97). -/
def planarScale (vs : List Num) (srcNan : Bool) : Nat :=
  if srcNan || vs.any Num.isNan then 0xFF
  else if vs.all Num.isZero then 0
  else (clampInt 1 254 (blockExp vs + 127)).toNat

/-- Scale and elements of one row of a planar block of precision p (R97). -/
def planarRow (p : Nat) (vs : List Num) (srcNan : Bool) : Nat × List Int :=
  let x := planarScale vs srcNan
  if x = 0xFF || vs.all Num.isZero then (x, vs.map fun _ => 0)
  else (x, vs.map fun v => (v.scale (-((x : Int) - 127 - ((p : Int) - 2)))).toInt .rne (minInt p) (maxInt p))

/-! ## ACC64 -/

/-- The saturated extreme (R99). -/
def accMax : Int := (2 ^ 62 - 1 : Nat)

/-- PZ of an element (R99). -/
def accPoison (w : W64) : Bool := w.msb

/-- Q of an element (R99). -/
def accQ (w : W64) : Int := (w.extractLsb' 0 63).toInt

/-- An element from its fields. -/
def accWord (pz : Bool) (q : Int) : W64 := (if pz then BitVec.ofNat 64 (2 ^ 63) else 0) ||| BitVec.ofNat 64 (wrapNat 63 q)

/-- Clamp to the extremes; the flag is SAT (R101). -/
def accClamp (t : Int) : Int × Bool :=
  if accMax < t then (accMax, true) else if t < -accMax then (-accMax, true) else (t, false)

/-- rne of v 2^-sh. -/
def shiftRne (v : Int) (sh : Nat) : Int :=
  let n := roundShift .rne v.natAbs sh false
  if v < 0 then -(n : Int) else (n : Int)

/-- align of R101: the value and SAT. -/
def accAlign (v sh : Int) : Int × Bool :=
  if 0 ≤ sh then
    (if v = 0 then (0, false)
     else if 128 < sh then (if v < 0 then -accMax else accMax, true)
     else accClamp (v * ((2 ^ sh.toNat : Nat) : Int)))
  else (shiftRne v (-sh).toNat, false)

/-- Add a contribution to an element (R101): the element and SAT. -/
def accAdd (w : W64) (c : Option (Int × Bool)) : W64 × Bool :=
  let q := accQ w
  match c with
  | none => (accWord true q, false)
  | some (v, sat) =>
    if (q = accMax ∧ v = -accMax) ∨ (q = -accMax ∧ v = accMax) then (accWord true q, sat)
    else if q = accMax ∨ q = -accMax then (w, sat)
    else if v = accMax ∨ v = -accMax then (accWord (accPoison w) v, sat)
    else
      let t := accClamp (q + v)
      (accWord (accPoison w) t.1, sat || t.2)

/-- Move an element from one anchor to another (R102): the element and SAT. An element at +MAX or -MAX that goes to a lower
anchor stays as it is and does not set SAT: the rule keeps the element and does not say whether the alignment counts
(DESIGN CHOICE, notes/assumptions/76.md). -/
def accReanchor (w : W64) (a b : Nat) : W64 × Bool :=
  let q := accQ w
  if q = accMax ∨ q = -accMax then (w, false)
  else
    let t := accAlign q ((a : Int) - (b : Int))
    (accWord (accPoison w) t.1, t.2)

/-- The element that VACW makes of a value (R102): the element, SAT, POIS. -/
def accOfNum (anchor : Nat) : Num → W64 × Bool × Bool
  | .nan => (accWord true 0, false, true)
  | .inf neg => (accWord false (if neg then -accMax else accMax), true, false)
  | .fin neg m e =>
    let v : Int := if neg then -(m : Int) else (m : Int)
    let t := accAlign v (e + 151 - (anchor : Int))
    let u := accClamp t.1
    (accWord false u.1, t.2 || u.2, false)

/-- The value that VACC reads (R103). -/
def accNum (anchor : Nat) (w : W64) : Num :=
  let q := accQ w
  if accPoison w then .nan
  else if q = accMax then .inf false
  else if q = -accMax then .inf true
  else .fin (decide (q < 0)) q.natAbs ((anchor : Int) - 151)

end Sys2Proof.Machine
end

