-- ==== Sys2Proof/Machine/Memory.lean ====
section
/-! DEFINITION. Physical memory (spec/20_package.md R373-R377), direct storage (spec/15_die_memory.md R290), barrier tags
(R299), watchpoints (R302), the walk and the composed translation (R291-R294; spec/18_contexts.md R332), windows (R124, R214,
spec/22_fabric.md R400, R401). -/

namespace Sys2Proof.Machine

open Sys2Proof

/-! ## The physical map -/

/-- The first address of direct storage (R373). -/
def dsBase : Nat := 0xFF00000000000

/-- The first address of the LP tier (R373). -/
def lpBase : Nat := 0x10000000000

/-- The first address of host memory (R373). -/
def hostBase : Nat := 0x8000000000000

/-- The first address of the parking shadows (R377). -/
def lpShadow : Nat := 0x18000000000

/-- The rows of the physical map (R373). -/
inductive Region where
  | hbm (d : DieId)
  | lp
  | host
  | direct (d : DieId) (off : Nat)
  | outside
  deriving DecidableEq, Repr

/-- The row that a physical address lies in (R373). -/
def regionOf (pa : Nat) : Region :=
  if pa < 0x8000000000 then .hbm (Fin.ofNat 8 (pa / 0x1000000000))
  else if lpBase ≤ pa ∧ pa < lpBase + 0x10000000000 then .lp
  else if hostBase ≤ pa ∧ pa < 0xF000000000000 then .host
  else if dsBase ≤ pa ∧ pa < dsBase + 8 * 0x20000000 then
    .direct (Fin.ofNat 8 ((pa - dsBase) / 0x20000000)) ((pa - dsBase) % 0x20000000)
  else .outside

/-- The service is one of reduced service (R390). -/
def State.reducedService (s : State) : Bool := s.service != .full

/-- An access may reach a physical address (R290, R373, R377, R390); otherwise it raises 0x05. -/
def State.mapped (s : State) (pa : Nat) : Bool :=
  match regionOf pa with
  | .outside => false
  | .host => true
  | .direct d off =>
    off < (s.die d).dsways.val * 0x2000000 && (!s.reducedService || s.serving == none || s.serving == some d)
  | .hbm _ => !s.reducedService || s.serving == none
  | .lp =>
    (!s.reducedService || s.serving == none) &&
      !(lpShadow ≤ pa && s.memctl.shadow.getLsbD ((pa - lpShadow) / 0x1000000000))

/-- The stack (8: the LP tier) and channel that serve a physical address (R374). -/
def channelOf (pa : Nat) : Option (Fin 9 × Fin 32) :=
  match regionOf pa with
  | .hbm d => some (Fin.ofNat 9 d.val, Fin.ofNat 32 (pa / 256))
  | .lp => some (8, Fin.ofNat 32 (pa / 256))
  | _ => none

/-- The 64 KiB page of its stack that an address lies in, and the stack (R378). -/
def stackPage (pa : Nat) : Option (DieId × Nat) :=
  match regionOf pa with
  | .hbm d => some (d, pa % 0x1000000000 / 65536)
  | _ => none

/-- A number lies in one of some ranges. -/
def inRanges (l : List (Nat × Nat)) (n : Nat) : Bool := l.any fun r => decide (r.1 ≤ n) && decide (n < r.2)

/-- The current copy of a stack's address lies in the LP tier (R378). -/
def State.inShadow (s : State) (pa : Nat) : Bool :=
  match stackPage pa with
  | some (d, n) => inRanges (s.die d).lpPages n
  | none => false

/-- The address at which the current copy of a byte lies (R378). -/
def State.copyAt (s : State) (pa : Nat) : Nat := if s.inShadow pa then lpShadow + pa else pa

/-- The line of a physical address is in a retired channel, where its current copy lies (R374, R378). -/
def State.isRetired (s : State) (pa : Nat) : Bool :=
  match channelOf (s.copyAt pa) with
  | some c => s.memctl.retired.contains c
  | none => false

/-- The lowest byte of pa to pa + n - 1 that returns uncorrectable (R110, R374, R379). -/
def State.firstUnc (s : State) (pa n : Nat) : Option Nat :=
  let a := firstBad s.memBad pa n
  let blocks := (List.range ((pa % 256 + n + 255) / 256)).map fun i => (pa / 256 + i) * 256
  let b := (blocks.find? s.isRetired).map fun x => max x pa
  match a, b with
  | some x, some y => some (min x y)
  | some x, none => some x
  | none, r => r

/-- The bytes at a physical address. -/
def State.physRead (s : State) (pa n : Nat) : List Byte := getBytes s.mem pa n

/-- Some live barrier word has a byte in pa to pa + n - 1 (R299). -/
def State.anyLive (s : State) (pa n : Nat) : Bool := s.live.any fun w => decide (pa < w + 8) && decide (w < pa + n)

/-- The word at an aligned physical address is live (R132). -/
def State.isLive (s : State) (pa : Nat) : Bool := s.live.contains pa

/-! ## Writes and watchpoints -/

/-- The home die of a physical address (R287). -/
def homeDie (pa : Nat) : DieId :=
  match regionOf pa with
  | .hbm d => d
  | .direct d _ => d
  | _ => Fin.ofNat 8 (pa / 2 ^ 25)

/-- The slice of a line: by address for a cached line, by offset in direct storage (R287, R290). -/
def sliceOf (pa : Nat) : Nat :=
  match regionOf pa with
  | .direct _ off => off / 128 % 64
  | _ => let l := pa / 128; ((l ^^^ (l / 64)) ^^^ (l / 4096)) % 64

/-- COND of a watchpoint holds for a word's new value (R301). -/
def condHolds (w : Watchpoint) (v : W64) : Bool :=
  match w.cond.toNat % 4 with
  | 0 => true
  | 1 => (v &&& w.mask) == w.value
  | _ => (v &&& w.mask) != w.value

/-- A write that took memory from m to m' triggers a watchpoint (R302): it changes a selected word to a value that meets
COND. -/
def triggers (m m' : Cells) (w : Watchpoint) : Bool :=
  (List.range 16).any fun i =>
    w.words.getLsbD i &&
      (let o := getBytes m (w.line + 8 * i) 8
       let n := getBytes m' (w.line + 8 * i) 8
       o != n && condHolds w (BitVec.ofNat 64 (leNat n)))

/-- Submit the record of a triggered watchpoint (R302): refused with code 3 or 4 it stays pending; an accepted ONESHOT one is
freed; during the destruction of its context the trigger is dropped. -/
def State.fireWatch (s : State) (d : DieId) (w : Watchpoint) : State :=
  if (match s.ctx w.ctx with | some c => c.destroying | none => true) then s else
  let (t, r) := s.submit w.ctx w.record
  if r = BitVec.ofNat 64 (2 ^ 63 + 3) ∨ r = BitVec.ofNat 64 (2 ^ 63 + 4) then
    t.modDie d fun y => { y with watch := y.watch.map fun v => if v = w then { v with pending := true } else v }
  else if w.cond.getLsbD 2 && !r.msb then
    t.modDie d fun y => { y with watch := y.watch.filter fun v => v != w }
  else t.modDie d fun y => { y with watch := y.watch.map fun v => if v = w then { v with pending := false } else v }

/-- Fire the watchpoints that a write from memory m triggers (R302); those already pending merge. -/
def State.fireAll (s : State) (m : Cells) : State :=
  (List.finRange 8).foldl (fun t d =>
    (t.die d).watch.foldl (fun u w => if !w.pending && triggers m s.mem w then u.fireWatch d w else u) t) s

/-- Bytes that are written here anew. -/
def dropFar (l : List FarByte) (a n : Nat) : List FarByte := l.filter fun e => decide (e.addr < a) || decide (a + n ≤ e.addr)

/-- One access that writes bytes at physical addresses, as it is performed: memory, good again where written, and the
watchpoints it triggers. -/
def State.physPut (s : State) (ws : List (Nat × List Byte)) : State :=
  let s1 := { s with mem := ws.foldl (fun (m : Cells) (w : Nat × List Byte) => putBytes m w.1 w.2) s.mem,
                     far := ws.foldl (fun (l : List FarByte) (w : Nat × List Byte) => dropFar l w.1 w.2.length) s.far,
                     memBad := ws.foldl (fun (b : List Nat) (w : Nat × List Byte) => clearBad b w.1 w.2.length) s.memBad }
  s1.fireAll s.mem

/-- The bytes of a host write that do not lie in live words (R299). -/
def State.skipLive (s : State) (pa : Nat) (bs : List Byte) : List (Nat × List Byte) :=
  if s.anyLive pa bs.length then
    (bs.zipIdx.filter fun p => !s.anyLive (pa + p.2) 1).map fun p => (pa + p.2, [p.1])
  else [(pa, bs)]

/-! ## Translation -/

/-- A fault of a translation (R75, R293, R332): cause and QUAL. -/
structure TFault where
  cause : BitVec 8
  qual : BitVec 4
  deriving DecidableEq, Repr

/-- Permission bits (R292, R330): RD 1, W 2, AT 4. -/
abbrev Perm := BitVec 3

/-- The permissions needed are all held. -/
def Perm.within (need have_ : Perm) : Bool := (need &&& have_) == need

/-- The shifts of the levels 0 to 4 (R293). -/
def walkShifts : List (Nat × Nat) := [(0, 68), (1, 55), (2, 42), (3, 29), (4, 16)]

/-- The levels of a walk from a table on (R293): entry reads through rd, with the level for its faults. -/
def walkFrom (rd : Nat → Nat → Except TFault Nat) (part : Bool) (need : Perm) (va : Nat) :
    List (Nat × Nat) → Nat → Except TFault (Nat × Nat)
  | [], _ => .error ⟨0x04, 4⟩
  | (lvl, sh) :: rest, tbl =>
    let idx := va / 2 ^ sh % (if lvl = 0 then 4096 else 8192)
    match rd lvl (tbl + 16 * idx) with
    | .error f => .error f
    | .ok e =>
      let bad : Except TFault (Nat × Nat) := .error ⟨0x04, BitVec.ofNat 4 lvl⟩
      let leaf := bitsOf e 72 1 == 1
      let rsv := bitsOf e 65 7 != 0 || bitsOf e 80 48 != 0
        || (if leaf then !part && bitsOf e 76 4 != 0 else bitsOf e 73 7 != 0)
      let out := bitsOf e 0 64 * 65536
      if bitsOf e 64 1 = 0 || rsv then bad
      else if !leaf then
        if lvl = 4 then bad
        else if out % 2 ^ 17 != 0 then bad
        else walkFrom rd part need va rest out
      else if lvl < 2 then bad
      else if out % 2 ^ sh != 0 then bad
      else if part && decide (2 ^ 52 ≤ out) then bad
      else if !Perm.within need (BitVec.ofNat 3 (bitsOf e 73 3)) then .error ⟨0x05, 0⟩
      else .ok (out + va % 2 ^ sh, lvl)

/-- A fault in an ancestor's table reports 8 + its level (R75, R293). -/
def ancestorFault (f : TFault) : TFault :=
  if (f.cause = 0x04 || f.cause = 0x0F) && f.qual.toNat < 8 then { f with qual := f.qual + 8 } else f

/-- The range of a context that contains an address (R332). -/
def rangeOf (c : Ctx) (a : Nat) : Option Range := c.ranges.find? fun r => decide (r.base ≤ a) && decide (a < r.base + r.len)

/-- A range no longer serves an access (R332, R336): it is revoked, or a revocation with ALL took it from the context's units; what
the device itself writes as the units leave still lands there (own; notes/assumptions/33.md). -/
def gone (own : Bool) (c : Ctx) (r : Range) : Bool := r.revoked || (!own && c.destroying)

/-- The composed translation of an address of context n (R332), by the number of generations left; own: the device writes a save, a
slot or a completion record. -/
def State.compose (s : State) (own : Bool) : Nat → Nat → Nat → Perm → Except TFault Nat
  | 0, _, _, _ => .error ⟨0x04, 0⟩
  | fuel + 1, n, va, need =>
    match s.ctx n with
    | none => .error ⟨0x04, 0⟩
    | some c =>
      let rd (lvl a : Nat) : Except TFault Nat :=
        match c.parent with
        | none =>
          if regionOf a == .outside then .error ⟨0x04, BitVec.ofNat 4 lvl⟩
          else if !s.mapped a then .error ⟨0x05, 0⟩
          else if (s.firstUnc a 16).isSome then .error ⟨0x0B, 0⟩
          else .ok (leNat (s.physRead a 16))
        | some p =>
          match s.compose own fuel p a 1 with
          | .error f => .error (ancestorFault f)
          | .ok pa =>
            if !s.mapped pa then .error ⟨0x05, 0⟩
            else if (s.firstUnc pa 16).isSome then .error ⟨0x0B, 0⟩
            else .ok (leNat (s.physRead pa 16))
      match walkFrom rd c.parent.isNone need va walkShifts c.root.toNat with
      | .error f => .error f
      | .ok (out, lvl) =>
        match rangeOf c out with
        | none => .error ⟨0x05, 0⟩
        | some r =>
          if gone own c r then .error ⟨0x0F, BitVec.ofNat 4 lvl⟩
          else if !Perm.within need r.perm then .error ⟨0x05, 0⟩
          else match c.parent with
            | none => .ok out
            | some p => match s.compose own fuel p out need with
              | .error f => .error (ancestorFault f)
              | .ok pa => .ok pa

/-- The physical address of a context address outside the windows, in the map (R293, R332). -/
def State.translateAs (s : State) (own : Bool) (ctx : Nat) (va : A80) (need : Perm) : Except TFault Nat :=
  match s.compose own 10 ctx va.toNat need with
  | .error f => .error f
  | .ok pa => if s.mapped pa then .ok pa else .error ⟨0x05, 0⟩

/-- The physical address of a context address for an access of a unit. -/
def State.translate (s : State) (ctx : Nat) (va : A80) (need : Perm) : Except TFault Nat := s.translateAs false ctx va need

/-- The table entries that a walk reads (R293, R296), and the address the leaf gives. -/
def walkEntries (rd : Nat → Except TFault Nat) (va : Nat) : List (Nat × Nat) → Nat → List Nat × Option Nat
  | [], _ => ([], none)
  | (lvl, sh) :: rest, tbl =>
    let a := tbl + 16 * (va / 2 ^ sh % (if lvl = 0 then 4096 else 8192))
    match rd a with
    | .error _ => ([a], none)
    | .ok e =>
      if bitsOf e 64 1 = 0 then ([a], none)
      else if bitsOf e 72 1 = 1 then ([a], some (bitsOf e 0 64 * 65536 + va % 2 ^ sh))
      else
        let r := walkEntries rd va rest (bitsOf e 0 64 * 65536)
        (a :: r.1, r.2)

/-- The physical addresses of every table entry that the translation of an address of context n is formed from (R296), in the
context's own tables and in those of its ancestors. -/
def State.entriesOf (s : State) : Nat → Nat → Nat → List Nat
  | 0, _, _ => []
  | fuel + 1, n, va =>
    match s.ctx n with
    | none => []
    | some c =>
      match c.parent with
      | none => (walkEntries (fun a => .ok (leNat (s.physRead a 16))) va walkShifts c.root.toNat).1
      | some p =>
        let place (a : Nat) : Except TFault Nat := s.compose true fuel p a 1
        let rd (a : Nat) : Except TFault Nat :=
          match place a with
          | .ok pa => .ok (leNat (s.physRead pa 16))
          | .error f => .error f
        let w := walkEntries rd va walkShifts c.root.toNat
        (w.1.filterMap fun a => match place a with | .ok pa => some pa | .error _ => none)
          ++ (w.1 ++ w.2.toList).flatMap (s.entriesOf fuel p)

/-! ## Sets and tenants -/

/-- The set of a cached line within its slice, as its address gives it (R287). -/
def setOf (pa : Nat) : Nat := pa / 128 / 64 % 4096

/-- TEN of the leaf in the partition's own table that an address of context n is translated through (R290, R292). -/
def State.tenOf (s : State) : Nat → Nat → Nat → Nat
  | 0, _, _ => 0
  | fuel + 1, n, va =>
    match s.ctx n with
    | none => 0
    | some c =>
      match c.parent with
      | none =>
        match (walkEntries (fun a => .ok (leNat (s.physRead a 16))) va walkShifts c.root.toNat).1.getLast? with
        | some e => bitsOf (leNat (s.physRead e 16)) 76 4
        | none => 0
      | some p =>
        let rd (a : Nat) : Except TFault Nat :=
          match s.compose true fuel p a 1 with
          | .ok pa => .ok (leNat (s.physRead pa 16))
          | .error f => .error f
        match (walkEntries rd va walkShifts c.root.toNat).2 with
        | some out => s.tenOf fuel p out
        | none => 0

/-- The set in which the line of a physical address is looked up for a tenant id (R287, R290): for a cached line the low TBITS bits of
TEN take the place of the upper ones; direct storage is not partitioned. -/
def State.setFor (s : State) (ten pa : Nat) : Nat :=
  let b := (s.die (homeDie pa)).tbits.val
  match regionOf pa with
  | .direct _ off => off / 8192 % 4096
  | _ => ten % 2 ^ b * 2 ^ (12 - b) + setOf pa % 2 ^ (12 - b)

/-- Caching on the home die of a line is partitioned by tenant (R290). -/
def State.partitioned (s : State) (pa : Nat) : Bool :=
  match regionOf pa with
  | .direct _ _ => false
  | _ => (s.die (homeDie pa)).tbits != 0

/-- What is noted of a byte that is written for a tenant id (R290). -/
def State.noteTenant (s : State) (ten a : Nat) : TenantByte :=
  let old := getByte s.mem a
  match s.tenants.find? fun e => e.addr == a with
  | some e => if s.setFor e.ten a = s.setFor ten a then e else { addr := a, ten := ten, before := old, both := true }
  | none => { addr := a, ten := ten, before := old, both := false }

/-- Bytes of memory are about to be written for a tenant id (R290). -/
def State.noteTenants (s : State) (ten pa len : Nat) : State :=
  if !s.partitioned pa then s
  else
    let l := (List.range len).map fun i => s.noteTenant ten (pa + i)
    { s with tenants := (s.tenants.filter fun e => !(decide (pa ≤ e.addr) && decide (e.addr < pa + len))) ++ l }

/-- Another set than the one that an access for a tenant id looks in may hold something else for a byte (R290): its value there. -/
def State.otherByte (s : State) (ten a : Nat) : Option Byte :=
  if !s.partitioned a then none
  else (s.tenants.find? fun e => e.addr == a && (e.both || s.setFor e.ten a != s.setFor ten a)).map (·.before)

/-- The bytes that a load for a tenant id returns (R290): of a line that two sets hold, those of the one or of the other, which is
free. -/
def State.tenantRead (s : State) (ten pa n : Nat) : List Byte :=
  (s.physRead pa n).zipIdx.map fun b =>
    match s.otherByte ten (pa + b.2) with
    | some o => if (Config.freeWord s.fresh).getLsbD ((pa + b.2) / 128 % 64) then o else b.1
    | none => b.1

/-- Two sets may hold bytes of a range. -/
def State.twoSets (s : State) (ten pa n : Nat) : Bool := (List.range n).any fun i => (s.otherByte ten (pa + i)).isSome

/-! ## Writes of other nodes -/

/-- A load here, as its sequencer and class or of an engine, may still take what a byte held before another node wrote it (R235, R240):
that value. -/
def State.farByte (s : State) (who : Option (CoreId × SeqId × Cls)) (a : Nat) : Option Byte :=
  (s.far.find? fun e => e.addr == a && (match who with | some k => !e.known.contains k | none => true)).map (·.before)

/-- The bytes that a load of this package returns (R240, R290). -/
def State.loadBytes (s : State) (who : Option (CoreId × SeqId × Cls)) (ten pa n : Nat) : List Byte :=
  (s.tenantRead ten pa n).zipIdx.map fun b =>
    match s.farByte who (pa + b.2) with
    | some o => if Config.staleChoice s.fresh ((pa + b.2) / 8) then o else b.1
    | none => b.1

/-- A load has taken bytes (R237, R240): its free choices are spent, and where it saw a write of another node, so does every later load. -/
def State.loaded (s : State) (who : Option (CoreId × SeqId × Cls)) (ten pa n : Nat) : State :=
  let stale := (List.range n).filter fun i => (s.farByte who (pa + i)).isSome
  if stale = [] then (if s.twoSets ten pa n then { s with fresh := s.fresh + 1 } else s)
  else { s with fresh := s.fresh + 1,
                far := if stale.all fun i => Config.staleChoice s.fresh ((pa + i) / 8) then s.far else [] }

/-- An acquire that the fabric's observers share (R240): every load after it sees what other nodes have written. -/
def State.acquireFar (s : State) : State := { s with far := [] }

/-! ## Windows -/

/-- An address in the local window (R124). -/
def inLocal (va : A80) : Bool := va.toNat / 2 ^ 22 = 2 ^ 58 - 1

/-- An address in the cluster window (R214). -/
def inCluster (va : A80) : Bool := va.toNat / 2 ^ 26 = 2 ^ 54 - 1 ∧ va.toNat / 2 ^ 25 % 2 = 0

/-- The valid fabric windows of a partition that contain an address, the lowest first (R401): node, target partition, export,
permissions, offset. -/
def windowOf (p : Partition) (va : Nat) : Option (Nat × Nat × Fin 16 × Perm × Nat) :=
  p.windows.toList.findSome? fun w =>
    let base := w.a.toNat * 65536
    let len := (bitsOf w.b.toNat 38 26 + 1) * 65536
    if w.b.getLsbD 3 && decide (base ≤ va) && decide (va < base + len) then
      some (bitsOf w.b.toNat 20 18, bitsOf w.b.toNat 4 12, Fin.ofNat 16 (bitsOf w.b.toNat 16 4),
            BitVec.ofNat 3 (bitsOf w.b.toNat 0 3), va - base)
    else none

/-- The fabric window of a context that contains an address (R401: contexts without FABRIC have none). -/
def State.fabricWindow (s : State) (ctx : Nat) (va : A80) : Option (Nat × Nat × Fin 16 × Perm × Nat) :=
  match s.ctx ctx with
  | none => none
  | some c =>
    if !c.privs.getLsbD 2 then none
    else match s.partitionOf ctx with
      | none => none
      | some p => match s.ctx p with
        | some pc => match pc.part with
          | some part => windowOf part va.toNat
          | none => none
        | none => none

/-- The parts of n bytes from an address, cut at 64 KiB pages (R125). -/
def pagesOf (va : A80) (n : Nat) : List (A80 × Nat) :=
  let first := min n (65536 - va.toNat % 65536)
  if first < n then cutMore (n / 65536 + 1) (va + BitVec.ofNat 80 first) (n - first) [(va, first)] else [(va, n)]
where
  /-- The parts after the first. -/
  cutMore : Nat → A80 → Nat → List (A80 × Nat) → List (A80 × Nat)
    | 0, _, _, acc => acc
    | k + 1, v, m, acc =>
      if m = 0 then acc
      else if m ≤ 65536 then acc ++ [(v, m)]
      else cutMore k (v + 65536) (m - 65536) (acc ++ [(v, 65536)])

/-- The part of an access within one page (R123, R124, R214, R291, R401), or its fault. -/
def State.pieceAs (s : State) (own : Bool) (ctx : Nat) (va : A80) (n : Nat) (need : Perm) : Except TFault Piece :=
  if inLocal va then .ok { va := va, space := .spad, addr := va.toNat % 2 ^ 22, len := n }
  else if inCluster va then .error ⟨0x05, 0⟩
  else match s.fabricWindow ctx va with
    | some (node, part, exp, perm, off) =>
      if Perm.within need perm then .ok { va := va, space := .remote node part exp, addr := off, len := n }
      else .error ⟨0x05, 0⟩
    | none =>
      match s.translateAs own ctx va need with
      | .ok pa => .ok { va := va, space := .phys, addr := pa, len := n }
      | .error f => .error f

/-- The part of a sequencer access within one page. -/
def State.seqPiece (s : State) (ctx : Nat) (va : A80) (n : Nat) (need : Perm) : Except TFault Piece := s.pieceAs false ctx va n need

/-- The parts of an access, or the first fault with the address that faulted (R125: the lower address is reported). -/
def State.piecesAs (s : State) (own : Bool) (ctx : Nat) (need : Perm) : List (A80 × Nat) → Except (TFault × A80) (List Piece)
  | [] => .ok []
  | (va, n) :: rest =>
    match s.pieceAs own ctx va n need with
    | .error f => .error (f, va)
    | .ok p =>
      match s.piecesAs own ctx need rest with
      | .error e => .error e
      | .ok ps => .ok (p :: ps)

/-- The parts of an access of a unit. -/
def State.pieces (s : State) (ctx : Nat) (need : Perm) (l : List (A80 × Nat)) : Except (TFault × A80) (List Piece) :=
  s.piecesAs false ctx need l

/-- A local-window access that runs past offset 0x3F_FFFF (R124): the last page of the window is followed by address 0. -/
def pastLocal (va : A80) (n : Nat) : Bool := inLocal va && decide (2 ^ 22 < va.toNat % 2 ^ 22 + n)

end Sys2Proof.Machine
end

