-- ==== Sys2Proof/Machine/Operands.lean ====
section
/-! DEFINITION. The operands of a sequencer instruction: general registers and queue ports (spec/03_core_state.md R70-R73),
address registers, poison marks (spec/05_sequencers.md R110), interlocks (R85), completion with the loop close (R108, R111,
R114-R116), and the outcome of reading operands. -/

namespace Sys2Proof.Machine

open Sys2Proof

/-- What an instruction's operands give: a value, a stall, or a trap (code, QUAL, TINFO). -/
inductive Res (α : Type) where
  | ok (v : α)
  | stall (k : Stall)
  | trap (code : BitVec 8) (qual : BitVec 4) (tinfo : W64)
  deriving DecidableEq, Repr

/-- Go on with a value. -/
def Res.bind {α β : Type} (r : Res α) (f : α → Res β) : Res β :=
  match r with
  | .ok v => f v
  | .stall k => .stall k
  | .trap c q t => .trap c q t

/-- TINFO of an address cause (R75): bits [79:16] of the address. -/
def infoOf (va : A80) : W64 := va.extractLsb' 16 64

/-- The trap that the reader of a marked value raises (R110, R403). -/
def markTrap {α : Type} (m : Mark) : Res α :=
  .trap m.cause m.qual (if m.cause = 0x0B ∧ m.qual = 1 then BitVec.ofNat 64 (m.addr.toNat % 2 ^ 22) else infoOf m.addr)

/-- An outstanding access will write general register r. -/
def Seq.awaits (q : Seq) (r : GReg) : Bool := q.out.any fun x => x.dest == .g r

/-- An outstanding access will write address register r. -/
def Seq.awaitsA (q : Seq) (r : AReg) : Bool := q.out.any fun x => x.dest == .a r

/-- The producer of a sequencer's inbound queues has halted or stands at a CONT (R72). -/
def Core.producerDone (k : Core) (q : SeqId) : Bool :=
  let p := k.seq (otherSeq q)
  p.halted || p.cont.isSome

/-- Pop a data queue through g28 or g29 (R72). -/
def Core.pop (k : Core) (q : SeqId) (second : Bool) : Res (W64 × Core) :=
  match k.inbound q second with
  | [] =>
    if k.producerDone q then .trap 0x08 0 (if second then 2 else 0) else .stall .popEmpty
  | .reserved _ :: _ => .stall .popEmpty
  | .ready v none :: r => .ok (v, k.setInbound q second r)
  | .ready _ (some m) :: _ => markTrap m

/-- Read a general register as an input (R70, R72). -/
def Core.readG (k : Core) (q : SeqId) (r : GReg) : Res (W64 × Core) :=
  if r = 0 ∨ r = 30 ∨ r = 31 then .ok (0, k)
  else if r = 28 then k.pop q false
  else if r = 29 then k.pop q true
  else if (k.seq q).awaits r then .stall .interlock
  else match (k.seq q).gMark[r] with
    | some m => markTrap m
    | none => .ok ((k.seq q).g[r], k)

/-- Read an address register. -/
def Core.readA (k : Core) (q : SeqId) (r : AReg) : Res A80 :=
  if (k.seq q).awaitsA r then .stall .interlock
  else match (k.seq q).aMark[r] with
    | some m => markTrap m
    | none => .ok (k.seq q).a[r]

/-- Put a value with its mark into a general register that is not a port. -/
def Seq.setG (s : Seq) (r : GReg) (v : W64) (m : Option Mark) : Seq :=
  { s with g := s.g.set r v, gMark := s.gMark.set r m }

/-- Put a value with its mark into an address register. -/
def Seq.setA (s : Seq) (r : AReg) (v : A80) (m : Option Mark) : Seq :=
  { s with a := s.a.set r v, aMark := s.aMark.set r m }

/-- The capacity of a data queue (R71). -/
def queueSize : Nat := 16

/-- Push a slot into the queue that g30 or g31 names (R71, R72). -/
def Core.push (k : Core) (q : SeqId) (second : Bool) (v : Slot) : Res Core :=
  let l := k.outbound q second
  if queueSize ≤ l.length then .stall .pushFull else .ok (k.setOutbound q second (l ++ [v]))

/-- Write a general register (R70, R72): g0, g28 and g29 discard, g30 and g31 push. -/
def Core.writeG (k : Core) (q : SeqId) (r : GReg) (v : W64) : Res Core :=
  if r = 0 ∨ r = 28 ∨ r = 29 then .ok k
  else if r = 30 then k.push q false (.ready v none)
  else if r = 31 then k.push q true (.ready v none)
  else if (k.seq q).awaits r then .stall .interlock
  else .ok (k.modSeq q fun x => x.setG r v none)

/-- Write an address register. -/
def Core.writeA (k : Core) (q : SeqId) (r : AReg) (v : A80) : Res Core :=
  if (k.seq q).awaitsA r then .stall .interlock
  else .ok (k.modSeq q fun x => x.setA r v none)

/-- The sequencer exec acts for: X when the stream is the X-sequencer, else A. -/
def State.seqId (s : State) : SeqId :=
  match s.stream with
  | .seq q => q
  | .eng _ => .a

/-- The sequencer exec acts for. -/
def State.curSeq (s : State) : Seq := s.cur.seq s.seqId

/-- The context of the unit on core c; CTXID.ID where no unit is resident. -/
def State.ctxOf (s : State) (c : CoreId) : Nat :=
  match s.resident c with
  | some u => u.ctx
  | none => (s.coreAt c).sys.ctxid.toNat % 4096

/-! ## Completion -/

/-- The words of an instruction at pc include a loop's last word (R115). -/
def coversWord (pc : BitVec 17) (words : Nat) (last : BitVec 19) : Bool :=
  (List.range words).any fun i => (pc + BitVec.ofNat 17 (4 * i)).zeroExtend 19 == last

/-- The loop close of R115 where the next word to run is at next: the levels left and the next pc. -/
def closeLoopsTo (pc : BitVec 17) (words : Nat) (next : BitVec 17) : List LoopLevel → List LoopLevel × BitVec 17
  | [] => ([], next)
  | l :: r =>
    if coversWord pc words l.last then
      if l.count - 1 ≠ 0 then ({ l with count := l.count - 1 } :: r, l.start)
      else closeLoopsTo pc words next r
    else (l :: r, next)

/-- The loop close of an instruction that runs on to the next word. -/
def closeLoops (pc : BitVec 17) (words : Nat) (ls : List LoopLevel) : List LoopLevel × BitVec 17 :=
  closeLoopsTo pc words (pc + BitVec.ofNat 17 (4 * words)) ls

/-- A sequencer completes an instruction of some words that is no taken branch (R24, R108, R115). -/
def Seq.advance (q : Seq) (words : Nat) : Seq :=
  let r := closeLoops q.pc words q.loops
  { q with pc := r.2, loops := r.1, seqno := q.seqno + 1, stall := .none, cont := none }

/-- pc lies in the body of a level. -/
def inBody (l : LoopLevel) (pc : BitVec 17) : Bool := l.start ≤ pc && pc.zeroExtend 19 ≤ l.last

/-- The levels that a taken branch at pc to a target leaves (R116): calls end none but under the first case. -/
def branchLoops (pc target : BitVec 17) (call : Bool) (ls : List LoopLevel) : List LoopLevel :=
  let ls1 := match ls with
    | l :: r => if l.last = pc.zeroExtend 19 then r else l :: r
    | [] => []
  if call then ls1 else ls1.dropWhile fun l => inBody l pc && !inBody l target

/-- A sequencer completes a taken branch (R116). -/
def Seq.jump (q : Seq) (target : BitVec 17) (call : Bool) : Seq :=
  { q with pc := target, loops := branchLoops q.pc target call q.loops, seqno := q.seqno + 1, stall := .none, cont := none }

/-- The instruction of the current sequencer completes: one word, one BUDI, t bytes of BUDT (R111). -/
def State.finish (s : State) (words t : Nat) : State :=
  (s.modCur fun k => k.modSeq s.seqId fun q => q.advance words).charge s.core 1 t

/-- The current sequencer takes a branch. -/
def State.finishJump (s : State) (target : BitVec 17) (call : Bool) : State :=
  (s.modCur fun k => k.modSeq s.seqId fun q => q.jump target call).charge s.core 1 0

/-- The current sequencer stalls. -/
def State.stallSeq (s : State) (k : Stall) : State :=
  s.modCur fun c => c.modSeq s.seqId fun q => { q with stall := k }

/-- A sequencer of a core completes an instruction (a wait that was granted). -/
def State.finishAt (s : State) (c : CoreId) (q : SeqId) : State :=
  (s.modCore c fun k => k.modSeq q fun x => x.advance 1).charge c 1 0

end Sys2Proof.Machine
end

