-- ==== Sys2Proof/Machine/Octet.lean ====
section
/-! DEFINITION. The writes of engines, octet by octet (spec/08_copy.md R214, R219, R220; spec/09_core_order.md R242): the parts
of a copy, the octets that a copy has still to write, the bytes that Serir and Erg have written and other streams do not see yet. -/

namespace Sys2Proof.Machine

open Sys2Proof

/-! ## Parts of a copy -/

/-- The bytes of a local part. -/
def State.partBytes (s : State) (p : Part) : List Byte :=
  match p.place with
  | .spad o => getBytes (s.coreAt o).spad p.addr p.len
  | .phys => s.physRead p.addr p.len
  | .remote _ _ _ => []

/-- Write a local part; watchpoints are looked at when the whole command has written. -/
def State.putPart (s : State) (p : Part) (bs : List Byte) : State :=
  match p.place with
  | .spad o => s.modCore o fun k =>
      { k with spad := putBytes k.spad p.addr bs, spadBad := clearBad k.spadBad p.addr bs.length }
  | .phys => { s with mem := putBytes s.mem p.addr bs, far := dropFar s.far p.addr bs.length, memBad := clearBad s.memBad p.addr bs.length }
  | .remote _ _ _ => s

/-- The bytes that a copy of core c reads from a local part (R240, R290). -/
def State.readPart (s : State) (c : CoreId) (p : Part) : List Byte :=
  match p.place with
  | .phys => s.loadBytes none (s.tenOf 10 (s.ctxOf c) p.va.toNat) p.addr p.len
  | _ => s.partBytes p

/-- The bytes of memory that a copy is about to write are noted for the tenants of the core's unit (R290). -/
def State.noteDests (s : State) (c : CoreId) (ps : List Part) : State :=
  ps.foldl (fun t p => if p.place = .phys then t.noteTenants (t.tenOf 10 (t.ctxOf c) p.va.toNat) p.addr p.len else t) s

/-- A copy has taken its source bytes (R240, R290). -/
def State.spendSources (s : State) (c : CoreId) (ps : List Part) : State :=
  if s.far = [] && !(ps.any fun p => p.place == .phys && s.partitioned p.addr) then s
  else ps.foldl (fun t p => if p.place = .phys then t.loaded none (t.tenOf 10 (t.ctxOf c) p.va.toNat) p.addr p.len else t) s

/-- The core whose scratchpad holds a part, none in memory. -/
def Part.home (p : Part) : Option CoreId := match p.place with | .spad o => some o | _ => none

/-- The aligned 8 bytes in which a part lies, with where they lie. -/
def Part.octet (p : Part) : Place × Nat := (p.place, p.addr / 8)

/-- Bytes d to d + n - 1 of a part. -/
def Part.slice (p : Part) (d n : Nat) : Part :=
  { p with addr := p.addr + d, len := n, va := p.va + BitVec.ofNat 80 d, pos := p.pos + d }

/-- The pieces of parts in each aligned 8 bytes that they touch. -/
def octets (ps : List Part) : List Part :=
  (ps.map fun p => (List.range ((p.addr + p.len - 1) / 8 - p.addr / 8 + 1)).map fun i =>
    let lo := max p.addr (8 * (p.addr / 8 + i))
    p.slice (lo - p.addr) (min (p.addr + p.len) (8 * (p.addr / 8 + i) + 8) - lo)).flatten

/-- What parts hold at transfer positions pos to pos + n - 1. -/
def slicesAt (ps : List Part) (pos n : Nat) : List Part :=
  ps.filterMap fun p =>
    let lo := max p.pos pos
    let hi := min (p.pos + p.len) (pos + n)
    if lo < hi then some (p.slice (lo - p.pos) (hi - lo)) else none

/-! ## Reductions -/

/-- The size of an element of a reducing copy (R219). -/
def redSize : RedType → Nat
  | .bf16 => 2
  | _ => 4

/-- One element of a reducing copy (R219). -/
def redElem (op : RedOp) (ty : RedType) (d s : Nat) : Nat :=
  match ty with
  | .int32 =>
    match op with
    | .add => (d + s) % 2 ^ 32
    | .min => wrapNat 32 (min (sextInt 32 d) (sextInt 32 s))
    | .max => wrapNat 32 (max (sextInt 32 d) (sextInt 32 s))
  | _ =>
    let f := if ty = .bf16 then fmtBf16 else fmtFp32
    let x := f.decode d
    let y := f.decode s
    f.encode .rne (match op with | .add => x.add y | .min => x.minimum y | .max => x.maximum y)

/-- The elements of a destination after a reducing copy. -/
def redBytes (op : RedOp) (ty : RedType) : Nat → List Byte → List Byte → List Byte
  | 0, d, _ => d
  | n + 1, d, s =>
    let z := redSize ty
    if d.isEmpty then []
    else leBytes z (redElem op ty (leNat (d.take z)) (leNat (s.take z))) ++ redBytes op ty n (d.drop z) (s.drop z)

/-- What a copy does with the bytes of a run (R218, R219): the op and type of a reduction, none for a plain write. -/
abbrev RedKind := Option (RedOp × RedType)

/-- What a destination holds after bytes arrive. -/
def RedKind.apply (k : RedKind) (old bs : List Byte) : List Byte :=
  match k with
  | none => bs
  | some (op, ty) => redBytes op ty old.length old bs

/-! ## The octets of a copy -/

/-- The bytes that an octet write of core c brings, read now where it names their parts. -/
def State.octetBytes (s : State) (c : CoreId) (o : OctetWrite) : List Byte :=
  match o.srcs with
  | [] => o.bytes
  | ps => ps.flatMap (s.readPart c)

/-- An octet write of core c is performed; wr writes memory. -/
def State.putOctet (wr : State → List (Nat × List Byte) → State) (s : State) (c : CoreId) (o : OctetWrite) : State :=
  let new := RedKind.apply o.red (s.partBytes o.dst) (s.octetBytes c o)
  let t := s.spendSources c o.srcs
  match o.dst.place with
  | .phys => wr (t.noteDests c [o.dst]) [(o.dst.addr, new)]
  | _ => t.putPart o.dst new

/-- The octet writes of a copy stream that satisfy p are performed, each behind those of its octet before it. -/
def State.flushTodo (wr : State → List (Nat × List Byte) → State) (s : State) (c : CoreId) (e : Eng) (p : OctetWrite → Bool) :
    State :=
  match ((s.coreAt c).eng e).todo with
  | [] => s
  | l =>
    let due (o : OctetWrite) : Bool := l.any fun x => p x && x.dst.octet == o.dst.octet
    (l.filter due).foldl (fun t o => t.putOctet wr c o)
      (s.modCore c fun k => k.modEng e fun t => { t with todo := l.filter fun o => !due o })

/-- The copy streams with an octet write that satisfies p. -/
def State.copiesWith (s : State) (p : CoreId → OctetWrite → Bool) : List (CoreId × Eng) :=
  (s.cores.toList.zip allCores).flatMap fun k => [Eng.c0, Eng.c1].filterMap fun e =>
    if (k.1.eng e).todo.any (p k.2) then some (k.2, e) else none

/-! ## The writes of Serir and Erg -/

/-- The bytes of a near memory. -/
def Core.near (k : Core) : Near → Cells
  | .spad => k.spad
  | .urs => k.urs
  | .sof => k.sof
  | .latch => k.latch

/-- The uncorrectable bytes of a near memory. -/
def Core.nearBad (k : Core) : Near → List Nat
  | .spad => k.spadBad
  | .urs => k.ursBad
  | .sof => k.sofBad
  | .latch => k.latchBad

/-- Replace a near memory. -/
def Core.setNear (k : Core) (n : Near) (m : Cells) (bad : List Nat) : Core :=
  match n with
  | .spad => { k with spad := m, spadBad := bad }
  | .urs => { k with urs := m, ursBad := bad }
  | .sof => { k with sof := m, sofBad := bad }
  | .latch => { k with latch := m, latchBad := bad }

/-- A late byte is performed. -/
def Core.putLate (k : Core) (b : LateByte) : Core :=
  k.setNear b.near (putByte (k.near b.near) b.addr b.byte) (clearBad (k.nearBad b.near) b.addr 1)

/-- The late bytes of an engine that satisfy p are performed. -/
def Core.flushLate (k : Core) (e : Eng) (p : LateByte → Bool) : Core :=
  match (k.eng e).late with
  | [] => k
  | l => (l.filter p).foldl Core.putLate (k.modEng e fun t => { t with late := l.filter fun b => !p b })

/-- The bytes in which two memories differ, as the second holds them. -/
def changes (m m' : Cells) : List (Nat × Byte) :=
  (m'.filter fun x => getByte m x.1 != x.2) ++ ((m.filter fun x => getByte m' x.1 == 0).map fun x => (x.1, 0))

/-- A byte of the URS lies in a tile that MDELTA holds (R208): no other stream reaches it. -/
def Core.inBusy (k : Core) (n : Near) (a : Nat) : Bool :=
  n == .urs && decide (512 ≤ a / 256) && (match k.tiles.toList[(a / 256 - 512) / 32]? with | some t => t.busy | none => false)

/-- What a core has written between two states of it, the bytes of tiles that MDELTA holds left out. -/
def lateBytes (k k' : Core) : List LateByte :=
  [Near.spad, .urs, .sof, .latch].flatMap fun n =>
    ((changes (k.near n) (k'.near n)).filter fun x => !(k.inBusy n x.1 || k'.inBusy n x.1)).map fun x =>
      { near := n, addr := x.1, byte := x.2 }

/-- Take a byte back to what a core held before. -/
def Core.takeBack (old : Core) (k : Core) (b : LateByte) : Core :=
  k.setNear b.near (putByte (k.near b.near) b.addr (getByte (old.near b.near) b.addr))
    (if (old.nearBad b.near).contains b.addr then insertAsc (k.nearBad b.near) b.addr else k.nearBad b.near)

/-- An engine has gone on from one state of its core to another, and released nothing: its command runs or is done, no semaphore
has changed. -/
def nothingReleased (k k' : Core) (e : Eng) : Bool :=
  k'.stop.isNone && k'.handled.isNone && k.sems == k'.sems && k.waits == k'.waits &&
    (match (k'.eng e).phase with | .running _ => true | .done _ _ _ _ => true | _ => false)

end Sys2Proof.Machine
end

