-- ==== Sys2Proof/Machine/Route.lean ====
section
/-! DEFINITION. Routes and flows (spec/22_fabric.md R398): the port that a remote request is sent on. -/

namespace Sys2Proof.Machine

open Sys2Proof

/-- An entry of the route table (R398). -/
def Fabric.route (f : Fabric) (n : Nat) : BitVec 32 :=
  match f.routes.find? fun p => p.1 == n with
  | some p => p.2
  | none => 0

/-- The ports towards a node that are up (R398). -/
def Fabric.path (f : Fabric) (node : Nat) : List (Fin 32) :=
  (List.finRange 32).filter fun i => (f.route node).getLsbD i.val && f.ports[i].up

/-- Two requests belong to one flow (R398). -/
def sameFlow (x y : RemoteWait) : Bool := x.core == y.core && x.stream == y.stream && x.node == y.node

/-- The port that a flow's hash gives it, remembered; none without a path (R398). -/
def Fabric.pick (f : Fabric) (w : RemoteWait) (rest : List (Nat × Nat × Nat × Fin 32)) :
    Option (Fin 32) × List (Nat × Nat × Nat × Fin 32) :=
  let ps := f.path w.node
  match ps[Config.flowHash w.core.val (streamIndex w.stream) w.node % ps.length]? with
  | some p => (some p, rest ++ [(w.core.val, streamIndex w.stream, w.node, p)])
  | none => (none, rest)

/-- The port of a request's flow (R398): the one it has while that is up; when it is down, a new one once every request on it
has its answer. -/
def Fabric.flowPort (f : Fabric) (w : RemoteWait) : Option (Fin 32) × List (Nat × Nat × Nat × Fin 32) :=
  let mine (x : Nat × Nat × Nat × Fin 32) : Bool := x.1 == w.core.val && x.2.1 == streamIndex w.stream && x.2.2.1 == w.node
  match f.flows.find? mine with
  | some x =>
    if f.ports[x.2.2.2].up then (some x.2.2.2, f.flows)
    else if f.waiting.any fun y => sameFlow y w && y.port == some x.2.2.2 then (none, f.flows)
    else f.pick w (f.flows.filter fun y => !mine y)
  | none => f.pick w f.flows

/-- A request goes out, when nothing of its flow before it is held; one to the own node loops back (R398, R401). -/
def Fabric.trySend (f : Fabric) (w : RemoteWait) : Fabric :=
  if w.port.isSome || w.node == f.node.val || f.waiting.any fun y => sameFlow y w && y.port.isNone && decide (y.id < w.id) then f
  else
    let r := f.flowPort w
    match r.1 with
    | none => f
    | some p =>
      let sent (y : RemoteWait) : RemoteWait := if y.id = w.id then { y with port := some p } else y
      { f with flows := r.2, waiting := f.waiting.map sent }

/-- Send what is held and may go (R398). -/
def Fabric.sendHeld (f : Fabric) : Fabric := f.waiting.foldl Fabric.trySend f

/-- The port of a message that is forwarded, remembered for its flow (R398); none without a path. -/
def Fabric.hopPort (f : Fabric) (t : Transit) : Option (Fin 32 × List (Nat × Nat × Nat × Nat × Fin 32)) :=
  let mine (x : Nat × Nat × Nat × Nat × Fin 32) : Bool := (x.1, x.2.1, x.2.2.1, x.2.2.2.1) == (t.src, t.core, t.stream, t.dst)
  match f.hops.find? fun x => mine x && f.ports[x.2.2.2.2].up with
  | some x => some (x.2.2.2.2, f.hops)
  | none =>
    let ps := f.path t.dst
    (ps[Config.flowHash (512 * t.src + t.core) t.stream t.dst % ps.length]?).map fun p =>
      (p, f.hops.filter (fun x => !mine x) ++ [(t.src, t.core, t.stream, t.dst, p)])

/-- Messages are forwarded in order (R398); those without a path wait (R411). -/
def State.forward (s : State) : List Transit → State
  | [] => s
  | t :: r =>
    match s.fabric.hopPort t with
    | some x => (({ s with fabric := { s.fabric with hops := x.2 } } : State).reply (.hop x.1 t.src t.dst t.bytes)).forward r
    | none => ({ s with fabric := { s.fabric with transit := s.fabric.transit ++ [t] } } : State).forward r

/-- A message between two other nodes comes by (R398). -/
def State.passOn (s : State) (t : Transit) : State :=
  if s.fabric.valid && t.dst != s.fabric.node.val then s.forward [t] else s

/-- Routes or ports have changed: what waits for a path goes out (R398, R411). -/
def State.resend (s : State) : State :=
  { s with fabric := { s.fabric.sendHeld with transit := [] } }.forward s.fabric.transit

/-- The package becomes the time source, as the node with the lowest number whose SYNC is 1 or because none has it, or ceases to be
(R408, notes/assumptions/96.md): TICK makes no step. -/
def State.timeSource (s : State) (on : Bool) : State :=
  if !s.fabric.valid then s
  else if on then { s with fabric := { s.fabric with source := true, sync := true, slew := 0, slewRem := 0 } }
  else { s with fabric := { s.fabric with source := false, lastTime := s.tick } }

/-- A new request (R401); its number comes from the package. -/
def Fabric.request (f : Fabric) (w : RemoteWait) : Fabric :=
  Fabric.sendHeld { f with nextId := f.nextId + 1, waiting := f.waiting ++ [w] }

end Sys2Proof.Machine
end

