-- ==== Sys2Proof/Machine/Perform.lean ====
section
/-! DEFINITION. The accesses of a sequencer that have completed and are not yet performed: the order of
spec/09_core_order.md R238, store forwarding (R127, R237), the performance of stores and atomics, the return of data
(spec/05_sequencers.md R108-R110, R128-R130), requests to remote nodes (spec/22_fabric.md R401-R404). -/

namespace Sys2Proof.Machine

open Sys2Proof

/-- The access is a load, or has a read part (R236). -/
def Access.loads (x : Access) : Bool :=
  match x.op with
  | .store _ => false
  | _ => true

/-- The access is a store, or has a write part (R236). -/
def Access.stores (x : Access) : Bool :=
  match x.op with
  | .load _ _ | .loadA => false
  | _ => true

/-- The access is an AMO or a CAS. -/
def Access.atomic (x : Access) : Bool := x.loads && x.stores

/-- Two parts share a byte. -/
def Piece.meets (p r : Piece) : Bool :=
  p.space == r.space && decide (p.addr < r.addr + r.len) && decide (r.addr < p.addr + p.len)

/-- Two accesses share a byte. -/
def Access.meets (x y : Access) : Bool := x.pieces.any fun p => y.pieces.any fun r => p.meets r

/-- A part lies in another node's memory. -/
def Piece.isRemote (p : Piece) : Bool :=
  match p.space with
  | .remote _ _ _ => true
  | _ => false

/-- An access has a remote part. -/
def Access.isRemote (x : Access) : Bool := x.pieces.any Piece.isRemote

/-- x, earlier in program order, is ordered before y (R238). A remote load of bytes that an earlier store still writes waits
for it. -/
def orderedBefore (x y : Access) : Bool :=
  x.acq || y.rel || (x.loads && y.stores)
    || (x.loads && y.loads && (x.cls == y.cls || x.meets y))
    || (x.stores && y.stores && (x.cls == y.cls || x.meets y))
    || (x.stores && y.loads && x.meets y && y.isRemote)

/-- Nothing earlier in the list holds access id back (R238). -/
def mayPerform : List Access → Nat → Bool
  | [], _ => false
  | x :: r, id =>
    if x.id = id then true
    else match r.find? fun y => y.id == id with
      | some y => !orderedBefore x y && mayPerform r id
      | none => false

/-- The accesses before id. -/
def earlierThan (l : List Access) (id : Nat) : List Access := l.takeWhile fun x => x.id != id

/-- What came back, or was performed, for part i of an access. -/
def Access.answer (x : Access) (i : Nat) : Option RemoteAns := (x.answers.find? fun a => a.1 == i).map (·.2)

/-- The byte that an earlier store of the sequencer gives at a place (R127), the latest first: a part that has been performed gives none,
for others may have overwritten it since (R239). -/
def forwarded (l : List Access) (sp : Space) (a : Nat) : Option Byte :=
  l.reverse.findSome? fun x =>
    match x.op with
    | .store bs => storeByte x x.pieces.zipIdx bs sp a
    | _ => none
where
  /-- The byte a store writes at a place. -/
  storeByte (x : Access) : List (Piece × Nat) → List Byte → Space → Nat → Option Byte
    | [], _, _, _ => none
    | p :: r, bs, sp, a =>
      if p.1.space = sp ∧ p.1.addr ≤ a ∧ a < p.1.addr + p.1.len ∧ x.answer p.2 = none then bs[a - p.1.addr]?
      else storeByte x r (bs.drop p.1.len) sp a

/-- The mark of byte i of a part whose data is bad (R110). -/
def Piece.mark (p : Piece) (i : Nat) : Mark :=
  { cause := 0x0B, qual := (if p.space = .spad then 1 else 0), addr := p.va + BitVec.ofNat 80 i }

/-- The bytes of one part of a load of sequencer and class who, with the lowest bad address (R110): bytes of earlier stores, else of the
place. -/
def State.pieceBytes (s : State) (who : CoreId × SeqId × Cls) (early : List Access) (p : Piece) : List Byte × Option (Mark) :=
  let c := who.1
  let k := s.coreAt c
  let base := match p.space with
    | .spad => getBytes k.spad p.addr p.len
    | .phys => s.loadBytes (some who) (s.tenOf 10 (s.ctxOf c) p.va.toNat) p.addr p.len
    | .remote _ _ _ => List.replicate p.len 0
  let bytes := base.zipIdx.map fun b => match forwarded early p.space (p.addr + b.2) with | some v => v | none => b.1
  let bad := (List.range p.len).find? fun i =>
    (forwarded early p.space (p.addr + i)).isNone &&
      (match p.space with
       | .spad => k.spadBad.contains (p.addr + i)
       | .phys => s.memBad.contains (p.addr + i) || s.isRetired (p.addr + i)
       | .remote _ _ _ => false)
  (bytes, bad.map p.mark)

/-- The memory parts of an access: its bytes are about to be written for the tenants of the core's unit (R290). -/
def State.noteWritten (s : State) (c : CoreId) (ps : List Piece) : State :=
  ps.foldl (fun t p => if p.space = .phys then t.noteTenants (t.tenOf 10 (t.ctxOf c) p.va.toNat) p.addr p.len else t) s

/-- A load of sequencer and class who has taken its bytes (R240, R290). -/
def State.spendChoice (s : State) (who : CoreId × SeqId × Cls) (ps : List Piece) : State :=
  if s.far = [] && !(ps.any fun p => p.space == .phys && s.partitioned p.addr) then s
  else ps.foldl (fun t p =>
    if p.space = .phys then t.loaded (some who) (t.tenOf 10 (t.ctxOf who.1) p.va.toNat) p.addr p.len else t) s

/-- An atomic has been performed at its word (R238, R240): an acquire that reaches the fabric's observers shows what other nodes have
written to every load, another one to the later loads of its class. -/
def State.atomicSeen (s : State) (who : CoreId × SeqId × Cls) (x : Access) : State :=
  if s.far = [] then s
  else if x.acq && x.wide then s.acquireFar
  else { s with far := s.far.map fun e => { e with known := who :: e.known } }

/-- What an answer from a remote target means for a load (R403): its bytes, or the mark of the destination. -/
def answerBytes (p : Piece) (a : Option RemoteAns) : List Byte × Option Mark :=
  let zero := List.replicate p.len (0 : Byte)
  match a with
  | some (.data bs none) => (bs, none)
  | some (.data bs (some i)) => (bs, some { cause := 0x0B, qual := 0, addr := p.va + BitVec.ofNat 80 i })
  | some .refused => (zero, some { cause := 0x05, qual := 0, addr := p.va })
  | some .barrier => (zero, some { cause := 0x06, qual := 0, addr := p.va })
  | _ => (zero, some { cause := 0x0B, qual := 0, addr := p.va })

/-- The bytes of part i of a load: a remote answer, what the part gave when it was performed ahead of the others (R125), or the
place as it stands. -/
def State.loadPart (s : State) (who : CoreId × SeqId × Cls) (early : List Access) (x : Access) (p : Piece × Nat) : List Byte × Option Mark :=
  if p.1.isRemote then answerBytes p.1 (x.answer p.2)
  else match x.answer p.2 with
    | some (.data bs m) => (bs, m.map p.1.mark)
    | _ => s.pieceBytes who early p.1

/-- The bytes of a whole load, and the mark of its lowest bad byte. -/
def State.accessBytes (s : State) (who : CoreId × SeqId × Cls) (early : List Access) (x : Access) : List Byte × Option Mark :=
  let parts := x.pieces.zipIdx.map (s.loadPart who early x)
  ((parts.map (·.1)).flatten, parts.findSome? (·.2))

/-- The new value of an AMO (R128). -/
def amoValue (op : Fin 8) (old v : W64) : W64 :=
  match op with
  | 0 => v
  | 1 => old + v
  | 2 => old &&& v
  | 3 => old ||| v
  | 4 => old ^^^ v
  | 5 => if old.slt v then v else old
  | 6 => if old.slt v then old else v
  | 7 => if old.ult v then v else old

/-- The write that an atomic makes on an old value, none for a CAS that fails (R128, R129, R297). -/
def atomicWrite (op : AccessOp) (old : W64) : Option W64 :=
  match op with
  | .amo o v => some (amoValue o old v)
  | .cas e n => if old = e then some n else none
  | _ => none

/-- An access of a sequencer: core, sequencer, number. -/
abbrev AccessKey := CoreId × SeqId × Nat

/-- How a write reaches memory: the accesses that are being performed, the state, the bytes by physical address. -/
abbrev Writer := List AccessKey → State → List (Nat × List Byte) → State

/-- Perform an atomic at its home slice (R297): the old value. An uncorrectable word is left as it is. -/
def State.performAtomicBy (wr : Writer) (busy : List AccessKey) (s : State) (op : AccessOp) (pa : Nat) : State × W64 :=
  let old := BitVec.ofNat 64 (leNat (s.physRead pa 8))
  if (s.firstUnc pa 8).isSome then (s, old)
  else match atomicWrite op old with
    | some v => (wr busy s [(pa, leBytes 8 v.toNat)], old)
    | none => (s, old)

/-- The value that a load writes (R126). -/
def loadValue (op : AccessOp) (bs : List Byte) : W64 :=
  match op with
  | .load n true => BitVec.ofInt 64 (sextInt (8 * n) (leNat bs))
  | _ => BitVec.ofNat 64 (leNat bs)

/-- Put a returned value where it goes (R110, R126). -/
def Core.deliver (k : Core) (q : SeqId) (x : Access) (v : W64) (wide : A80) (m : Option Mark) : Core :=
  match x.dest with
  | .g r => k.modSeq q fun y => y.setG r v m
  | .a r => k.modSeq q fun y => y.setA r wide m
  | .push r =>
    let second := r == 31
    k.setOutbound q second ((k.outbound q second).map fun e => if e = .reserved x.id then .ready v m else e)
  | .discard => k

/-- A load that was outstanding when the phase checkpoint was taken reaches its destination there too (R381). -/
def Core.deliverToCheck (k : Core) (q : SeqId) (x : Access) (v : W64) (wide : A80) (m : Option Mark) : Core :=
  match k.check with
  | none => k
  | some p =>
    let c : Core := { k with a := p.a, x := p.x, ax0 := p.ax.getD 0 [], ax1 := p.ax.getD 1 [], xa0 := p.ax.getD 2 [],
                             xa1 := p.ax.getD 3 [] }
    if (c.seq q).out.any fun y => y.id == x.id then
      let r := (c.deliver q x v wide m).modSeq q fun y => { y with out := y.out.filter fun z => z.id != x.id }
      { k with check := some { p with a := r.a, x := r.x, ax := [r.ax0, r.ax1, r.xa0, r.xa1] } }
    else k

/-- The data of an access arrives: at its destination, and in the checkpoint where it was outstanding there. -/
def Core.land (k : Core) (q : SeqId) (x : Access) (v : W64) (wide : A80) (m : Option Mark) : Core :=
  (k.deliver q x v wide m).deliverToCheck q x v wide m

/-- Change an access of the list. -/
def Core.modAccess (k : Core) (q : SeqId) (id : Nat) (f : Access → Access) : Core :=
  k.modSeq q fun y => { y with out := y.out.map fun z => if z.id = id then f z else z }

/-- Take an access out of the list. -/
def Core.retire (k : Core) (q : SeqId) (id : Nat) : Core :=
  k.modSeq q fun y => { y with out := y.out.filter fun x => x.id != id }

/-- Every remote part of an access has its answer. -/
def Access.answered (x : Access) : Bool :=
  x.pieces.zipIdx.all fun p => !p.1.isRemote || x.answers.any fun a => a.1 == p.2

/-- The data of a load, LDA, AMO or CAS returns (R108, R110): it is performed and its destination written. -/
def State.returnLoadBy (wr : Writer) (busy : List AccessKey) (s : State) (c : CoreId) (q : SeqId) (x : Access) : State :=
  let early := earlierThan ((s.coreAt c).seq q).out x.id
  if x.atomic && !x.isRemote then
    let pa := (x.pieces.map (·.addr)).headD 0
    let bad := (s.firstUnc pa 8).map fun b =>
      ({ cause := 0x0B, qual := 0, addr := (x.pieces.map (·.va)).headD 0 + BitVec.ofNat 80 (b - pa) } : Mark)
    let r := (s.noteWritten c x.pieces).performAtomicBy wr ((c, q, x.id) :: busy) x.op pa
    ((r.1.atomicSeen (c, q, x.cls) x).modCore c fun k => (k.land q x r.2 0 bad).retire q x.id).progress c
  else
    let (bs, m) := s.accessBytes (c, q, x.cls) early x
    let t := (s.spendChoice (c, q, x.cls) x.pieces).modCore c fun k =>
      (k.land q x (loadValue x.op bs) (BitVec.ofNat 80 (leNat (bs.take 10))) m).retire q x.id
    if x.atomic then t.progress c else t

/-- The write of one local part of a store. -/
def State.storePiece (s : State) (c : CoreId) (p : Piece) (bs : List Byte) : State :=
  match p.space with
  | .spad => s.modCore c fun k =>
      { k with spad := putBytes k.spad p.addr bs, spadBad := clearBad k.spadBad p.addr bs.length }
  | _ => s

/-- Bytes a store carries. -/
def Access.payload (x : Access) : List Byte :=
  match x.op with
  | .store bs => bs
  | _ => []

/-- The bytes of each part of a store that has not been performed. -/
def Access.partsLeft (x : Access) : List (Piece × Nat) → List Byte → List (Piece × List Byte)
  | [], _ => []
  | p :: r, bs =>
    (if p.1.isRemote || (x.answer p.2).isSome then [] else [(p.1, bs.take p.1.len)]) ++ x.partsLeft r (bs.drop p.1.len)

/-- The physical writes among parts of a store. -/
def physParts (l : List (Piece × List Byte)) : List (Nat × List Byte) :=
  (l.filter fun p => p.1.space == .phys).map fun p => (p.1.addr, p.2)

/-- The scratchpad writes among parts of a store. -/
def State.spadParts (s : State) (c : CoreId) (l : List (Piece × List Byte)) : State :=
  l.foldl (fun t p => t.storePiece c p.1 p.2) s

/-- Write parts of a store. -/
def State.writeParts (wr : Writer) (busy : List AccessKey) (s : State) (c : CoreId) (l : List (Piece × List Byte)) : State :=
  let w := physParts l
  (if w = [] then s else wr busy (s.noteWritten c (l.map (·.1))) w).spadParts c l

/-- The request for one remote part of an access (R401). -/
def remoteOpOf (x : Access) (p : Piece) (bs : List Byte) : RemoteOp :=
  match x.op with
  | .load _ _ => .load p.len
  | .loadA => .load p.len
  | .store _ => .store bs
  | .amo o v => .amo o v
  | .cas e n => .cas e n

/-- The time from issue after which a request has failed (R403-R405). -/
def remoteTicks : Nat := 10000000

/-- Send the remote parts of an access (R401); to a lost node, and 10 ms after its issue, they fail at once (R403, R411). -/
def State.sendParts (s : State) (c : CoreId) (q : SeqId) (x : Access) : List (Piece × Nat) → List Byte → State
  | [], _ => s
  | (p, i) :: r, bs =>
    let t := match p.space with
      | .remote node part exp =>
        if s.fabric.lost.contains node || decide (x.since.toNat + remoteTicks ≤ s.tick.toNat) then
          s.modCore c fun k => k.modAccess q x.id fun z => { z with answers := z.answers ++ [(i, RemoteAns.lost)] }
        else
          let w : RemoteWait :=
            { id := s.fabric.nextId, core := c, stream := .seq q, access := x.id, piece := i, node := node,
              req := remoteOpOf x p (bs.take p.len), part := part, exp := exp, offset := p.addr,
              port := none, since := x.since }
          { s with fabric := s.fabric.request w }
      | _ => s
    t.sendParts c q x r (bs.drop p.len)

/-- A deferred cause from the answers to a remote store (R404). -/
def deferredOf (x : Access) : Option Deferred :=
  (x.pieces.zipIdx.filter fun p => p.1.isRemote).findSome? fun p =>
    match x.answer p.2 with
    | some .refused => some { id := x.id, cause := 0x05, cls := x.cls, addr := p.1.va }
    | some .barrier => some { id := x.id, cause := 0x06, cls := x.cls, addr := p.1.va }
    | some RemoteAns.lost => some { id := x.id, cause := 0x0B, cls := x.cls, addr := p.1.va }
    | some (.data _ (some i)) => some { id := x.id, cause := 0x0B, cls := x.cls, addr := p.1.va + BitVec.ofNat 80 i }
    | _ => none

/-- Put a deferred cause among those of a sequencer, in program order (R404). -/
def insertDeferred (d : Deferred) : List Deferred → List Deferred
  | [] => [d]
  | x :: r => if d.id < x.id then d :: x :: r else x :: insertDeferred d r

/-- A store leaves the store path: its local parts are performed; its remote parts must have their answers (R404). -/
def State.performStoreBy (wr : Writer) (busy : List AccessKey) (s : State) (c : CoreId) (q : SeqId) (x : Access) : State :=
  let t := s.writeParts wr ((c, q, x.id) :: busy) c (x.partsLeft x.pieces.zipIdx x.payload)
  (t.modCore c fun k => (k.retire q x.id).modSeq q fun y =>
    { y with deferred := (deferredOf x).elim y.deferred fun d => insertDeferred d y.deferred }).progress c

/-- An outstanding access of a sequencer by number. -/
def State.access (s : State) (c : CoreId) (q : SeqId) (id : Nat) : Option Access :=
  ((s.coreAt c).seq q).out.find? fun x => x.id == id

/-- Perform access id of a sequencer, when nothing holds it back (R238) and its remote parts have been answered. -/
def State.performOneBy (wr : Writer) (busy : List AccessKey) (s : State) (c : CoreId) (q : SeqId) (id : Nat) : State :=
  match s.access c q id with
  | some x =>
    if !(mayPerform ((s.coreAt c).seq q).out id && x.answered) || busy.contains (c, q, id) then s
    else if x.loads then s.returnLoadBy wr busy c q x else s.performStoreBy wr busy c q x
  | none => s

/-- Perform the accesses of a sequencer up to and including access id, in program order. -/
def State.flushToBy (wr : Writer) (busy : List AccessKey) (s : State) (k : AccessKey) : State :=
  let l := ((s.coreAt k.1).seq k.2.1).out.map (·.id)
  (l.takeWhile (· != k.2.2) ++ [k.2.2]).foldl (fun t i => t.performOneBy wr busy k.1 k.2.1 i) s

/-- The accesses in flight that satisfy p, in the order of the cores. -/
def State.inFlight (s : State) (p : CoreId → Access → Bool) : List AccessKey :=
  allCores.flatMap fun c => [SeqId.a, SeqId.x].flatMap fun q =>
    (((s.coreAt c).seq q).out.filter (p c)).map fun x => (c, q, x.id)

/-- The physical ranges that a write covers. -/
def rangesOf (ws : List (Nat × List Byte)) : List (Nat × Nat) := ws.map fun w => (w.1, w.2.length)

/-- A table entry that the translation of an access was formed from has a byte in these ranges (R296). -/
def State.usesEntry (s : State) (rs : List (Nat × Nat)) (c : CoreId) (x : Access) : Bool :=
  x.pieces.any fun p => p.space == .phys && (s.entriesOf 10 (s.ctxOf c) p.va.toNat).any fun e =>
    rs.any fun r => decide (e < r.1 + r.2) && decide (r.1 < e + 16)

/-- The accesses in flight that were translated through a table entry in these ranges (R296). -/
def State.through (s : State) (rs : List (Nat × Nat)) : List AccessKey := s.inFlight (s.usesEntry rs)

/-- A table entry in these ranges is one that a memory part of a copy's octet write is translated through (R296). -/
def State.octetThrough (s : State) (rs : List (Nat × Nat)) (c : CoreId) (o : OctetWrite) : Bool :=
  (o.dst :: o.srcs).any fun p => p.place == .phys && (s.entriesOf 10 (s.ctxOf c) p.va.toNat).any fun e =>
    rs.any fun r => decide (e < r.1 + r.2) && decide (r.1 < e + 16)

/-- The octet writes of copies that satisfy p are performed. -/
def State.flushOctets (wr : Writer) (busy : List AccessKey) (s : State) (p : CoreId → OctetWrite → Bool) : State :=
  (s.copiesWith p).foldl (fun t k => t.flushTodo (wr busy) k.1 k.2 (p k.1)) s

/-- The accesses in flight and the octet writes of copies that were translated through a table entry in these ranges are performed
(R296), but for those that are being performed. -/
def State.settleBy (wr : Writer) (busy : List AccessKey) (s : State) (rs : List (Nat × Nat)) : State :=
  ((s.through rs).foldl (fun t k => if busy.contains k then t else t.flushToBy wr busy k) s).flushOctets wr busy (s.octetThrough rs)

/-- A write of memory (R296): the accesses translated through a table entry that it touches are performed first
(notes/assumptions/42.md); fuel bounds the writes of those accesses that touch entries in turn. -/
def State.writeBy : Nat → Writer
  | 0, _, s, ws => s.physPut ws
  | n + 1, busy, s, ws => (s.settleBy (State.writeBy n) busy (rangesOf ws)).physPut ws

/-- The writer of the machine. -/
def theWriter : Writer := State.writeBy 8

/-- One access that writes bytes at physical addresses. -/
def State.physWrite (s : State) (ws : List (Nat × List Byte)) : State := theWriter [] s ws

/-- What must be performed before a write of these ranges (R296) is performed. -/
def State.settleEntries (s : State) (rs : List (Nat × Nat)) : State := s.settleBy theWriter [] rs

/-- Perform an atomic at its home slice: the old value. -/
def State.performAtomic (s : State) (op : AccessOp) (pa : Nat) : State × W64 := s.performAtomicBy theWriter [] op pa

/-- The data of a load, LDA, AMO or CAS returns. -/
def State.returnLoad (s : State) (c : CoreId) (q : SeqId) (x : Access) : State := s.returnLoadBy theWriter [] c q x

/-- A store leaves the store path. -/
def State.performStore (s : State) (c : CoreId) (q : SeqId) (x : Access) : State := s.performStoreBy theWriter [] c q x

/-- Perform the accesses of a sequencer up to and including access id. -/
def State.flushTo (s : State) (k : AccessKey) : State := s.flushToBy theWriter [] k

/-- The accesses of a list that must wait for a remote node: unanswered ones, and those ordered behind them (R238). -/
def stuckIn (l : List Access) : List Access :=
  l.foldl (fun st y => if !y.answered || st.any fun x => orderedBefore x y then st ++ [y] else st) []

/-- An access waits for a remote node. -/
def State.stuck (s : State) (k : AccessKey) : Bool :=
  (stuckIn ((s.coreAt k.1).seq k.2.1).out).any fun x => x.id == k.2.2

/-- A write must wait: an access translated through a table entry that it touches waits for a remote node (R296). -/
def State.writeWaits (s : State) (ws : List (Nat × List Byte)) : Bool := (s.through (rangesOf ws)).any s.stuck

/-- A table entry, as m holds it, differs for an access that waits for a remote node (R296). -/
def State.waitsRemote (s : State) (m : Cells) : Bool :=
  (s.inFlight fun _ _ => true).any fun k => s.stuck k && (match s.access k.1 k.2.1 k.2.2 with
    | some x => x.pieces.any fun p => p.space == .phys && (s.entriesOf 10 (s.ctxOf k.1) p.va.toNat).any fun e =>
        getBytes s.mem e 16 != getBytes m e 16
    | none => false)

/-- The bytes of memory that an access may write when it is performed. -/
def Access.wouldWrite (x : Access) : List (Nat × List Byte) :=
  if x.atomic then (x.pieces.filter fun p => p.space == .phys).map fun p => (p.addr, leBytes 8 0)
  else if x.stores then physParts (x.partsLeft x.pieces.zipIdx x.payload)
  else []

/-- The data of access id returns, when nothing holds it back (R238, R296). -/
def State.loadReturn (s : State) (c : CoreId) (q : SeqId) (id : Nat) : State :=
  match s.access c q id with
  | some x =>
    if x.loads && mayPerform ((s.coreAt c).seq q).out id && x.answered && !s.writeWaits x.wouldWrite then s.returnLoad c q x
    else s
  | none => s

/-- An access of the store path goes on, when nothing holds it back (R238, R296): a remote one is sent, a store whose remote
parts have been answered is performed. -/
def State.drainStore (s : State) (c : CoreId) (q : SeqId) (id : Nat) : State :=
  match s.access c q id with
  | some x =>
    if !mayPerform ((s.coreAt c).seq q).out id then s
    else if x.isRemote && !x.sent then
      (s.modCore c fun k => k.modAccess q id fun z => { z with sent := true }).sendParts c q x x.pieces.zipIdx x.payload
    else if x.stores && !x.atomic && x.answered && !s.writeWaits x.wouldWrite then s.performStore c q x
    else s
  | none => s

/-- Note that part i of an access has been performed, with the data of a load. -/
def State.notePart (s : State) (c : CoreId) (q : SeqId) (x : Access) (i : Nat) (bs : List Byte) (bad : Option Nat) : State :=
  s.modCore c fun k => k.modAccess q x.id fun z => { z with answers := z.answers ++ [(i, RemoteAns.data bs bad)] }

/-- Part i of an access that is performed as several accesses (R125) is performed ahead of the others, when nothing holds the
access back. -/
def State.performPart (s : State) (c : CoreId) (q : SeqId) (id i : Nat) : State :=
  match s.access c q id with
  | none => s
  | some x =>
    match x.pieces[i]? with
    | none => s
    | some p =>
      if !mayPerform ((s.coreAt c).seq q).out id || x.atomic || p.isRemote || (x.answer i).isSome
          || s.writeWaits x.wouldWrite then s
      else if x.loads then
        let r := s.pieceBytes (c, q, x.cls) (earlierThan ((s.coreAt c).seq q).out id) p
        (s.spendChoice (c, q, x.cls) [p]).notePart c q x i r.1 (r.2.map fun m => (m.addr - p.va).toNat)
      else
        let bs := (x.payload.drop ((x.pieces.take i).map (·.len)).sum).take p.len
        (s.writeParts theWriter [(c, q, id)] c [(p, bs)]).notePart c q x i [] none

/-- Perform the accesses of a sequencer in program order (R109); those with unanswered remote parts stay. -/
def State.flushSeq (s : State) (c : CoreId) (q : SeqId) : State :=
  (((s.coreAt c).seq q).out.map (·.id)).foldl (fun t i => t.performOneBy theWriter [] c q i) s

/-- Some access of a core waits for a remote node. -/
def Core.remotePending (k : Core) : Bool := (k.a.out ++ k.x.out).any fun x => !x.answered

/-- The stores and atomics in flight with a byte in the word at an address (R299). -/
def State.onWord (s : State) (pa : Nat) : List AccessKey :=
  s.inFlight fun _ x => x.stores && x.pieces.any fun p => p.space == .phys && decide (p.addr < pa + 8) && decide (pa < p.addr + p.len)

/-- The accesses and copy writes that were checked on a word before a BARINIT makes it live take their place before it (R299): each is
performed now, behind what its stream orders before it. -/
def State.settleWord (s : State) (pa : Nat) : State :=
  ((s.onWord pa).foldl State.flushTo s).flushOctets theWriter [] fun _ o =>
    o.dst.place == .phys && decide (o.dst.addr < pa + 8) && decide (pa < o.dst.addr + o.dst.len)

/-- The octet writes that satisfy p of a copy stream are performed. -/
def State.performTodo (s : State) (c : CoreId) (e : Eng) (p : OctetWrite → Bool) : State := s.flushTodo (theWriter []) c e p

end Sys2Proof.Machine
end

