-- ==== Sys2Proof/Machine/DevMem.lean ====
section
/-! DEFINITION. Memory as the device reads and writes it for an instruction, an engine entry, or by itself: descriptors,
records, save areas and slots, through a context's composed translation (spec/05_sequencers.md R123, R124;
spec/15_die_memory.md R291-R294, R299; spec/20_package.md R374). -/

namespace Sys2Proof.Machine

open Sys2Proof

/-- A fault with the address it reports. -/
abbrev AFault := TFault × A80

/-- TINFO of an address fault (R75): the scratchpad offset for 0x0B with QUAL 1, else bits [79:16]. -/
def AFault.info (f : AFault) : W64 :=
  if f.1.cause = 0x0B ∧ f.1.qual = 1 then BitVec.ofNat 64 (f.2.toNat % 2 ^ 22) else infoOf f.2

/-- Uncorrectable data in memory. -/
def uncFault : TFault := ⟨0x0B, 0⟩

/-- Protection. -/
def protFault : TFault := ⟨0x05, 0⟩

/-- The lowest address of n bytes that is in a retired channel (R374). -/
def State.firstRetired (s : State) (pa n : Nat) : Option Nat :=
  (((List.range ((pa % 256 + n + 255) / 256)).map fun i => (pa / 256 + i) * 256).find? s.isRetired).map fun x => max x pa

/-- The bytes of one part, or its fault. -/
def State.readPiece (s : State) (c : CoreId) (p : Piece) : Except AFault (List Byte) :=
  match p.space with
  | .spad =>
    match firstBad (s.coreAt c).spadBad p.addr p.len with
    | some b => .error (⟨0x0B, 1⟩, p.va + BitVec.ofNat 80 (b - p.addr))
    | none => .ok (getBytes (s.coreAt c).spad p.addr p.len)
  | .phys =>
    match s.firstUnc p.addr p.len with
    | some b => .error (uncFault, p.va + BitVec.ofNat 80 (b - p.addr))
    | none => .ok (s.physRead p.addr p.len)
  | .remote _ _ _ => .error (protFault, p.va)

/-- The bytes of several parts, or the first fault. -/
def State.readPieces (s : State) (c : CoreId) : List Piece → Except AFault (List Byte)
  | [] => .ok []
  | p :: r =>
    match s.readPiece c p with
    | .error f => .error f
    | .ok b =>
      match s.readPieces c r with
      | .error f => .error f
      | .ok bs => .ok (b ++ bs)

/-- n bytes at an address of a unit's space, read by an instruction of core c (R123, R124). -/
def State.readAt (s : State) (c : CoreId) (ctx : Nat) (va : A80) (n : Nat) : Except AFault (List Byte) :=
  if pastLocal va n then .error (protFault, va)
  else match s.pieces ctx 1 (pagesOf va n) with
    | .error f => .error f
    | .ok ps => s.readPieces c ps

/-- The parts of n bytes that must lie in memory: the windows are refused. -/
def State.memPiecesAs (s : State) (own : Bool) (ctx : Nat) (va : A80) (n : Nat) (need : Perm) : Except AFault (List Piece) :=
  match s.piecesAs own ctx need (pagesOf va n) with
  | .error f => .error f
  | .ok ps =>
    match ps.find? fun p => p.space != .phys with
    | some p => .error (protFault, p.va)
    | none => .ok ps

/-- The parts of n bytes of memory for an access of a unit. -/
def State.memPieces (s : State) (ctx : Nat) (va : A80) (n : Nat) (need : Perm) : Except AFault (List Piece) :=
  s.memPiecesAs false ctx va n need

/-- n bytes of memory at an address of a context, read by the device. -/
def State.devRead (s : State) (ctx : Nat) (va : A80) (n : Nat) : Except AFault (List Byte) :=
  match s.memPieces ctx va n 1 with
  | .error f => .error f
  | .ok ps => s.readPieces 0 ps

/-- Why parts of memory may not be written: a live barrier word (R299) or a retired channel (R374). -/
def State.writeBar (s : State) (ps : List Piece) : Option AFault :=
  ps.findSome? fun p =>
    if s.anyLive p.addr p.len then some (⟨0x06, 0⟩, p.va)
    else (s.firstRetired p.addr p.len).map fun b => (uncFault, p.va + BitVec.ofNat 80 (b - p.addr))

/-- The bytes of each part of a write. -/
def cutBytes : List Piece → List Byte → List (Nat × List Byte)
  | [], _ => []
  | p :: r, bs => (p.addr, bs.take p.len) :: cutBytes r (bs.drop p.len)

/-- Write bytes of memory at an address of a context, or fault and write nothing. -/
def State.devWriteAs (s : State) (own : Bool) (ctx : Nat) (va : A80) (bs : List Byte) : Except AFault State :=
  match s.memPiecesAs own ctx va bs.length 2 with
  | .error f => .error f
  | .ok ps =>
    match s.writeBar ps with
    | some f => .error f
    | none => .ok (s.physWrite (cutBytes ps bs))

/-- Write bytes for an instruction or an entry of a unit. -/
def State.devWrite (s : State) (ctx : Nat) (va : A80) (bs : List Byte) : Except AFault State := s.devWriteAs false ctx va bs

/-! ## Large areas, by cells -/

/-- The cells of n addresses from a, numbered from 0. -/
def takeCells (m : Cells) (a n : Nat) : Cells :=
  (m.filter fun c => decide (a ≤ c.1) && decide (c.1 < a + n)).map fun c => (c.1 - a, c.2)

/-- Put cells numbered from 0 into n addresses from a; every other byte there becomes 0. -/
def putCells (m : Cells) (a n : Nat) (l : Cells) : Cells :=
  (m.filter fun c => decide (c.1 < a)) ++
    ((l.filter fun c => decide (c.1 < n)).map (fun c => (a + c.1, c.2)) ++ m.filter fun c => decide (a + n ≤ c.1))

/-- One part of a range of cells is written, from the given cell on. -/
def putSpan (l : Cells) (u : State × Nat) (p : Piece) : State × Nat :=
  ({ u.1 with mem := putCells u.1.mem p.addr p.len (takeCells l u.2 p.len), memBad := clearBad u.1.memBad p.addr p.len }, u.2 + p.len)

/-- Write the cells of a range of a context's memory, page by page; a page that faults stops it (R263). -/
def State.writeRange (s : State) (ctx : Nat) (va : A80) (n : Nat) (l : Cells) : Except AFault State :=
  match s.memPiecesAs true ctx va n 2 with
  | .error f => .error f
  | .ok ps =>
    match s.writeBar ps with
    | some f => .error f
    | none =>
      let s1 := s.settleEntries (ps.map fun p => (p.addr, p.len))
      .ok ((ps.foldl (putSpan l) (s1, 0)).1.fireAll s1.mem)

/-- Several ranges of an area: offset, length, cells. A fault comes with what was written before it. -/
def State.writeRanges (s : State) (ctx : Nat) (base : A80) : List (Nat × Nat × Cells) → Except (State × AFault) State
  | [] => .ok s
  | (o, n, l) :: r =>
    match s.writeRange ctx (base + BitVec.ofNat 80 o) n l with
    | .error f => .error (s, f)
    | .ok t => t.writeRanges ctx base r

/-- The cells of a range of a context's memory. -/
def State.readRange (s : State) (ctx : Nat) (va : A80) (n : Nat) : Except AFault Cells :=
  match s.memPieces ctx va n 1 with
  | .error f => .error f
  | .ok ps =>
    match ps.findSome? fun p => (s.firstUnc p.addr p.len).map fun b => (uncFault, p.va + BitVec.ofNat 80 (b - p.addr)) with
    | some f => .error f
    | none =>
      .ok (ps.foldl (fun (u : Cells × Nat) p =>
        (u.1 ++ (takeCells s.mem p.addr p.len).map (fun c => (u.2 + c.1, c.2)), u.2 + p.len)) ([], 0)).1

end Sys2Proof.Machine
end

