-- ==== Sys2Proof/Machine/TileFmt.lean ====
section
/-! DEFINITION. Tiles and their slots (spec/03_core_state.md R77, R83; spec/07_matrix.md R198, R199, R202): the ownership
entry's bits, the slot header, main and fallback images, eviction and fill. -/

namespace Sys2Proof.Machine

open Sys2Proof

/-- The URS address of tile n (R77). -/
def tileBase (n : Nat) : Nat := 256 * (512 + 32 * n)

/-- The URS address of element (i, j) of tile n (R77). -/
def elemAddr (n i j : Nat) : Nat := tileBase n + 256 * i + 8 * j

/-- Set the valid bits of rows first to first + n - 1 (R79). -/
def setValid (v : BitVec 1536) (first n : Nat) : BitVec 1536 := v ||| (((1#1536 <<< n) - 1) <<< first)

/-- Valid bits of the rows of n bytes at a URS address. -/
def setValidBytes (v : BitVec 1536) (a n : Nat) : BitVec 1536 :=
  if n = 0 then v else setValid v (a / 256) ((a + n - 1) / 256 - a / 256 + 1)

/-- The lowest invalid row of n bytes at a URS address. -/
def firstInvalid (v : BitVec 1536) (a n : Nat) : Option Nat :=
  if n = 0 then none
  else (List.range ((a + n - 1) / 256 - a / 256 + 1)).findSome? fun i =>
    if v.getLsbD (a / 256 + i) then none else some (a / 256 + i)

/-- Write URS bytes: contents, good again, rows valid (R79). -/
def Core.writeUrs (k : Core) (a : Nat) (bs : List Byte) : Core :=
  { k with urs := putBytes k.urs a bs, ursBad := clearBad k.ursBad a bs.length, valid := setValidBytes k.valid a bs.length }

/-- A word of a byte string. -/
def wordAt (bs : List Byte) (i n : Nat) : Nat := fieldNat bs i n

/-- Change an ownership entry. -/
def Core.modTile (k : Core) (n : Fin 32) (f : Tile → Tile) : Core := { k with tiles := k.tiles.set n (f k.tiles[n]) }

/-- The 16 bytes of an ownership entry (R83). -/
def Tile.pack (t : Tile) : List Byte :=
  let b (x : Bool) (i : Nat) : Nat := if x then 2 ^ i else 0
  leBytes 16 (t.spilla.toNat * 2 ^ 48 + t.owner.toNat * 2 ^ 36 + t.key.toNat * 2 ^ 20 + t.anchor.toNat * 2 ^ 12
    + b t.sat 11 + b t.pois 10 + b t.pinned 9 + b t.present 8 + b t.busy 7 + b t.dirty 6)

/-- An ownership entry from its 16 bytes. -/
def Tile.unpack (bs : List Byte) : Tile :=
  let v := leNat (bs.take 16)
  { spilla := BitVec.ofNat 80 (bitsOf v 48 80), owner := BitVec.ofNat 12 (bitsOf v 36 12), key := BitVec.ofNat 16 (bitsOf v 20 16),
    anchor := BitVec.ofNat 8 (bitsOf v 12 8), sat := v.testBit 11, pois := v.testBit 10, pinned := v.testBit 9,
    present := v.testBit 8, busy := v.testBit 7, dirty := v.testBit 6, filling := false }

/-- The slot address of a pinned tile (R198). -/
def pinSlot (pinbase : A80) (key : BitVec 16) (n : Nat) : A80 :=
  pinbase + BitVec.ofNat 80 ((32 * key.toNat + n) * 0x2080)

/-- n 64-bit words of a byte string. -/
def wordsOf : Nat → List Byte → List W64
  | 0, _ => []
  | n + 1, bs => BitVec.ofNat 64 (leNat (bs.take 8)) :: wordsOf n (bs.drop 8)

/-- The elements of a tile, row by row. -/
def Core.tileWords (k : Core) (n : Nat) : List W64 := wordsOf 1024 (getBytes k.urs (tileBase n) 8192)

/-- The image of a tile: main, or fallback with FP32 elements (R198, R103). -/
def Core.tileImage (k : Core) (n : Fin 32) (fallback : Bool) : List Byte :=
  if fallback then
    ((k.tileWords n.val).map fun w => leBytes 4 (fmtFp32.encode .rne (accNum k.tiles[n].anchor.toNat w))).flatten
  else getBytes k.urs (tileBase n.val) 8192

/-- The 64-byte header and the 64 reserved bytes of a slot, for an image (R198). -/
def slotHeader (t : Tile) (n : Nat) (fallback : Bool) (seq : BitVec 48) (image : List Byte) : List Byte :=
  let h := leBytes 2 (if fallback then 2 else 1) ++ leBytes 1 n ++ leBytes 1 t.anchor.toNat
    ++ leBytes 1 ((if t.sat then 1 else 0) + (if t.pois then 2 else 0) + (if t.pinned then 4 else 0)) ++ leBytes 1 0
    ++ leBytes 2 t.owner.toNat ++ leBytes 2 (if t.pinned then t.key.toNat else 0) ++ leBytes 6 0 ++ leBytes 8 seq.toNat
    ++ leBytes 36 0
  h ++ leBytes 4 (crc32c (h ++ image)).toNat

/-- The whole slot of a tile of core k (R198, R204). -/
def Core.slotBytes (k : Core) (n : Fin 32) (fallback : Bool) (seq : BitVec 48) : List Byte :=
  let image := k.tileImage n fallback
  slotHeader k.tiles[n] n.val fallback seq image ++ leBytes 64 0 ++ image

/-- A slot any byte of which lies in a window is refused (R198); windows begin and end at pages of 64 KiB. -/
def State.slotBar (s : State) (ctx : Nat) (slot : A80) : Option AFault :=
  if (pagesOf slot 8320).any fun p => inLocal p.1 || inCluster p.1 || (s.fabricWindow ctx p.1).isSome then some (protFault, slot)
  else none

/-- Write bytes at the start of a slot (R198). -/
def State.slotWrite (s : State) (own : Bool) (ctx : Nat) (slot : A80) (bs : List Byte) : Except AFault State :=
  match s.slotBar ctx slot with
  | some f => .error f
  | none => s.devWriteAs own ctx slot bs

/-- Read bytes of a slot (R198). -/
def State.slotRead (s : State) (ctx : Nat) (slot : A80) (n : Nat) : Except AFault (List Byte) :=
  match s.slotBar ctx slot with
  | some f => .error f
  | none => s.devRead ctx slot n

/-- Write tile n of core c to its slot, in its owner's space (R198, R201). -/
def State.slotAs (s : State) (own : Bool) (c : CoreId) (n : Fin 32) (fallback : Bool) (seq : BitVec 48) : Except AFault State :=
  let t := (s.coreAt c).tiles[n]
  s.slotWrite own t.owner.toNat t.spilla ((s.coreAt c).slotBytes n fallback seq)

/-- Write tile n for a command of a unit (R204). -/
def State.writeSlot (s : State) (c : CoreId) (n : Fin 32) (fallback : Bool) (seq : BitVec 48) : Except AFault State :=
  s.slotAs false c n fallback seq

/-- Write tile n as the device evicts it (R201). -/
def State.evictSlot (s : State) (c : CoreId) (n : Fin 32) (fallback : Bool) (seq : BitVec 48) : Except AFault State :=
  s.slotAs true c n fallback seq

/-- The fields of a valid slot. -/
structure SlotImage where
  fallback : Bool
  anchor : BitVec 8
  sat : Bool
  pois : Bool
  image : List Byte
  deriving DecidableEq, Repr

/-- The check of a slot header without its CRC (R199, R205): FORMAT, TILE, OWNER, KEY where it is compared, reserved bits. -/
def headerOk (h : List Byte) (n owner : Nat) (key : Option (BitVec 16)) : Bool :=
  let f := fieldNat h
  (f 0 2 == 1 || f 0 2 == 2) && f 2 1 == n && f 4 1 < 8 && f 5 1 == 0 && f 6 2 == owner
    && (match key with | some k => f 8 2 == k.toNat | none => true) && f 0x0A 6 == 0 && f 0x16 2 == 0 && zeroBytes h 0x18 36

/-- Read a slot: its image where the header and CRC hold, none where they do not, or the fault of the read (R199, R202). DESIGN CHOICE
(notes/assumptions/62.md): a fault of the image's bytes, which the CRC covers, is the read's fault as one of the header's is. -/
def State.readSlot (s : State) (ctx : Nat) (slot : A80) (n : Nat) (key : Option (BitVec 16)) :
    Except AFault (Option SlotImage) :=
  match s.slotRead ctx slot 64 with
  | .error f => .error f
  | .ok h =>
    if !headerOk h n ctx key then .ok none
    else
      let fb := fieldNat h 0 2 == 2
      match s.devRead ctx (slot + 128) (if fb then 4096 else 8192) with
      | .error f => .error f
      | .ok img =>
        if (crc32c (h.take 60 ++ img)).toNat = fieldNat h 0x3C 4 then
          .ok (some { fallback := fb, anchor := BitVec.ofNat 8 (fieldNat h 3 1), sat := (fieldNat h 4 1).testBit 0,
                      pois := (fieldNat h 4 1).testBit 1, image := img })
        else .ok none

/-- The FP32 patterns of a fallback image. -/
def fp32sOf : Nat → List Byte → List Nat
  | 0, _ => []
  | n + 1, bs => leNat (bs.take 4) :: fp32sOf n (bs.drop 4)

/-- Restore tile n from a slot image (R202): main bit for bit, fallback under R102; rows valid, clean, present. -/
def Core.fillTile (k : Core) (n : Fin 32) (i : SlotImage) : Core :=
  let r : List Byte × Bool × Bool :=
    if i.fallback then
      let els := (fp32sOf 1024 i.image).map fun b => accOfNum i.anchor.toNat (fmtFp32.decode b)
      ((els.map fun e => leBytes 8 e.1.toNat).flatten, els.any (·.2.1), els.any (·.2.2))
    else (i.image, false, false)
  (k.writeUrs (tileBase n.val) r.1).modTile n fun t =>
    { t with anchor := i.anchor, sat := i.sat || r.2.1, pois := i.pois || r.2.2, dirty := false, present := true,
             filling := false }

/-- Fill tile n of core c from its slot (R202, R205), or the fault: 0x0B where the check fails. -/
def State.fillSlot (s : State) (c : CoreId) (n : Fin 32) : Except AFault State :=
  let t := (s.coreAt c).tiles[n]
  match s.readSlot t.owner.toNat t.spilla n.val (if t.pinned then some t.key else none) with
  | .error f => .error f
  | .ok none => .error (uncFault, t.spilla)
  | .ok (some i) => .ok (s.modCore c fun k => k.fillTile n i)

end Sys2Proof.Machine
end

