-- ==== Sys2Proof/Machine/Event.lean ====
section
/-! DEFINITION. Events: the record and the rings (spec/18_contexts.md R338, R339), notices, the eviction of pinned tiles and
its loss (spec/07_matrix.md R201, spec/14_cluster.md R279). -/

namespace Sys2Proof.Machine

open Sys2Proof

/-- An event before it has its number (R339). -/
structure Event where
  kind : Nat
  cause : Nat
  origin : Nat
  qual : Nat
  tinfo : W64
  tpc : W64
  launch : Nat
  unit : Nat
  tick : W64
  deriving DecidableEq, Repr

/-- The 64 bytes of an event record (R339). -/
def Event.record (e : Event) (seq : W64) : List Byte :=
  leBytes 1 1 ++ leBytes 1 e.kind ++ leBytes 1 0 ++ leBytes 1 e.cause ++ leBytes 2 (e.origin % 4096) ++ leBytes 2 e.qual
    ++ leBytes 8 e.tinfo.toNat ++ leBytes 8 e.tpc.toNat ++ leBytes 8 e.launch ++ leBytes 4 e.unit ++ leBytes 4 0
    ++ leBytes 8 e.tick.toNat ++ leBytes 8 seq.toNat ++ leBytes 8 0

/-- A record with its number, which it takes when it is written (R338). -/
def numbered (r : List Byte) (n : W64) : List Byte := r.take 0x30 ++ leBytes 8 n.toNat ++ r.drop 0x38

/-- The context in which the event of a record arose. -/
def recordOrigin (r : List Byte) : Nat := fieldNat r 4 2 % 4096

/-- The unit whose trap a record holds awaits at that event from now on; nothing where it does not await yet. -/
def State.bindEvent (s : State) (r : List Byte) (n : W64) : State :=
  let at_ (u : UnitRec) : UnitRec :=
    match u.state with
    | .awaiting ring ev f p => if ev = 0 ∧ u.num = fieldNat r 0x20 4 then { u with state := .awaiting ring n f p } else u
    | _ => u
  if fieldNat r 1 1 = 1 then s.modLaunch (fieldNat r 0x18 8) fun l => { l with units := l.units.map at_ } else s

/-- The place of event number n in the ring of context x (R338). -/
def Ctx.eventPlace (c : Ctx) (n : Nat) : A80 := c.evq + BitVec.ofNat 80 (64 * ((n - 1) % 2 ^ c.evlog.val))

/-- Write a record to the ring of context x where its place is free (R338); none where it is held. -/
def State.ringWrite (s : State) (x : Nat) (r : List Byte) : Option State :=
  match s.ctx x with
  | none => none
  | some c =>
    match c.parent with
    | none => none
    | some p =>
      let va := c.eventPlace c.nextEvent.toNat
      match s.devRead p va 64 with
      | .error _ => none
      | .ok old =>
        if old.headD 1 != 0 then none
        else match s.devWrite p va (numbered r c.nextEvent) with
          | .error _ => none
          | .ok t =>
            some (((t.modCtx x fun y => { y with nextEvent := c.nextEvent + 1 }).bindEvent r c.nextEvent).countUp p .job c.evctr)

/-- Write a record to the host event ring where it is set and its place is free (R338). -/
def State.hostWrite (s : State) (r : List Byte) : Option State :=
  match s.host.ring with
  | none => none
  | some (a, n) =>
    let k := s.host.nextEvent
    let pa := a + 64 * ((k.toNat - 1) % n)
    if n = 0 ∨ getByte s.mem pa ≠ 0 then none
    else
      let t := s.physWrite [(pa, numbered r k)]
      some (({ t with host := { t.host with nextEvent := k + 1 } } : State).bindEvent r k)

/-- Write as many held records of a ring as find their places free. -/
def drainHeld (write : State → List Byte → Option State) : State → List (List Byte) → State × List (List Byte)
  | s, [] => (s, [])
  | s, r :: rest =>
    match write s r with
    | some t => drainHeld write t rest
    | none => (s, r :: rest)

/-- A context that is being destroyed (R338). -/
def State.destroyed (s : State) (x : Option Nat) : Bool :=
  match x.bind s.ctx with
  | some c => c.destroying
  | none => false

/-- Retry the held records of context x; those of a context that is being destroyed are dropped (R338). -/
def State.flushRing (s : State) (x : Nat) : State :=
  match s.ctx x with
  | none => s
  | some c =>
    let (t, held) := drainHeld (fun u r => u.ringWrite x r) s (if c.destroying then [] else c.held)
    t.modCtx x fun y => { y with held := held }

/-- Retry the held records of the host ring; those of a partition that is being destroyed are dropped (R338). -/
def State.flushHost (s : State) : State :=
  let (t, held) := drainHeld State.hostWrite s (s.host.held.filter fun r => !s.destroyed (s.partitionOf (recordOrigin r)))
  { t with host := { t.host with held := held } }

/-- Deliver an event to the ring of context x (the host for a partition): its number, 0 while it is held. Earlier held records go
first; a context that is being destroyed drops it (R338). -/
def State.putEvent (s : State) (x : Nat) (e : Event) : State × W64 :=
  if s.destroyed (some x) then (s, 0)
  else match (s.ctx x).bind (·.parent) with
  | some _ =>
    let t := (s.modCtx x fun y => { y with held := y.held ++ [e.record 0] }).flushRing x
    (t, match t.ctx x with
      | some y => if y.held = [] then y.nextEvent - 1 else 0
      | none => 0)
  | none =>
    let t := State.flushHost { s with host := { s.host with held := s.host.held ++ [e.record 0] } }
    (t, if t.host.held = [] then t.host.nextEvent - 1 else 0)

/-- A notice of KIND 4 to the ring of context x (R339). -/
def State.notice (s : State) (x code : Nat) (tinfo : W64) (launch : Nat) : State :=
  (s.putEvent x { kind := 4, cause := 0, origin := x, qual := code, tinfo := tinfo, tpc := 0, launch := launch, unit := 0,
                  tick := s.tick }).1

/-- The ring that takes a cause raised in context x: a context whose parent catches it, or none for the host (R338). -/
def State.catcher (s : State) (code : Nat) : Nat → Nat → Option Nat
  | 0, _ => none
  | fuel + 1, x =>
    match s.ctx x with
    | none => none
    | some c =>
      match c.parent with
      | none => none
      | some p => if c.catches.getLsbD (code - 1) then some x else s.catcher code fuel p

/-! ## Pinned tiles that leave a core -/

/-- A pinned tile that must go to its slot (R201). -/
def Tile.mustWrite (t : Tile) : Bool := t.pinned && t.present && t.dirty

/-- Write tile n of core c to its slot where it must go there; a write that faults loses it, with a notice (R201, R279). -/
def State.evictOrLose (s : State) (c : CoreId) (n : Fin 32) : State :=
  let t := (s.coreAt c).tiles[n]
  if t.mustWrite then
    match s.evictSlot c n false (s.coreAt c).mEng.seqno with
    | .ok u => u
    | .error _ => s.notice t.owner.toNat 4 (t.spilla.extractLsb' 0 64) 0
  else s

/-- Every pinned tile of core c that must go to its slot goes there (R201, R279). -/
def State.evictAll (s : State) (c : CoreId) : State := (List.finRange 32).foldl (fun t n => t.evictOrLose c n) s

/-- Reset an ownership entry after its tile has gone to its slot where it must. -/
def State.releaseTile (s : State) (c : CoreId) (n : Fin 32) (owner : BitVec 12) : State :=
  (s.evictOrLose c n).modCore c fun k => k.modTile n fun _ => Tile.reset owner

/-- The ownership table at allocation of the URS of core c to context x (R83, R201). -/
def State.allocateTiles (s : State) (c : CoreId) (x : Nat) : State :=
  (List.finRange 32).foldl (fun t n =>
    let e := (t.coreAt c).tiles[n]
    if e.pinned && e.owner.toNat == x then t else t.releaseTile c n (BitVec.ofNat 12 x)) s

end Sys2Proof.Machine
end

