-- ==== Sys2Proof/Machine/Sem.lean ====
section
/-! DEFINITION. Semaphores (spec/01_stream.md R14, R15, R17-R19): counts, updates, the service of pending waits, the start of
an engine entry whose wait is satisfied (R24, R33). -/

namespace Sys2Proof.Machine

open Sys2Proof

/-- The count of a semaphore as core c names it (R17). -/
def State.semCount (s : State) (c : CoreId) (n : Fin 64) : BitVec 16 :=
  if h : n.val < 48 then (s.coreAt c).sems[n.val]
  else (s.island (islandOf c)).bank[n.val - 48]'(by have := n.isLt; omega)

/-- Replace a count. -/
def State.setSem (s : State) (c : CoreId) (n : Fin 64) (v : BitVec 16) : State :=
  if h : n.val < 48 then s.modCore c fun k => { k with sems := k.sems.set n.val v }
  else s.modIsland (islandOf c) fun i => { i with bank := i.bank.set (n.val - 48) v (by have := n.isLt; omega) }

/-- The waits pending where semaphore n of core c lives, oldest first (R18). -/
def State.waitsOf (s : State) (c : CoreId) (n : Fin 64) : List Wait :=
  ((if n.val < 48 then (s.coreAt c).waits else (s.island (islandOf c)).waits).filter fun w => w.sem == n)

/-- Drop a pending wait. -/
def State.dropWait (s : State) (w : Wait) : State :=
  if w.sem.val < 48 then s.modCore w.core fun k => { k with waits := k.waits.filter fun x => x != w }
  else s.modIsland (islandOf w.core) fun i => { i with waits := i.waits.filter fun x => x != w }

/-- w is younger than x (R18): it became pending later, or in the same cycle on a higher core, or there in a higher stream. -/
def Wait.after (w x : Wait) : Bool :=
  decide (x.since < w.since) || (w.since == x.since &&
    (decide (x.core.val < w.core.val) || (w.core == x.core && decide (streamIndex x.stream < streamIndex w.stream))))

/-- The pending waits with one more, the oldest first. -/
def insertWait (l : List Wait) (w : Wait) : List Wait := l.takeWhile w.after ++ w :: l.dropWhile w.after

/-- Make a wait pending from this cycle on (R18). -/
def State.addWait (s : State) (c : CoreId) (t : StreamId) (n : Fin 64) (m : WMode) : State :=
  let w : Wait := { core := c, stream := t, sem := n, mode := m, since := s.cycle }
  if n.val < 48 then s.modCore c fun k => { k with waits := insertWait k.waits w }
  else s.modIsland (islandOf c) fun i => { i with waits := insertWait i.waits w }

/-- Drop every pending wait of core c (a stop records them, R27). -/
def State.dropWaits (s : State) (c : CoreId) : State :=
  (s.modCore c fun k => { k with waits := [] }).modIsland (islandOf c) fun i =>
    { i with waits := i.waits.filter fun w => w.core != c }

/-- A condition of R14 holds for a count. -/
def waitHolds (m : WMode) (v : BitVec 16) : Bool :=
  match m with
  | .none => true
  | .take => v != 0
  | .peek => v != 0
  | .zero => v == 0

/-- The slow state applies (R363, R364). -/
def State.slow (s : State) : Bool := s.power.grade == .slow || s.power.grade == .park

/-- The plane caps in force for the unit of core c (R188, R257, R258, R363, R390): 16 unless the launch permits variants. -/
def State.capsInForce (s : State) (c : CoreId) : Nat × Nat :=
  match s.resident c with
  | some u =>
    if !u.pvar then (16, 16)
    else
      let p := if s.slow then (4, 4) else u.caps
      if s.reducedService then (min 8 p.1, min 8 p.2) else p
  | none => (16, 16)

/-- The lowest cA - 1 and cB - 1 in force, in the layout of CAPS (R249). -/
def lowCaps (old : BitVec 8) (p : Nat × Nat) : BitVec 8 :=
  BitVec.ofNat 8 (min (old.toNat / 16) (p.1 - 1) * 16 + min (old.toNat % 16) (p.2 - 1))

/-- Park takes its fast form (R364). -/
def Power.parkFast (p : Power) : Bool := p.grade == .park && decide (p.level < 520000)

/-- The caps in force for the unit of core c enter its launch's CAPS (R249). -/
def State.noteCaps (s : State) (c : CoreId) : State :=
  match s.resident c with
  | some u => s.modLaunch u.launch fun l => { l with caps := lowCaps l.caps (s.capsInForce c) }
  | none => s

/-- The caps in force for every unit enter the launches' CAPS (R249). -/
def State.noteAllCaps (s : State) : State := allCores.foldl State.noteCaps s

/-- The lowest divisor at a voltage level (R277). -/
def lowestDiv (l : Fin 8) : Nat :=
  match l.val with
  | 0 => 4
  | 1 => 3
  | 2 => 2
  | 3 => 2
  | _ => 1

/-- One of the four divisors. -/
def Divs.get (d : Divs) : DivSel → Fin 32
  | .c => d.c
  | .m => d.m
  | .v => d.v
  | .w => d.w

/-- The divisor in force (R84, R258, R259): the operating point's or the requested one, raised by the island's voltage (R278),
the current limiter (R353), reduced service (R390) and the slow state at level 0 (R363). -/
def State.divInForce (s : State) (c : CoreId) (e : DivSel) : Nat :=
  let k := s.coreAt c
  match k.unit with
  | none => (k.divReq.get e).val
  | some u =>
    if s.slow && k.sys.level == 0 then 16
    else
      let i := s.island (islandOf c)
      max (max (u.fdiv.get e).val (k.divReq.get e).val)
        (max (max (lowestDiv i.level) (lowestDiv i.target)) (max s.power.current.val (if s.reducedService then 4 else 1)))

/-- The divisor of an engine (R84): both copy streams run at Wadi's. -/
def engDiv : Eng → DivSel
  | .m => .m
  | .v => .v
  | .c0 => .w
  | .c1 => .w

/-- The head entry of an engine stream starts (R24, R33): its number rises; the plane caps, its divisor and the views are those now
in force (R188, R84, R78). -/
def State.startEntry (s : State) (c : CoreId) (e : Eng) : State :=
  (s.modCore c fun k => k.modEng e fun t =>
    { t with phase := .running .fresh, seqno := t.seqno + 1, caps := s.capsInForce c, clock := s.divInForce c (engDiv e),
             views := (s.coreAt c).serir.views, lost := false, awaits := [] }).noteCaps c

/-- A semaphore of the bank makes the segment irreversible (R382). -/
def State.bankUse (s : State) (c : CoreId) (n : Fin 64) : State := if 48 ≤ n.val then s.irreversible c else s

/-- A pending wait is served: a SEMWAIT completes, an entry starts. -/
def State.grant (s : State) (w : Wait) : State :=
  let t := (s.dropWait w).bankUse w.core w.sem
  match w.stream with
  | .seq q => (t.finishAt w.core q).progress w.core
  | .eng e => t.startEntry w.core e

/-- Serve the waits on a semaphore after an update (R18): all satisfied peeks and zeros, then the oldest consuming wait, and
again. -/
def State.serve : Nat → State → CoreId → Fin 64 → State
  | 0, s, _, _ => s
  | fuel + 1, s, c, n =>
    let v := s.semCount c n
    let free := (s.waitsOf c n).filter fun w => w.mode != .take && waitHolds w.mode v
    let t := free.foldl State.grant s
    if v = 0 then t
    else match (t.waitsOf c n).find? fun w => w.mode == .take with
      | some w => State.serve fuel ((t.grant w).setSem c n (v - 1)) c n
      | none => t

/-- Serve the waits on a semaphore: once for each pending wait and once more. -/
def State.serveSem (s : State) (c : CoreId) (n : Fin 64) : State := s.serve ((s.waitsOf c n).length + 1) c n

/-- An update of a semaphore by a unit of core c (R18), with its progress event (R321). -/
def State.updateSem (s : State) (c : CoreId) (n : Fin 64) (v : BitVec 16) : State :=
  (((s.setSem c n v).bankUse c n).progress c).serveSem c n

/-- Add k to a semaphore; none where the count would pass 65,535 (R19). An amount of 0 changes nothing. -/
def State.postSem (s : State) (c : CoreId) (n : Fin 64) (k : Nat) : Option State :=
  if k = 0 then some s
  else if 65535 < (s.semCount c n).toNat + k then none
  else some (s.updateSem c n (BitVec.ofNat 16 ((s.semCount c n).toNat + k)))

/-- Apply a signal operation (R15) with the defined count; none where it overflows (R19). -/
def State.signal (s : State) (c : CoreId) (n : Fin 64) (op : SOp) (count : Nat) : Option State :=
  match op with
  | .none => some s
  | .add => s.postSem c n 1
  | .set => some (s.updateSem c n 1)
  | .cnt => s.postSem c n count

/-- A satisfied wait takes its count (R14). -/
def State.consume (s : State) (c : CoreId) (n : Fin 64) (m : WMode) : State :=
  match m with
  | .take => s.updateSem c n (s.semCount c n - 1)
  | .peek => s.bankUse c n
  | .zero => s.bankUse c n
  | .none => s

end Sys2Proof.Machine
end

