-- ==== Sys2Proof/Machine/LaunchEnd.lean ====
section
/-! DEFINITION. How a launch ends (spec/10_work_unit.md R248, R249, R252, R263): marks, the completion record, the counters,
and the voltage that an island aims at (spec/14_cluster.md R278). -/

namespace Sys2Proof.Machine

open Sys2Proof

/-- The state of a unit of a launch, none before it starts. -/
def Launch.unitState (l : Launch) (u : Nat) : Option UnitState := (l.units.find? fun r => r.num == u).map (·.state)

/-- Change the state of a unit. -/
def Launch.setUnit (l : Launch) (u : Nat) (st : UnitState) : Launch :=
  { l with units := l.units.map fun r => if r.num = u then { r with state := st } else r }

/-- Every unit has ended, or will never start (R248, R252). -/
def Launch.finished (l : Launch) : Bool :=
  (l.mark.isSome || l.units.length == l.task.units) && l.units.all fun r => r.state == .ended

/-- Saturating increment of a 16-bit count. -/
def satInc (n : Nat) : Nat := min 65535 (n + 1)

/-- Count a unit ended by a fault (R249, R263). -/
def Launch.countFault (l : Launch) (cause : BitVec 8) : Launch :=
  { l with faults := satInc l.faults, fcause := if l.faults = 0 then cause else l.fcause }

/-- The status a launch ends with (R249). -/
def Launch.status (l : Launch) : BitVec 8 :=
  match l.mark with
  | some m => m
  | none => if l.faults = 0 then 0 else 1

/-! ## The share of a die -/

/-- The position of die d among the dies that PLACE names (R313, R315). -/
def Launch.dieIndex (l : Launch) (d : DieId) : Option Nat :=
  ((placeDies l.task.place).zipIdx.find? fun p => p.1 == d).map (·.2)

/-- The units of a die's share (R315): from the first number to before the second. -/
def Launch.shareUnits (l : Launch) (d : DieId) : Nat × Nat :=
  let k := (placeDies l.task.place).length
  match l.dieIndex d with
  | some i => ((i * l.task.units + k - 1) / k, ((i + 1) * l.task.units + k - 1) / k)
  | none => (0, 0)

/-- Every unit of a die's share has ended, or will never start (R317). -/
def Launch.shareDone (l : Launch) (d : DieId) : Bool :=
  let (lo, hi) := l.shareUnits d
  let mine := l.units.filter fun r => decide (lo ≤ r.num) && decide (r.num < hi)
  (l.mark.isSome || mine.length == hi - lo) && mine.all fun r => r.state == .ended

/-- The running shares whose units have all ended are Ended (R317). -/
def Launch.endShares (l : Launch) : Launch :=
  { l with shares := l.shares.map fun p => if p.2 = .running ∧ l.shareDone p.1 = true then (p.1, .ended) else p }

/-- D := min(D, 0). -/
def TaskQueue.uncredited (q : TaskQueue) : TaskQueue := { q with deficit := if q.deficit.msb then q.deficit else 0 }

/-- A queue whose context has no launch and no resident unit on the die keeps no credit (R309). -/
def State.dropCredit (s : State) (d : DieId) : State :=
  let active (x : Nat) : Bool := (s.launches.any fun l => l.ctx == x && (l.dieIndex d).isSome)
    || (dieCores d).any fun c => match s.resident c with | some u => u.ctx == x | none => false
  s.modDie d fun y => { y with queues := y.queues.map fun q => if active q.ctx then q else q.uncredited }

/-- The completion record (R249); free: what GMIN, GMAX and CAPS hold where no unit ran (notes/assumptions/12.md). -/
def Launch.record (l : Launch) (now : W64) (seq : W64) (free : W64) : List Byte :=
  let late := l.task.deadline != 0 && l.task.deadline.ult now
  let gm := if l.units = [] then free.toNat % 8 else l.gmin.val
  let gx := if l.units = [] then free.toNat / 8 % 8 else l.gmax.val
  let caps := if l.units = [] then free.toNat / 64 % 256 else l.caps.toNat
  leBytes 1 l.status.toNat ++ leBytes 1 (l.ran.toNat % 16 + (if late then 16 else 0)) ++ leBytes 2 l.faults ++ leBytes 1 gm
    ++ leBytes 1 gx ++ leBytes 1 caps ++ leBytes 1 l.fcause.toNat ++ leBytes 8 (if l.units = [] then 0 else l.start.toNat)
    ++ leBytes 8 now.toNat ++ leBytes 6 l.iused.toNat ++ leBytes 2 (l.ctx % 4096) ++ leBytes 8 l.id ++ leBytes 6 l.tused.toNat ++ leBytes 2 0
    ++ leBytes 8 seq.toNat ++ leBytes 8 0

/-- Watchpoints of a context whose launch was held back are tried again (R302). -/
def State.retryWatches (s : State) (ctx : Nat) : State :=
  (List.finRange 8).foldl (fun t d =>
    (t.die d).watch.foldl (fun u w => if w.pending && w.ctx == ctx then u.fireWatch d w else u) t) s

/-- A context's floor is released when it has no launch left (R357). -/
def State.releaseFloor (s : State) (x : Nat) : State :=
  if (s.queuedBy x).isEmpty then s.modCtx x fun c => { c with admitted := false, broken := false } else s

/-- End a launch: its record, then its counters (R248, R249), its reservations, its reducing copies (R407). -/
def State.endLaunch (s : State) (l : Launch) : State :=
  let (free, s0) := s.freeValue
  let seq := match s.ctx l.ctx with | some c => c.completions + 1 | none => 0
  let s1 := s0.modCtx l.ctx fun c => { c with completions := seq }
  let s2 := match s1.devWriteAs true l.ctx l.task.compl (l.record s.tick seq free) with
    | .ok t => t
    | .error _ => s1.notice l.ctx 5 (l.task.compl.extractLsb' 0 64) l.id
  let s3 := ({ s2 with launches := s2.launches.filter fun x => x.id != l.id,
                       power := { s2.power with ended := (if l.units = [] then [] else [(l.id, l.ctx, l.task.ccp)]) ++ s2.power.ended } } :
      State).closeRecords
    (.launch s2.fabric.node.val l.id)
  let s4 := (List.finRange 8).foldl (fun t d => t.modDie d fun y =>
    { y with reserved := y.reserved.filter fun p => p.2 != l.id }) s3
  let s5 := (((s4.countUp l.ctx .launch l.task.ccl).countUp l.ctx .graph l.task.ccg).countUp l.ctx .phase l.task.ccp).countUp
    l.ctx .job l.task.ccj
  (List.finRange 8).foldl State.dropCredit ((s5.releaseFloor l.ctx).retryWatches l.ctx)

/-- End a launch that is finished, or the shares of it that are; the device may take its time for the first. -/
def State.settleLaunch (s : State) (id : Nat) : State :=
  match s.launch id with
  | some l => if l.finished && !l.held then s.endLaunch l else s.modLaunch id Launch.endShares
  | none => s

/-- The device takes its time to end a launch, or has taken it: END is the tick at which it ends (R249, notes/assumptions/2.md). -/
def State.holdLaunch (s : State) (id : Nat) (b : Bool) : State :=
  let t := s.modLaunch id fun l => { l with held := b }
  if b then t else t.settleLaunch id

/-- Ask the core of a unit to stop (R25): its pending waits are dropped, to be recorded. BUSY stays on the group of an MDELTA until the
cut, so that no other command sees its tiles between two tokens (R211, R243). -/
def State.beginStop (s : State) (c : CoreId) (st : Stop) : State := (s.dropWaits c).modCore c fun k => { k with stop := some st }

/-- A stop with no cause. -/
def State.plainStop (s : State) (kind : Nat) (aim : StopAim) : Stop :=
  { kind := BitVec.ofNat 8 kind, aim := aim, causes := [], cycle := s.cycle, fatal := false, unitCause := 0,
    preempt := none, wait := none }

/-- A pre-emption that is asked for under a stop which is a trap is taken on the stopped unit (R35). -/
def Stop.preempted (st : Stop) (kind : Nat) (aim : StopAim) : Stop :=
  if aim = .save && st.aim = .trap && st.preempt.isNone then { st with preempt := some (BitVec.ofNat 8 kind) } else st

/-- Ask for a stop of kind and aim on core c, for a cause that the unit as a whole raises, 0 for none (R36); one that is under
way keeps its causes, and a discard outranks the rest. -/
def State.requestStopFor (s : State) (c : CoreId) (kind : Nat) (aim : StopAim) (cause : BitVec 8) : State :=
  match (s.coreAt c).stop with
  | none => s.beginStop c { s.plainStop kind aim with unitCause := cause }
  | some st =>
    s.modCore c fun k =>
      { k with stop := some (if aim = .discard then { st with aim := .discard } else st.preempted kind aim) }

/-- Ask for a stop that no cause begins. -/
def State.requestStop (s : State) (c : CoreId) (kind : Nat) (aim : StopAim) : State := s.requestStopFor c kind aim 0

/-- A saved or waiting unit of a marked launch ends. -/
def dropUnit (r : UnitRec) : UnitRec :=
  match r.state with
  | .running _ => r
  | _ => { r with state := .ended }

/-- Mark a launch to end with a status (R252): no unit starts, saved units end, resident units are stopped and their saves
discarded. -/
def State.markLaunch (s : State) (id : Nat) (status : BitVec 8) : State :=
  let s1 := s.modLaunch id fun l =>
    { l with mark := some (l.mark.getD status), markCycle := if l.mark.isSome then l.markCycle else s.cycle, units := l.units.map dropUnit,
             shares := l.shares.map fun p => (p.1, .ended) }
  ((s1.holding fun u => u.launch == id).foldl (fun t c => t.requestStop c 3 .discard) s1).settleLaunch id

/-- The highest VLEVEL of the units on an island, 0 where it holds none (R278). -/
def State.wantedLevel (s : State) (i : IslandId) : Fin 8 :=
  ((islandCores i).filterMap s.resident).foldl (fun m u => if m.val < u.vlevel.val then u.vlevel else m) 0

/-- An island aims at the level its units ask for (R278). -/
def State.retarget (s : State) (i : IslandId) : State := s.modIsland i fun x => { x with target := s.wantedLevel i }

/-- The remote requests of a core are forgotten. -/
def State.forgetRemote (s : State) (c : CoreId) : State :=
  { s with fabric := { s.fabric with waiting := s.fabric.waiting.filter fun w => w.core != c } }

/-- The unit leaves core c: what it used is added to its launch, its streams are off (R33, R248). -/
def State.releaseCore (s : State) (c : CoreId) : State :=
  match s.resident c with
  | none => s
  | some u =>
    let s1 := s.modLaunch u.launch fun l =>
      { l with iused := l.iused + BitVec.ofNat 48 u.iused, tused := l.tused + BitVec.ofNat 48 u.tused }
    ((((s1.dropWaits c).forgetRemote c).modCore c fun k =>
      { k with unit := none, stop := none, handled := none, mEng := Stream.reset, vEng := Stream.reset, c0Eng := Stream.reset,
               c1Eng := Stream.reset, a := Seq.reset, x := Seq.reset, check := none,
               tiles := k.tiles.map fun t => { t with filling := false, busy := false } }).retarget (islandOf c)).dropCredit (dieOf c)

/-- The unit on core c ends. -/
def State.endUnit (s : State) (c : CoreId) : State :=
  match s.resident c with
  | none => s
  | some u => ((s.modLaunch u.launch fun l => l.setUnit u.unit .ended).releaseCore c).settleLaunch u.launch

/-- The unit on core c is lost (R263): its launch counts a fault and ends with status 0x04, or with 0x07 where the unit was
under revocation (R336). -/
def State.loseUnit (s : State) (c : CoreId) (cause : BitVec 8) : State :=
  match s.resident c with
  | none => s
  | some u =>
    (((s.modLaunch u.launch fun l => (l.countFault cause).setUnit u.unit .ended).releaseCore c).markLaunch u.launch
      (if hasReason u.reasons reasonRevoke then 0x07 else 0x04))

end Sys2Proof.Machine
end

