-- ==== Sys2Proof/Machine/Save.lean ====
section
/-! DEFINITION. The save area (spec/01_stream.md R28, R29; spec/10_work_unit.md R264-R266, R417): the bytes of a stopped unit
and the unit from its bytes. -/

namespace Sys2Proof.Machine

open Sys2Proof

/-- The size of a save area (R245). -/
def saveSize : Nat := 0x500000

/-! ## The stop record -/

/-- The wait entry of a sequencer (R29). -/
def seqWait (q : Seq) : Nat :=
  match q.stall with
  | .sem n m => n.val + 256 * m.code + 65536
  | _ => 0

/-- The wait entry of an engine stream (R29): a pending wait, or the wait whose add-back was held. -/
def engWait (t : Stream) : Nat :=
  match t.head with
  | some h =>
    let y := syncOf h.word.toNat
    let n := y.wsem.val + 256 * y.wmode.code
    if t.phase = .waiting then n + 65536 else if t.lost then n + 2 * 65536 else 0
  | none => 0

/-- Bytes 17 to 31 of a progress slot (R157, R195, R209, R226). -/
def progBytes (e : Eng) (p : Prog) : List Byte :=
  match p with
  | .fresh => leBytes 15 0
  | .elems n => leBytes 2 n ++ leBytes 13 0
  | .tokens n => leBytes 1 n ++ leBytes 14 0
  | .nest idx chunk event =>
    let six := ((List.range 6).map fun i => leBytes 2 (idx.getD i 0)).flatten
    match e with
    | .m => six ++ leBytes 1 0 ++ leBytes 1 (if event then 1 else 0) ++ leBytes 1 0
    | _ => six ++ leBytes 3 (chunk % 2 ^ 23 + (if event then 2 ^ 23 else 0))

/-- The progress slot of an engine stream (R29). -/
def progSlot (e : Eng) (t : Stream) : List Byte :=
  let word := match t.head with | some h => h.word.toNat | none => 0
  match t.phase with
  | .running p => leBytes 8 t.seqno.toNat ++ leBytes 8 word ++ leBytes 1 1 ++ progBytes e p
  | .sigPending _ => leBytes 8 t.seqno.toNat ++ leBytes 8 word ++ leBytes 1 2 ++ leBytes 15 0
  | _ => leBytes 32 0

/-- An engine stream is mid-command or signal-pending (R28). -/
def midEntry (t : Stream) : Bool :=
  match t.phase with
  | .running _ => true
  | .sigPending _ => true
  | _ => false

/-- The code that a stream raised at a stop, 0 for none (R28). -/
def causeOf (causes : List Cause) (i : Nat) : Nat :=
  match causes.find? fun c => c.stream == i with
  | some c => c.code.toNat
  | none => 0

/-- The stop record of core k (R28). -/
def Core.stopRecord (k : Core) (st : Stop) (tick : W64) : List Byte :=
  let b (x : Bool) (n : Nat) : Nat := if x then n else 0
  leBytes 2 1 ++ leBytes 1 st.kind.toNat ++ leBytes 1 (match st.causes with | c :: _ => c.stream | [] => 255)
    ++ leBytes 1 (b (midEntry k.mEng) 1 + b (midEntry k.vEng) 2 + b (midEntry k.c0Eng) 4 + b (midEntry k.c1Eng) 8)
    ++ leBytes 1 (b k.c0Eng.chainPc.isSome 1 + b k.c1Eng.chainPc.isSome 2) ++ leBytes 2 0
    ++ leBytes 8 k.a.seqno.toNat ++ leBytes 8 k.x.seqno.toNat
    ++ (engines.map fun e => leBytes 8 (k.eng e).seqno.toNat).flatten ++ leBytes 8 tick.toNat
    ++ (engines.map fun e => progSlot e (k.eng e)).flatten
    ++ leBytes 8 (seqWait k.a) ++ leBytes 8 (seqWait k.x) ++ (engines.map fun e => leBytes 8 (engWait (k.eng e))).flatten
    ++ (List.range 6).map (fun i => BitVec.ofNat 8 (causeOf st.causes i)) ++ leBytes 10 0

/-! ## The unit header and the sequencer blocks -/

/-- The unit header (R265). -/
def Core.unitHeader (k : Core) (u : Resident) (yield : Bool) (contn : Nat) : List Byte :=
  leBytes 2 1 ++ leBytes 1 (if yield then 2 else 1) ++ leBytes 1 u.reasons.toNat ++ leBytes 2 contn ++ leBytes 1 u.variant.val
    ++ leBytes 1 k.sys.level.val ++ leBytes 6 k.sys.budi.toNat ++ leBytes 6 k.sys.budt.toNat ++ leBytes 4 k.sys.budg.toNat
    ++ leBytes 1 k.divReq.c.val ++ leBytes 1 k.divReq.m.val ++ leBytes 1 k.divReq.v.val ++ leBytes 1 k.divReq.w.val
    ++ leBytes 4 0 ++ leBytes 8 k.sys.seed.toNat ++ leBytes 6 k.sys.stallv.toNat ++ leBytes 6 k.sys.stallm.toNat
    ++ leBytes 8 (k.sys.trapvEn.toNat * 2 ^ 48 + k.sys.trapvAddr.toNat * 4) ++ leBytes 4 0 ++ leBytes 8 u.launch
    ++ leBytes 4 u.unit ++ leBytes 180 0

/-- The 1,024 bytes of a sequencer block (R266); which registers it keeps. -/
def seqBlock (q : Seq) (keepG keepA : Nat → Bool) (yield : Bool) : List Byte :=
  let gs := (List.range 32).map fun i => leBytes 8 (if keepG i then (q.g.toList.getD i 0).toNat else 0)
  let as := (List.range 16).map fun i => leBytes 16 (if keepA i then (q.a.toList.getD i 0).toNat else 0)
  let head := gs.flatten ++ as.flatten
  if yield then head ++ leBytes 512 0
  else
    let b (x : Bool) (n : Nat) : Nat := if x then n else 0
    let marks := q.gMark.toList
    head ++ leBytes 4 q.pc.toNat ++ leBytes 1 (b q.halted 1 + b q.handler 2 + b q.hpc.isSome 4) ++ leBytes 1 q.loops.length
      ++ leBytes 2 0 ++ leBytes 4 (match q.hpc with | some p => p.toNat | none => 0) ++ leBytes 4 0
      ++ ((List.range 4).map fun i => match q.loops.reverse[i]? with
            | some l => leBytes 4 l.start.toNat ++ leBytes 4 l.last.toNat ++ leBytes 8 l.count.toNat
            | none => leBytes 16 0).flatten
      ++ leBytes 4 ((List.range 32).foldl (fun m i => if (marks.getD i none).isSome then m + 2 ^ i else m) 0) ++ leBytes 12 0
      ++ ((List.range 32).map fun i => leBytes 10 (match marks.getD i none with | some m => m.addr.toNat | none => 0)).flatten
      ++ (match q.arrival with
          | some a => leBytes 10 a.addr.toNat ++ leBytes 4 a.gen.toNat ++ leBytes 1 1
          | none => leBytes 15 0)
      ++ leBytes 81 0

/-- The value of a queue entry, 0 for a reserved place. -/
def slotValue (x : Option Slot) : Nat :=
  match x with
  | some (.ready v _) => v.toNat
  | _ => 0

/-- A data queue's 128 bytes. -/
def queueBytes (l : List Slot) : List Byte := ((List.range 16).map fun i => leBytes 8 (slotValue l[i]?)).flatten

/-- A branch-outcome queue's 8 bytes, the oldest in bit 0. -/
def outcomeBytes (l : List Bool) : List Byte := leBytes 8 (l.foldr (fun b n => 2 * n + (if b then 1 else 0)) 0)

/-- The chain program counter that a save keeps: that of an entry not started, else that of the next word (R27, R230). -/
def savedChain (t : Stream) : Option A80 :=
  match t.chainPc, t.head with
  | some p, some h => if midEntry t then some p else match h.chain with | some a => some a | none => some p
  | r, _ => r

/-- Ring state (R417). -/
def ringBytes (t : Stream) : List Byte :=
  let chain := match savedChain t with | some p => p.toNat | none => 0
  match t.ring with
  | some r =>
    leBytes 3 r.base.toNat ++ leBytes 1 (r.log.val + 128) ++ leBytes 2 r.wslot ++ leBytes 2 r.rslot ++ leBytes 6 t.count.toNat
      ++ leBytes 2 0 ++ leBytes 10 chain ++ leBytes 6 t.seqno.toNat
  | none => leBytes 8 0 ++ leBytes 6 t.count.toNat ++ leBytes 2 0 ++ leBytes 10 chain ++ leBytes 6 t.seqno.toNat

/-- A view register (R150). -/
def viewWord (v : View) : Nat :=
  (if v.set then 2 ^ 40 else 0) + v.type.code * 2 ^ 37 + v.kind.code * 2 ^ 35 + v.base.toNat * 2 ^ 24 + v.len.toNat * 2 ^ 18
    + v.count.toNat * 2 ^ 7

/-! ## The whole area -/

/-- The places and bytes of the first 64 KiB (R264, R417), n the number of the save for its private bytes. DESIGN CHOICE
(notes/assumptions/103.md): of the branch-outcome queues, AX stands before XA, the oldest outcome in bit 0. -/
def Core.frontParts (k : Core) (u : Resident) (st : Stop) (tick : W64) (tiles : List Tile) (n : Nat) : List (Nat × List Byte) :=
  let b (x : NestSet) (m : Nat) : Nat := if x.valid then m else 0
  [(0x0000, k.stopRecord st tick), (0x0100, k.unitHeader u false 0),
   (0x0200, seqBlock k.a (fun _ => true) (fun _ => true) false), (0x0600, seqBlock k.x (fun _ => true) (fun _ => true) false),
   (0x0A00, queueBytes k.ax0 ++ queueBytes k.ax1 ++ queueBytes k.xa0 ++ queueBytes k.xa1),
   (0x0C00, leBytes 1 k.ax0.length ++ leBytes 1 k.ax1.length ++ leBytes 1 k.xa0.length ++ leBytes 1 k.xa1.length),
   (0x0C08, outcomeBytes k.axOut ++ outcomeBytes k.xaOut ++ leBytes 1 k.axOut.length ++ leBytes 1 k.xaOut.length),
   (0x0C20, (k.sems.toList.map fun v => leBytes 2 v.toNat).flatten),
   (0x0C80, ringBytes k.c0Eng ++ ringBytes k.c1Eng ++ ringBytes k.mEng ++ ringBytes k.vEng),
   (0x1000, (k.serir.lanes.toList.map fun v => leBytes 8 v.toNat).flatten),
   (0x1200, (k.serir.views.toList.map fun v => leBytes 8 (viewWord v)).flatten), (0x1240, leBytes 1 k.serir.sel.val),
   (0x1280, (k.serir.z.toList.map fun v => leBytes 8 v.toNat).flatten),
   (0x1300, (List.range 0xD00).map (Config.deferralByte n)),
   (0x2000, (k.serir.masks.toList.map fun v => leBytes 2048 v.toNat).flatten),
   (0x6000, (tiles.map Tile.pack).flatten),
   (0x6200, leBytes 1 (16 * k.erg.pa.val + k.erg.pb.val) ++ leBytes 1 0 ++ leBytes 2 k.erg.loaded.toNat
     ++ leBytes 4 (k.erg.la.toNat + if k.erg.laValid then 2 ^ 31 else 0)
     ++ leBytes 1 (b k.erg.active 1 + b k.erg.shadow 2 + b k.nest0.active 4 + b k.nest0.shadow 8 + b k.nest1.active 16
          + b k.nest1.shadow 32)),
   (0x6300, k.erg.active.bytes ++ k.erg.shadow.bytes ++ k.nest0.active.bytes ++ k.nest0.shadow.bytes
     ++ k.nest1.active.bytes ++ k.nest1.shadow.bytes),
   (0x7000, getBytes k.sof 0 4096), (0x8000, getBytes k.latch 0 256 ++ leBytes 192 k.valid.toNat)]

/-- Cells from places and bytes. -/
def cellsOfParts (l : List (Nat × List Byte)) : Cells := l.foldl (fun m p => putBytes m p.1 p.2) []

/-- The ranges of a hard save (R263, R264): the tile region keeps its slots, every other byte is written. -/
def Core.hardRanges (k : Core) (u : Resident) (st : Stop) (tick : W64) (tiles : List Tile) (n : Nat) : List (Nat × Nat × Cells) :=
  [(0, 0x10000, cellsOfParts (k.frontParts u st tick tiles n)), (0x10000, 0x60000, k.urs), (0x70000, 0x10000, []),
   (0x80000, 0x400000, k.spad), (0x4C1000, 0x1000, []), (0x4C2000, 0x8200, k.erg.planes), (0x4CA200, 0x35E00, [])]

/-- The parts of a saved unit that stay with the device. -/
def Core.savePriv (k : Core) : SavePriv :=
  { queues := k.serir.queues, used := engines.map fun e => match (k.eng e).ring with | some r => r.used | none => 0,
    aMarks := [k.a.aMark, k.x.aMark], gMarks := [k.a.gMark, k.x.gMark],
    slotMarks := [k.ax0, k.ax1, k.xa0, k.xa1].map fun l => l.map fun x => match x with | .ready _ m => m | .reserved _ => none,
    check := k.check, seg := k.seg, handled := k.handled, tcause := k.sys.tcause, tinfo := k.sys.tinfo, tpc := k.sys.tpc,
    lost := engines.map fun e => (k.eng e).lost, deferred := [k.a.deferred, k.x.deferred],
    seqnos := [k.a.seqno, k.x.seqno] ++ engines.map fun e => (k.eng e).seqno,
    counts := engines.map fun e => match (k.eng e).phase with | .sigPending n => n | _ => 0,
    caps := engines.map fun e => (k.eng e).caps, clocks := engines.map fun e => (k.eng e).clock,
    overs := engines.map fun e => (k.eng e).overlap, chains := engines.map fun e => (k.eng e).head.bind (·.chain),
    parked := match k.unit with | some u => hasReason u.reasons reasonPark | none => false }

/-! ## Reading a save -/

/-- A stop record that resumption accepts (R28, R195): FORMAT and the reserved bytes and bits. -/
def stopRecordOk (bs : List Byte) : Bool :=
  fieldNat bs 0 2 == 1 && fieldNat bs 4 1 < 16 && fieldNat bs 5 1 < 4 && zeroBytes bs 6 2
    && ((List.range 6).all fun i => zeroBytes bs (0x0E + 8 * i) 2)
    && ((List.range 4).all fun i => slotOk i ((bs.drop (0x40 + 32 * i)).take 32))
    && ((List.range 6).all fun i =>
         let w := (bs.drop (0xC0 + 8 * i)).take 8
         fieldNat w 0 1 < 64 && fieldNat w 1 1 < 4 && fieldNat w 2 1 < 4 && zeroBytes w 3 5)
    && zeroBytes bs 0xF6 10
where
  /-- The reserved parts of a progress slot. -/
  slotOk (i : Nat) (p : List Byte) : Bool :=
    let opc := fieldNat p 13 1
    fieldNat p 16 1 ≤ 2 && zeroBytes p 6 2 &&
      (if fieldNat p 16 1 = 1 then
        (if i = 0 then (if opc = 0x0C then zeroBytes p 18 14 else zeroBytes p 29 1 && fieldNat p 30 1 < 2 && zeroBytes p 31 1)
         else if i = 1 then zeroBytes p 19 13
         else true)
       else true)

/-- A unit header that resumption accepts (R5, R265): FORMAT and the reserved bytes and bits (notes/assumptions/94.md). -/
def headerRecordOk (h : List Byte) : Bool :=
  fieldNat h 0 2 == 1 && fieldNat h 3 1 < 128 && fieldNat h 6 1 < 4 && fieldNat h 7 1 < 8 && zeroBytes h 0x1C 4 && zeroBytes h 0x3C 4
    && zeroBytes h 0x4C 180

/-- No byte of a span is nonzero. -/
def clearSpan (m : Cells) (p : Nat × Nat) : Bool := m.all fun c => decide (c.1 < p.1) || decide (p.1 + p.2 ≤ c.1)

/-- The reserved bytes of the sequencer block at an offset (R266). -/
def seqReserved (o : Nat) : List (Nat × Nat) :=
  ((List.range 16).map fun i => (o + 0x10A + 16 * i, 6)) ++ [(o + 0x206, 2), (o + 0x20C, 4), (o + 0x254, 12), (o + 0x3AF, 81)]

/-- The reserved bytes of the first 64 KiB of a save behind its stop record and header, outside the parts private to the device
(R264, R266, R417). -/
def saveReserved : List (Nat × Nat) :=
  seqReserved 0x200 ++ seqReserved 0x600
    ++ [(0xC04, 4), (0xC1A, 6), (0xC8E, 2), (0xCAE, 2), (0xCCE, 2), (0xCEE, 2), (0xD00, 0x300), (0x1241, 0x3F), (0x6201, 1),
        (0x6209, 0xF7), (0x6900, 0x700), (0x81C0, 0x40)]

/-- The cells of a hard save that resumption accepts (R5): the reserved bytes, and the reserved bits of flags, ring states, views, the
mask selection, ownership entries, LA and the valid bits of nest sets (notes/assumptions/94.md). -/
def saveCellsOk (m : Cells) : Bool :=
  let b (a : Nat) : Nat := (getByte m a).toNat
  saveReserved.all (clearSpan m) && b 0x404 < 8 && b 0x804 < 8
    && ((List.range 4).all fun r => b (0xC82 + 32 * r) < 64 && b (0xC83 + 32 * r) / 16 % 8 == 0)
    && ((List.range 8).all fun v => getNat m (0x1200 + 8 * v) 8 % 128 == 0 && getNat m (0x1200 + 8 * v) 8 < 2 ^ 41)
    && b 0x1240 < 8 && ((List.range 32).all fun n => b (0x6000 + 16 * n) % 64 == 0)
    && getNat m 0x6204 4 / 2 ^ 22 % 2 ^ 9 == 0 && b 0x6208 < 64

/-- A sequencer from its block (R266), with the parts that the device keeps. -/
def unpackSeq (bs : List Byte) (seqno : Nat) (gm : Vector (Option Mark) 32) (am : Vector (Option Mark) 16)
    (df : List Deferred) : Seq :=
  let f := fieldNat bs
  let flags := f 0x204 1
  { g := Vector.ofFn fun i => BitVec.ofNat 64 (if i.val = 0 then 0 else f (8 * i.val) 8)
    gMark := Vector.ofFn fun i =>
      if (f 0x250 4).testBit i.val then
        some (match gm[i] with
          | some m => { m with addr := BitVec.ofNat 80 (f (0x260 + 10 * i.val) 10) }
          | none => { cause := 0x0B, qual := 0, addr := BitVec.ofNat 80 (f (0x260 + 10 * i.val) 10) })
      else none
    a := Vector.ofFn fun i => BitVec.ofNat 80 (f (0x100 + 16 * i.val) 10)
    aMark := am
    pc := BitVec.ofNat 17 (f 0x200 4 / 4 * 4)
    loops := ((List.range (min 4 (f 0x205 1))).map fun i =>
      { start := BitVec.ofNat 17 (f (0x210 + 16 * i) 4), last := BitVec.ofNat 19 (f (0x214 + 16 * i) 4),
        count := BitVec.ofNat 64 (f (0x218 + 16 * i) 8) : LoopLevel }).reverse
    halted := flags.testBit 0
    handler := flags.testBit 1
    hpc := if flags.testBit 2 then some (BitVec.ofNat 17 (f 0x208 4 / 4 * 4)) else none
    arrival := if f 0x3AE 1 = 1 then some { addr := BitVec.ofNat 80 (f 0x3A0 10), gen := BitVec.ofNat 32 (f 0x3AA 4) } else none
    cont := none, stall := .none, out := [], deferred := df, seqno := BitVec.ofNat 48 seqno }

/-- A data queue from its bytes. -/
def unpackQueue (bs : List Byte) (n : Nat) (ms : List (Option Mark)) : List Slot :=
  (List.range (min 16 n)).map fun i => .ready (BitVec.ofNat 64 (fieldNat bs (8 * i) 8)) (ms.getD i none)

/-- A branch-outcome queue from its bytes. -/
def unpackOutcomes (v n : Nat) : List Bool := (List.range (min 32 n)).map v.testBit

/-- A progress index from bytes 17 to 31 of a slot, for a command word. -/
def unpackProg (e : Eng) (p : List Byte) : Prog :=
  let idx := (List.range 6).map fun i => fieldNat p (17 + 2 * i) 2
  match e with
  | .v => .elems (fieldNat p 17 2)
  | .m =>
    let opc := fieldNat p 13 1
    if opc = 0x0C then .tokens (fieldNat p 17 1)
    else if opc = 0x05 then .nest idx 0 ((fieldNat p 30 1).testBit 0)
    else .elems 0
  | _ => if fieldNat p 13 1 = 0x03 then .nest idx (fieldNat p 29 3 % 2 ^ 23) ((fieldNat p 29 3).testBit 23) else .elems 0

/-- An engine stream from its ring state and progress slot (R27, R417): the head of an entry that has begun, with where a chain
gave it. -/
def unpackStream (e : Eng) (rb p : List Byte) (chain : Bool) (from_ : Option A80) (used count : Nat) (seqno : Nat) : Stream :=
  let f := fieldNat rb
  let ring : Option Ring :=
    if (f 3 1).testBit 7 then
      some { base := BitVec.ofNat 22 (f 0 3), log := Fin.ofNat 9 (f 3 1 % 16), wslot := f 4 2, rslot := f 6 2, used := used }
    else none
  let cpc : Option A80 := if chain then some (BitVec.ofNat 80 (f 16 10)) else none
  let word := BitVec.ofNat 64 (fieldNat p 8 8)
  let head : Option Head := if fieldNat p 16 1 = 0 then none else some { word := word, chain := from_ }
  { Stream.reset with
    ring := ring, count := BitVec.ofNat 48 (f 8 6), seqno := BitVec.ofNat 48 seqno, head := head, chainPc := cpc,
    phase := if fieldNat p 16 1 = 1 then .running (unpackProg e p)
             else if fieldNat p 16 1 = 2 then .sigPending count else .idle }

/-- A view register from its word. -/
def unpackView (v : Nat) : View :=
  { set := v.testBit 40, type := vtypeOf (bitsOf v 37 3), kind := kindOf (bitsOf v 35 2), base := BitVec.ofNat 11 (bitsOf v 24 11),
    len := BitVec.ofNat 6 (bitsOf v 18 6), count := BitVec.ofNat 11 (bitsOf v 7 11) }

/-- Core k with a unit restored from the cells of its save area (R27, R263): every part but the tiles and the unit's
registers of the launch. -/
def Core.restoreHard (k : Core) (m : Cells) (pr : SavePriv) : Core :=
  let bs := getBytes m 0 0x8200
  let f := fieldNat bs
  let sub (a n : Nat) : List Byte := (bs.drop a).take n
  let mark (i : Nat) : List (Option Mark) := pr.slotMarks.getD i []
  let nest (bit a : Nat) : NestSet := { bytes := sub a 256, valid := (f 0x6208 1).testBit bit }
  let chainm := f 5 1
  let eng (e : Eng) (i ro : Nat) (chain : Bool) : Stream :=
    { unpackStream e (sub (0x0C80 + 32 * ro) 32) (sub (0x40 + 32 * i) 32) chain (pr.chains.getD i none) (pr.used.getD i 0) (pr.counts.getD i 0) (f (0x18 + 8 * i) 6) with
      lost := false, overlap := pr.overs.getD i none, caps := pr.caps.getD i (16, 16), clock := pr.clocks.getD i 1 }
  { k with
    a := unpackSeq (sub 0x200 1024) (f 0x08 6) (pr.gMarks.getD 0 (Vector.replicate 32 none))
      (pr.aMarks.getD 0 (Vector.replicate 16 none)) (pr.deferred.getD 0 [])
    x := unpackSeq (sub 0x600 1024) (f 0x10 6) (pr.gMarks.getD 1 (Vector.replicate 32 none))
      (pr.aMarks.getD 1 (Vector.replicate 16 none)) (pr.deferred.getD 1 [])
    ax0 := unpackQueue (sub 0xA00 128) (f 0xC00 1) (mark 0), ax1 := unpackQueue (sub 0xA80 128) (f 0xC01 1) (mark 1)
    xa0 := unpackQueue (sub 0xB00 128) (f 0xC02 1) (mark 2), xa1 := unpackQueue (sub 0xB80 128) (f 0xC03 1) (mark 3)
    axOut := unpackOutcomes (f 0xC08 8) (f 0xC18 1), xaOut := unpackOutcomes (f 0xC10 8) (f 0xC19 1)
    sems := Vector.ofFn fun i => BitVec.ofNat 16 (f (0xC20 + 2 * i.val) 2)
    mEng := eng .m 0 2 false, vEng := eng .v 1 3 false, c0Eng := eng .c0 2 0 (chainm.testBit 0),
    c1Eng := eng .c1 3 1 (chainm.testBit 1)
    serir := { views := Vector.ofFn fun i => unpackView (f (0x1200 + 8 * i.val) 8)
               masks := Vector.ofFn fun i => BitVec.ofNat 16384 (f (0x2000 + 2048 * i.val) 2048)
               sel := Fin.ofNat 8 (f 0x1240 1), z := Vector.ofFn fun i => BitVec.ofNat 64 (f (0x1280 + 8 * i.val) 8)
               lanes := Vector.ofFn fun i => BitVec.ofNat 64 (f (0x1000 + 8 * i.val) 8), queues := pr.queues }
    erg := { pa := Fin.ofNat 16 (f 0x6200 1 / 16), pb := Fin.ofNat 16 (f 0x6200 1), planes := takeCells m 0x4C2000 0x8200
             loaded := BitVec.ofNat 16 (f 0x6202 2)
             la := BitVec.ofNat 22 (f 0x6204 4), laValid := (f 0x6204 4).testBit 31
             active := nest 0 0x6300, shadow := nest 1 0x6400 }
    nest0 := ⟨nest 2 0x6500, nest 3 0x6600⟩, nest1 := ⟨nest 4 0x6700, nest 5 0x6800⟩
    sof := takeCells m 0x7000 4096, latch := takeCells m 0x8000 256, sofBad := [], latchBad := [], valid := BitVec.ofNat 1536 (f 0x8100 192)
    urs := takeCells m 0x10000 0x60000, ursBad := [], spad := takeCells m 0x80000 0x400000, spadBad := []
    check := pr.check, seg := pr.seg, handled := pr.handled, stop := none }

/-- The tiles of a save (R417). -/
def savedTiles (m : Cells) : List Tile := (List.range 32).map fun i => Tile.unpack (getBytes m (0x6000 + 16 * i) 16)

/-- The system registers that a header restores (R265), over those of the launch. -/
def restoreSys (y : Sys) (h : List Byte) : Sys :=
  let f := fieldNat h
  { y with budi := BitVec.ofNat 48 (f 0x08 6), budt := BitVec.ofNat 48 (f 0x0E 6), budg := BitVec.ofNat 32 (f 0x14 4),
           seed := BitVec.ofNat 64 (f 0x20 8), stallv := BitVec.ofNat 48 (f 0x28 6), stallm := BitVec.ofNat 48 (f 0x2E 6),
           trapvEn := BitVec.ofNat 16 (f 0x34 8 / 2 ^ 48), trapvAddr := BitVec.ofNat 15 (f 0x34 8 / 4) }

/-- A divisor read back, held to 1 to 16. -/
def divByte (n : Nat) : Fin 32 := Fin.ofNat 32 (max 1 (min 16 n))

/-- The requested divisors of a header (R265). -/
def savedDivs (h : List Byte) : Divs :=
  { c := divByte (fieldNat h 0x18 1), m := divByte (fieldNat h 0x19 1), v := divByte (fieldNat h 0x1A 1),
    w := divByte (fieldNat h 0x1B 1) }

end Sys2Proof.Machine
end

