-- ==== Sys2Proof/Machine/Trap.lean ====
section
/-! DEFINITION. Taking an exception and every other stop (spec/01_stream.md R25-R29, R34, R35; spec/05_sequencers.md R144;
spec/10_work_unit.md R263; spec/18_contexts.md R338; spec/20_package.md R381-R383): the cause, the cut, the rollback, the
handler of the unit's own context, the save and the event. The return from a handler. -/

namespace Sys2Proof.Machine

open Sys2Proof

/-! ## Causes -/

/-- The program counter that TPC reports for a stream, with the chain address where a chain gave the entry (R34). R10 and R34
give the ring read pointer and no unit: the model writes the scratchpad offset, in bytes, of the entry's slot (DESIGN CHOICE,
notes/assumptions/75.md). -/
def Core.pcOf (k : Core) (t : StreamId) : W64 × Option A80 :=
  match t with
  | .seq q => ((k.seq q).pc.zeroExtend 64, none)
  | .eng e =>
    let chain := match (k.eng e).head with
      | some h => h.chain
      | none => (k.eng e).chainPc
    match chain, (k.eng e).ring with
    | some a, _ => (a.extractLsb' 0 64, some a)
    | none, some r => (BitVec.ofNat 64 (r.base.toNat + 8 * r.rslot), none)
    | none, none => (0, none)

/-- A cause of a stream, with the detail of R75, or of R76 in chain mode. -/
def Core.mkCause (k : Core) (t : StreamId) (code : BitVec 8) (qual : BitVec 4) (tinfo : W64) : Cause :=
  let p := k.pcOf t
  { stream := streamIndex t, code := code, qual := qual, chain := p.2.isSome,
    tinfo := (match p.2 with
      | some a => (a.extractLsb' 64 16).zeroExtend 64 ||| (tinfo <<< 16)
      | none => tinfo),
    tpc := p.1 }

/-- Add a cause to those of a stop (R35): one raised in the same cycle by a lower stream is reported first. -/
def addCause (st : Stop) (z : Cause) (cycle : Nat) : Stop :=
  match st.causes with
  | [] => { st with causes := [z], cycle := cycle }
  | h :: r =>
    if st.causes.any fun x => x.stream == z.stream then st
    else if z.stream < h.stream ∧ st.cycle = cycle then { st with causes := z :: h :: r }
    else { st with causes := h :: r ++ [z] }

/-- A stop becomes a trap with KIND 0x01; a pre-emption that it was is taken afterwards, on the stopped unit (R35). -/
def Stop.trapped (st : Stop) : Stop :=
  if st.aim = .discard then { st with kind := 1 }
  else { st with kind := 1, aim := .trap, preempt := if st.aim = .save then some st.kind else st.preempt }

/-! ## Rollback -/

/-- A cause that a copy of the refetch list raises (R383). -/
def inRefetch (g : Segment) (z : Cause) : Bool := !g.rerun.isEmpty && (z.stream == 4 || z.stream == 5)

/-- The device rolls a segment back for this cause, or counts it as a failure of the rerun (R383). -/
def rollsBack (g : Segment) (z : Cause) : Bool :=
  z.code == 0x0A || (z.code == 0x0B && z.qual.toNat ≤ 2 && 1 ≤ g.phases) || inRefetch g z

/-- A trap of these causes is fatal to the unit (R383). -/
def fatalTrap (g : Segment) (zs : List Cause) : Bool :=
  zs.any fun z => (rollsBack g z && (g.irreversible || 2 ≤ g.failures)) || (z.code == 0x0B && z.qual == 3)

/-- The segment can be rolled back for these causes (R383). -/
def canRollBack (k : Core) (zs : List Cause) : Bool :=
  k.handled.isNone && k.check.isSome && zs != [] && zs.all (rollsBack k.seg) && !k.seg.irreversible && k.seg.failures < 2

/-- A sequencer with each poison address replaced (R266). -/
def Seq.withAddrs (q : Seq) (g a : Nat → A80) : Seq :=
  { q with gMark := q.gMark.mapFinIdx fun i m _ => m.map fun x => { x with addr := g i },
           aMark := q.aMark.mapFinIdx fun i m _ => m.map fun x => { x with addr := a i } }

/-- A sequencer less its poison addresses (R381). -/
def Seq.lessAddrs (q : Seq) : Seq := q.withAddrs (fun _ => 0) (fun _ => 0)

/-- The phase checkpoint of core k (R381). -/
def Core.checkpoint (k : Core) (refetch : List RefetchItem) : Checkpoint :=
  { a := k.a.lessAddrs, x := k.x.lessAddrs, ax := [k.ax0, k.ax1, k.xa0, k.xa1], outcomes := [k.axOut, k.xaOut], sems := k.sems,
    streams := [k.mEng, k.vEng, k.c0Eng, k.c1Eng], serir := k.serir, pa := k.erg.pa, pb := k.erg.pb,
    nests := [k.erg.active, k.erg.shadow, k.nest0.active, k.nest0.shadow, k.nest1.active, k.nest1.shadow], divs := k.divReq,
    seed := k.sys.seed, refetch := refetch }

/-- A stream as a rollback leaves it: ring position, count and sequence number of the checkpoint, no entry. -/
def restoredStream (t : Stream) : Stream :=
  { t.cleared with
    head := none, phase := .idle, lost := false, ring := t.ring.map fun r => { r with used := 0, rslot := r.wslot } }

/-- A sequencer as a rollback leaves it: nothing outstanding, for the cut has delivered every load (R109). The addresses of its poisoned
registers are no part of the checkpoint (R381): they are free values (notes/assumptions/95.md). -/
def restoredSeq (seed : Nat) (q : SeqId) (x : Seq) : Seq :=
  { x.withAddrs (fun i => Config.lostAddress seed (seqIndex q) i) (fun i => Config.lostAddress seed (seqIndex q) (32 + i)) with
    stall := .none, out := [], deferred := [], cont := none }

/-- The head entry of a copy run again after a rollback: its command without wait and signal (R383). -/
def refetchHead (t : Stream) (w : W64) : Stream :=
  { t with head := some { word := w.extractLsb' 0 48 |>.zeroExtend 64, chain := none }, phase := .running .fresh, awaits := [] }

/-- The next copy of the refetch list begins (R383, step 4). -/
def Core.startRefetch (k : Core) : Core :=
  match k.seg.rerun with
  | i :: _ =>
    if i.stream = 0 then { k with c0Eng := refetchHead k.c0Eng i.word } else { k with c1Eng := refetchHead k.c1Eng i.word }
  | [] => k

/-- The next copy of the refetch list begins unless a stop holds it up (R25). -/
def Core.nextRefetch (k : Core) : Core := if k.stop.isSome then k else k.startRefetch

/-- Restore the checkpoint (R383, steps 1 to 5): Serir's deferral queues are no part of it. -/
def Core.rollBack (seed : Nat) (k : Core) (p : Checkpoint) : Core :=
  let st (i : Nat) : Stream := restoredStream (p.streams.getD i Stream.reset)
  let nest (i : Nat) : NestSet := p.nests.getD i NestSet.reset
  ({ k.noDrain with
    a := restoredSeq seed .a p.a, x := restoredSeq seed .x p.x, ax0 := p.ax.getD 0 [], ax1 := p.ax.getD 1 [], xa0 := p.ax.getD 2 [],
    xa1 := p.ax.getD 3 [], axOut := p.outcomes.getD 0 [], xaOut := p.outcomes.getD 1 [], sems := p.sems, mEng := st 0,
    vEng := st 1, c0Eng := st 2, c1Eng := st 3, serir := { p.serir with queues := k.serir.queues },
    erg := { k.erg with pa := p.pa, pb := p.pb, active := nest 0, shadow := nest 1 },
    nest0 := ⟨nest 2, nest 3⟩, nest1 := ⟨nest 4, nest 5⟩, divReq := p.divs, sys := { k.sys with seed := p.seed },
    tiles := k.tiles.map fun t => { t with busy := false, filling := false }, stop := none,
    seg := { Segment.reset with failures := k.seg.failures + 1, phases := k.seg.phases, rerun := p.refetch } } : Core).startRefetch

/-- RBCOUNT of the partition of context x rises by 1, saturating (R375, R383). -/
def State.countRollback (s : State) (x : Nat) : State :=
  match s.partitionOf x with
  | none => s
  | some p => s.modCtx p fun c => { c with part := c.part.map fun y =>
      { y with rbcount := if y.rbcount = BitVec.allOnes 48 then y.rbcount else y.rbcount + 1 } }

/-! ## The handler of the unit's own context -/

/-- The system registers after a trap (R34, R74). -/
def Sys.trapped (y : Sys) (z : Cause) : Sys :=
  { y with tcause := BitVec.ofNat 16 (z.qual.toNat * 4096 + (if z.chain then 2048 else 0) + z.stream * 256 + z.code.toNat),
           tinfo := z.tinfo, tpc := z.tpc }

/-- The unit's own handler takes this cause (R144, R338). -/
def Core.handles (k : Core) (z : Cause) : Bool :=
  !k.x.handler && k.handled.isNone && 1 ≤ z.code.toNat && z.code != 0x09 && k.sys.trapvEn.getLsbD (z.code.toNat - 1)

/-- The wait that a sequencer has pending. -/
def pendingWait (q : Seq) : Option (Fin 64 × WMode) :=
  match q.stall with
  | .sem n m => some (n, m)
  | _ => none

/-- The X-sequencer starts at the handler, the wait it had pending kept; every other stream stays stopped (R144). A meeting at a CONT
begins anew afterwards (R260). -/
def Core.enterHandler (k : Core) (st : Stop) : Core :=
  { k.noDrain with
    stop := none, handled := some { st with wait := pendingWait k.x }, a := { k.a with cont := none },
    tiles := k.tiles.map fun t => { t with busy := false, filling := false },
    x := { k.x with
      hpc := some k.x.pc, pc := k.sys.trapvAddr.zeroExtend 17 <<< 2, handler := true, stall := .none, cont := none } }

/-- The address of the save area of the unit on core c (R245). -/
def State.saveArea (s : State) (u : Resident) : A80 :=
  match s.launch u.launch with
  | some l => l.task.savepool + BitVec.ofNat 80 (u.unit * saveSize)
  | none => 0

/-! ## The save -/

/-- The tiles of core c at a save (R201): pinned ones go to their slots and are saved absent; one whose write faults is saved
present. -/
def State.saveTile (fallback : Bool) (c : CoreId) (p : State × List Tile) (n : Fin 32) : State × List Tile :=
  let s := p.1
  let t := { (s.coreAt c).tiles[n] with busy := false, filling := false }
  let gone := { t with present := false, dirty := false }
  if t.mustWrite then
    match s.evictSlot c n fallback (s.coreAt c).mEng.seqno with
    | .ok u => (u.modCore c fun k => k.modTile n fun _ => gone, p.2 ++ [gone])
    | .error _ => (s.modCore c fun k => k.modTile n fun _ => Tile.reset t.owner, p.2 ++ [t])
  else if t.pinned && t.present then (s.modCore c fun k => k.modTile n fun _ => { t with present := false },
    p.2 ++ [{ t with present := false }])
  else (s, p.2 ++ [t])

/-- Every tile of core c at a save. -/
def State.saveTiles (s : State) (c : CoreId) (fallback : Bool) : State × List Tile :=
  (List.finRange 32).foldl (State.saveTile fallback c) (s, [])

/-- A park in its fast form writes fallback images for launches that permit variants (R201). -/
def State.fastForm (s : State) (u : Resident) : Bool := s.power.parkFast && u.pvar && hasReason u.reasons reasonPark

/-- Write the whole unit of core c to its save area (R263): the unit's kept parts, or the fault of a save write with what had been
written before it. -/
def State.hardSave (s : State) (c : CoreId) (u : Resident) (st : Stop) : Except (State × AFault) (State × SavePriv) :=
  let (s1, tiles) := s.saveTiles c (s.fastForm u)
  let k := s1.coreAt c
  let s2 := { s1 with fresh := s1.fresh + 1 }
  match s2.writeRanges u.ctx (s1.saveArea u) (k.hardRanges u st s1.tick tiles s1.fresh) with
  | .error e => .error e
  | .ok t => .ok (t, k.savePriv)

/-- The unit leaves its core and lies saved; one under revocation ends its launch with 0x07 (R261, R336), one of a launch that is
marked ends (R252, R322). -/
def State.leaveSaved (s : State) (c : CoreId) (u : Resident) (st : UnitState) : State :=
  let t := (s.modLaunch u.launch fun l => l.setUnit u.unit (if l.mark.isSome then .ended else st)).releaseCore c
  if hasReason u.reasons reasonRevoke then t.markLaunch u.launch 0x07 else t.settleLaunch u.launch

/-- The event of a trap (R339). -/
def trapEvent (u : Resident) (z : Cause) (tick : W64) : Event :=
  { kind := 1, cause := z.code.toNat, origin := u.ctx,
    qual := z.qual.toNat + 16 * z.stream + (if z.chain then 128 else 0), tinfo := z.tinfo, tpc := z.tpc, launch := u.launch,
    unit := u.unit, tick := tick }

/-- Save the unit and send its trap up the context tree (R263, R338): it awaits a disposition. -/
def State.deliverTrap (s : State) (c : CoreId) (u : Resident) (st : Stop) (z : Cause) : State :=
  match s.hardSave c u st with
  | .error (t, f) => t.loseUnit c f.1.cause
  | .ok (t, pr) =>
    let ring := t.catcher z.code.toNat 10 u.ctx
    if t.destroyed ring || t.destroyed (some u.ctx) then
      (t.leaveSaved c u .ended).settleLaunch u.launch
    else
      let e := match ring with
        | some x => t.putEvent x (trapEvent u z t.tick)
        | none =>
          match t.partitionOf u.ctx with
          | some p => t.putEvent p (trapEvent u z t.tick)
          | none => t.putEvent 4096 (trapEvent u z t.tick)
      e.1.leaveSaved c u (.awaiting ring e.2 st.fatal pr)

/-- A stop that is a trap: rollback, the unit's own handler, or an event (R383, R144, R338). DESIGN CHOICE (notes/assumptions/69.md):
a rollback writes no stop record, because its steps name none. -/
def State.takeTrap (s : State) (c : CoreId) (u : Resident) (st0 : Stop) : State :=
  let k := s.coreAt c
  match st0.causes with
  | [] => s
  | z :: _ =>
    match canRollBack k st0.causes, k.check with
    | true, some p => ({ s with fresh := s.fresh + 1 }.modCore c fun k => k.rollBack s.fresh p).countRollback u.ctx
    | _, _ =>
      let st := { st0 with fatal := fatalTrap k.seg st0.causes }
      let s1 := s.modCore c fun k => { k with sys := k.sys.trapped z }
      if k.handles z then
        match s1.devWriteAs true u.ctx (s1.saveArea u) (k.stopRecord st s1.tick) with
        | .error f => s1.loseUnit c f.1.cause
        | .ok t => (t.modCore c fun k => k.enterHandler st).irreversible c
      else s1.deliverTrap c u st z

/-- A deferred cause of a remote store that a stop turns into a trap (R404). -/
def Core.deferredCauses (k : Core) : List Cause :=
  [SeqId.a, SeqId.x].filterMap fun q =>
    match (k.seq q).deferred with
    | d :: _ => some (k.mkCause (.seq q) d.cause 0 (infoOf d.addr))
    | [] => none

/-- The deferred causes that a stop takes: those of sequencers that raised nothing else at it (R404). -/
def joining (st : Stop) (zs : List Cause) : List Cause := zs.filter fun z => st.causes.all fun x => x.stream != z.stream

/-- The deferred causes that became causes of the stop leave their sequencers; the others stay for a later instruction. -/
def Core.dropDeferred (k : Core) (zs : List Cause) : Core :=
  let taken (q : SeqId) : Bool := zs.any fun z => z.stream == seqIndex q
  { k with a := { k.a with deferred := if taken .a then k.a.deferred.tail else k.a.deferred },
           x := { k.x with deferred := if taken .x then k.x.deferred.tail else k.x.deferred } }

/-- What a stop is at the cut, with the deferred causes that join it (R404). -/
def stopAtCut (st : Stop) (zs : List Cause) : Stop :=
  if zs = [] then st else { st.trapped with causes := st.causes ++ zs }

/-- The cause that the unit as a whole raises at its cut (R36: 0x09, 0x0E) goes to TCAUSE, with TINFO 0 (R75; notes/assumptions/67.md). -/
def Core.noteUnitCause (k : Core) (st : Stop) : Core :=
  if st.unitCause = 0 then k else { k with sys := { k.sys with tcause := st.unitCause.zeroExtend 16, tinfo := 0 } }

/-- The pre-emption that a trap put off is taken on the unit, where it is still on its core (R35). -/
def State.takePreempt (s : State) (c : CoreId) (u : Resident) (st : Stop) : State :=
  match st.preempt, s.resident c with
  | some kind, some v =>
    if v.launch = u.launch ∧ v.unit = u.unit ∧ (s.coreAt c).stop = none then
      s.beginStop c { kind := kind, aim := .save, causes := [], cycle := s.cycle, fatal := false, unitCause := 0, preempt := none, wait := none }
    else s
  | _, _ => s

/-- Every write of the engines of a core is performed (R25). -/
def State.flushWrites (s : State) (c : CoreId) : State :=
  ((s.modCore c fun k => (k.flushLate .m fun _ => true).flushLate .v fun _ => true).performTodo c .c0 fun _ => true).performTodo c .c1
    fun _ => true

/-- The cut (R25, R26, R109) and what follows it. -/
def State.cutNow (s : State) (c : CoreId) : State :=
  match (s.coreAt c).stop, s.resident c with
  | some st0, some u =>
    let s1 := ((s.flushWrites c).flushSeq c .a).flushSeq c .x
    let zs := joining st0 (s1.coreAt c).deferredCauses
    let st := stopAtCut st0 zs
    let s2 := s1.modCore c fun k => k.dropDeferred zs
    match st.aim with
    | .discard => (s2.evictAll c).endUnit c
    | .trap => (s2.takeTrap c u st).takePreempt c u st
    | _ =>
      match (s2.modCore c fun k => k.noteUnitCause st).hardSave c u st with
      | .error (t, f) => t.loseUnit c f.1.cause
      | .ok (t, pr) => t.leaveSaved c u (.saved false pr)
  | _, _ => s

/-- Some tile is held by MDELTA (R177, step 4). -/
def Core.tilesBusy (k : Core) (ns : List Nat) : Bool :=
  ns.any fun n => match k.tiles.toList[n]? with | some t => t.busy | none => false

/-- An entry that a stop lets run on (R25): it has started and not begun its work, or is a short command that stalls for tiles. One
that stalls for a tile of an MDELTA which stops is held with its wait consumed (R24, R211; notes/assumptions/93.md). -/
def Core.mustFinish (k : Core) (e : Eng) : Bool :=
  match (k.eng e).phase, (k.eng e).head with
  | .running .fresh, _ => true
  | .running (.elems 0), some h =>
    !(k.eng e).awaits.isEmpty && !k.tilesBusy (k.eng e).awaits && (match decodeCmd e h.word.toNat with | .ok (.mdelta ..) => false | _ => true)
  | _, _ => false

/-- Nothing holds the cut back (R25, R404): no entry that runs on, no signal due, no access or chunk that a remote node has not
answered. -/
def Core.ready (k : Core) : Bool :=
  k.stop.isSome && !k.remotePending && engines.all fun e =>
    (k.eng e).chunks.isEmpty && !k.mustFinish e &&
      match (k.eng e).phase with
      | .done _ _ _ _ => false
      | _ => true

/-- Take the cut when nothing holds it back. -/
def State.tryCut (s : State) (c : CoreId) : State := if (s.coreAt c).ready then s.cutNow c else s

/-- A stop that causes begin in this cycle. -/
def State.trapStop (s : State) (zs : List Cause) : Stop :=
  { kind := 1, aim := .trap, causes := zs, cycle := s.cycle, fatal := false, unitCause := 0, preempt := none, wait := none }

/-- A stream of core c raises a cause: the exception is taken (R34). -/
def State.raise (s : State) (c : CoreId) (t : StreamId) (code : BitVec 8) (qual : BitVec 4) (tinfo : W64) : State :=
  let k := s.coreAt c
  if k.unit.isNone then s
  else
    let z := k.mkCause t code qual tinfo
    match k.stop with
    | none =>
      (s.beginStop c (s.trapStop [z])).tryCut c
    | some st => (s.modCore c fun k => { k with stop := some (addCause st.trapped z s.cycle) }).tryCut c

/-- Several streams of core c raise causes in the same cycle (R35), the one of the lowest stream first. -/
def State.raiseTogether (s : State) (c : CoreId) (zs : List Cause) : State :=
  match (s.coreAt c).unit, (s.coreAt c).stop with
  | some _, none =>
    if zs = [] then s
    else (s.beginStop c (s.trapStop zs)).tryCut c
  | some _, some st =>
    if zs = [] then s
    else (s.modCore c fun k => { k with stop := some (zs.foldl (fun x z => addCause x z s.cycle) st.trapped) }).tryCut c
  | none, _ => s

/-- The current sequencer raises a cause at its instruction, which has not completed. -/
def State.trapSeq (s : State) (code : BitVec 8) (qual : BitVec 4) (tinfo : W64) : State :=
  s.raise s.core (.seq s.seqId) code qual tinfo

/-- The current sequencer raises an address fault. -/
def State.trapAddr (s : State) (f : AFault) : State := s.trapSeq f.1.cause f.1.qual f.info

/-- Illegal instruction at the current sequencer (R36, R75): TINFO holds its word. -/
def State.illegal (s : State) : State :=
  s.trapSeq 0x01 0 (BitVec.ofNat 64 (getNat s.cur.code s.curSeq.pc.toNat 4))

/-- Privilege (R75): TINFO holds the major opcode and sub[15:12]. -/
def State.noPrivilege (s : State) : State :=
  let w := getNat s.cur.code s.curSeq.pc.toNat 4
  s.trapSeq 0x0D 0 (BitVec.ofNat 64 (bitsOf w 26 6 + 64 * bitsOf w 12 4))

/-- Go on with what operands gave: the next core, a stall, or a trap. -/
def State.settle (s : State) (r : Res Core) (done : State → State) : State :=
  match r with
  | .ok k => done (s.setCore s.core k)
  | .stall w => s.stallSeq w
  | .trap c q t => s.trapSeq c q t

end Sys2Proof.Machine
end

