-- ==== Sys2Proof/Machine/Stream.lean ====
section
/-! DEFINITION. Engine streams (spec/01_stream.md R12, R16, R24, R27, R33): the entry at the head of a ring, its check and
wait, its completion, its faults, and the resumption of a stopped core; the segment (spec/10_work_unit.md R268). -/

namespace Sys2Proof.Machine

open Sys2Proof

/-- The slots of a ring (R21). -/
def Ring.slots (r : Ring) : Nat := 2 ^ (r.log.val + 5)

/-- The engine stream of the head entry has faulted before it started: it stands at the head, and the cause is raised (R33). -/
def State.faultHead (s : State) (c : CoreId) (e : Eng) (code : BitVec 8) (qual : BitVec 4) (tinfo : W64) : State :=
  (s.modCore c fun k => k.modEng e fun t => { t with phase := .faulted }).raise c (.eng e) code qual tinfo

/-- A mask of the six declares semaphore n for a stream (R30). -/
def declares (masks : Vector W64 6) (i : Nat) (n : Fin 64) : Bool := (masks.toList.getD i 0).getLsbD n.val

/-- The entry at the head is checked (R16), then its wait is evaluated (R14, R24). -/
def State.checkHead (s : State) (c : CoreId) (e : Eng) : State :=
  let k := s.coreAt c
  match (k.eng e).head, k.unit with
  | some h, some u =>
    match decodeCmd e h.word.toNat with
    | .error q => s.faultHead c e 0x02 (BitVec.ofNat 4 q) (BitVec.ofNat 64 (bitsOf h.word.toNat 40 8))
    | .ok _ =>
      let y := syncOf h.word.toNat
      let i := streamIndex (.eng e)
      if y.wmode != .none && !declares u.wmask i y.wsem then
        s.faultHead c e 0x05 1 (BitVec.ofNat 64 y.wsem.val)
      else if y.sop != .none && !declares u.smask i y.ssem then
        s.faultHead c e 0x05 2 (BitVec.ofNat 64 y.ssem.val)
      else if waitHolds y.wmode (s.semCount c y.wsem) then
        (s.startEntry c e).consume c y.wsem y.wmode
      else
        (s.modCore c fun k => k.modEng e fun t => { t with phase := .waiting }).addWait c (.eng e) y.wsem y.wmode
  | _, _ => s

/-- A copy stream waits while the refetch list runs (R383). -/
def Core.refetching (k : Core) (e : Eng) : Bool := !k.seg.rerun.isEmpty && (e == .c0 || e == .c1)

/-- The word at the oldest slot of a ring becomes the head, when the engine is idle in ring mode (R33). -/
def State.arrive (s : State) (c : CoreId) (e : Eng) : State :=
  let k := s.coreAt c
  let t := k.eng e
  match t.ring with
  | some r =>
    if t.phase = .idle && t.head.isNone && t.chainPc.isNone && 0 < r.used && k.unit.isSome && k.stop.isNone
        && k.handled.isNone && !k.refetching e then
      let off := r.base.toNat + 8 * r.rslot
      match firstBad k.spadBad off 8 with
      | some b => s.faultHead c e 0x0B 1 (BitVec.ofNat 64 b)
      | none =>
        (s.modCore c fun k => k.modEng e fun t =>
          { t with head := some { word := BitVec.ofNat 64 (getNat k.spad off 8), chain := none } }).checkHead c e
    else s
  | none => s

/-- The head entry leaves its stream; a ring entry frees its slot (R21, R33). -/
def Stream.free (t : Stream) : Stream :=
  let chain := match t.head with | some h => h.chain.isSome | none => false
  { t.cleared with
    head := none, phase := .idle,
    ring := t.ring.map fun r => if chain then r else { r with rslot := (r.rslot + 1) % r.slots, used := r.used - 1 } }

/-- The work of the head entry is done: what it is charged, and its defined count (R15, R254). -/
def State.workDone (s : State) (c : CoreId) (e : Eng) (busy declared bytes count : Nat) : State :=
  s.modCore c fun k => k.modEng e fun t => { t with phase := .done busy declared bytes count, awaits := [] }

/-- The head entry was fetched by chain. -/
def Stream.chained (t : Stream) : Bool := match t.head with | some h => h.chain.isSome | none => false

/-- Charge an engine (R254), and count the busy cycles of the segment's entries (R268). -/
def State.chargeEng (s : State) (c : CoreId) (e : Eng) (busy declared bytes : Nat) : State :=
  (s.modCore c fun k =>
    if (k.eng e).chained || k.refetching e then k
    else { k with seg := { k.seg with busy := k.seg.busy + declared } }).charge c busy bytes

/-- A copy whose destination is the local window is to join the refetch list (R381), as it completes. -/
def Core.noteRefetch (k : Core) (e : Eng) : Core :=
  if k.refetching e || (k.eng e).chained then k
  else match (k.eng e).head with
    | some h =>
      let nest := match decodeCmd e h.word.toNat with
        | .ok (.cgo _ _) => ((if e = .c1 then k.nest1 else k.nest0).active.get).getD []
        | _ => []
      k.modEng e fun t => { t with redo := some { stream := if e = .c0 then 0 else 1, word := h.word, nest := nest } }
    | none => k

/-- The entry that completes joins the refetch list (R381), which holds 256. -/
def Core.joinRefetch (k : Core) (e : Eng) : Core :=
  match (k.eng e).redo with
  | none => k
  | some i =>
    if 256 ≤ k.seg.refetch.length then { k with seg := { k.seg with refetchMany := true } }
    else { k with seg := { k.seg with refetch := k.seg.refetch ++ [i] } }

/-- The writes of an engine are performed (R241: before what follows them is released). -/
def State.flushEng (s : State) (c : CoreId) (e : Eng) : State :=
  match ((s.coreAt c).eng e).late with
  | [] => s.performTodo c e fun _ => true
  | _ => (s.modCore c fun k => k.flushLate e fun _ => true).performTodo c e fun _ => true

/-- A copy of the refetch list is done: the next begins, or the copy streams go on (R383). -/
def State.refetchDone (s : State) (c : CoreId) (e : Eng) : State :=
  let s1 := s.modCore c fun k =>
    ({ k with seg := { k.seg with rerun := k.seg.rerun.tail } }.modEng e fun t =>
      { t.cleared with head := none, phase := .idle }).nextRefetch
  if (s1.coreAt c).seg.rerun.isEmpty then (s1.arrive c .c0).arrive c .c1 else s1

/-- The identity of the reducing copy of a stream (R406). -/
def State.redIdent (s : State) (c : CoreId) (e : Eng) : RedIdent :=
  match s.resident c with
  | some u => { node := s.fabric.node.val, launch := u.launch, unit := u.unit, stream := streamIndex (.eng e),
                seq := ((s.coreAt c).eng e).seqno }
  | none => { node := s.fabric.node.val, launch := 0, unit := 0, stream := streamIndex (.eng e), seq := 0 }

/-- The entry at the head reduces (R406): a CRED, or a CGO whose nest does. -/
def Core.reducing (k : Core) (e : Eng) : Bool :=
  let n := if e = .c1 then k.nest1 else k.nest0
  match (k.eng e).head with
  | some h => match decodeCmd e h.word.toNat with
    | .ok (.cred _ _ _ _) => true
    | .ok (.cgo _ _) => (match n.active.get with | some bs => leNat (bs.take 1) % 4 == 1 | none => false)
    | _ => false
  | none => false

/-- The initiator closes its record when a reducing copy completes (R407). -/
def State.closeCopy (s : State) (c : CoreId) (e : Eng) : State :=
  if (s.coreAt c).reducing e then s.closeRecords (.copy (s.redIdent c e)) else s

/-- The head entry completes (R15, R19, R33): charged, its signal applied, its slot freed, the next entry considered. -/
def State.completeEntry (s0 : State) (c : CoreId) (e : Eng) : State :=
  let s := s0.flushEng c e
  let k := s.coreAt c
  if !(k.eng e).chunks.isEmpty then s
  else match (k.eng e).phase, (k.eng e).head with
  | .done busy declared bytes count, some h =>
    let s1 := s.chargeEng c e busy declared bytes
    if k.refetching e then s1.refetchDone c e
    else
      let y := syncOf h.word.toNat
      match s1.signal c y.ssem y.sop count with
      | none =>
        (s1.modCore c fun k => k.modEng e fun t => { t with phase := .sigPending count }).raise c (.eng e) 0x07 0
          (BitVec.ofNat 64 y.ssem.val)
      | some s2 => ((((s2.closeCopy c e).modCore c fun k => (k.joinRefetch e).modEng e Stream.free).progress c).arrive c e).tryCut c
  | _, _ => s

/-- A state check of a started entry fails (R24): its wait is added back, it counts as not started, the cause is raised. -/
def State.failEntry (s : State) (c : CoreId) (e : Eng) (code : BitVec 8) (qual : BitVec 4) (tinfo : W64) : State :=
  if (s.coreAt c).refetching e then
    -- a cause raised in the refetch is a failure of the rerun (R383)
    (s.modCore c fun k => k.modEng e fun t => { t with phase := .faulted, awaits := [] }).raise c (.eng e) code qual tinfo
  else
    let y := match ((s.coreAt c).eng e).head with | some h => syncOf h.word.toNat | none => syncOf 0
    let s1 := s.modCore c fun k => k.modEng e fun t =>
      { t with phase := .faulted, awaits := [], tmpl := [], seqno := t.seqno - 1, lost := y.wmode == .take && s.semCount c y.wsem == 65535 }
    let s2 := if y.wmode = .take && s.semCount c y.wsem != 65535 then
        s1.updateSem c y.wsem (s.semCount c y.wsem + 1)
      else s1
    s2.raise c (.eng e) code qual tinfo

/-- A started entry fails with an address fault. -/
def State.failAddr (s : State) (c : CoreId) (e : Eng) (f : AFault) : State := s.failEntry c e f.1.cause f.1.qual f.info

/-- A long command faults after it has made progress: its index stands (R34). -/
def State.faultMid (s : State) (c : CoreId) (e : Eng) (p : Prog) (code : BitVec 8) (qual : BitVec 4) (tinfo : W64) : State :=
  (s.modCore c fun k => k.modEng e fun t => { t with phase := .running p, awaits := [] }).raise c (.eng e) code qual tinfo

/-- A started entry stands at its index, for tiles where it stalls for them among its checks with the wait kept (R24). -/
def State.holdFor (s : State) (c : CoreId) (e : Eng) (p : Prog) (ns : List Nat) : State :=
  (s.modCore c fun k => k.modEng e fun t => { t with phase := .running p, awaits := ns }).tryCut c

/-- A started entry has made progress and stands at its index. -/
def State.holdEntry (s : State) (c : CoreId) (e : Eng) (p : Prog) : State := s.holdFor c e p []

/-! ## Resumption -/

/-- The tiles first to first + count. -/
def tileSpan (first count : Nat) : List Nat := (List.range (count + 1)).map fun i => first + i

/-- The tiles of a group. -/
def groupTiles (first : Fin 32) (d : Fin 4) : List Nat := tileSpan first.val ((d.val + 1) * (d.val + 1) - 1)

/-- Set or clear BUSY on tiles (R206). -/
def Core.setBusy (k : Core) (ns : List Nat) (b : Bool) : Core :=
  ns.foldl (fun u n => u.modTile (Fin.ofNat 32 n) fun t => { t with busy := b }) k

/-- The tiles of the MDELTA at the head of M, none where no MDELTA is. -/
def Core.deltaGroup (k : Core) : List Nat :=
  match k.mEng.head with
  | some h => match decodeCmd .m h.word.toNat with
    | .ok (.mdelta _ first d _ _) => groupTiles first d
    | _ => []
  | none => []

/-- An engine stream goes on after a stop (R27, R33): an MDELTA holds its group again (R209), an MGO loads its A blocks again (R195),
a CGO reads its template again (R226). -/
def State.resumeEng (s : State) (c : CoreId) (e : Eng) : State :=
  let t := (s.coreAt c).eng e
  match t.phase with
  | .sigPending n => s.workDone c e 0 0 0 n
  | .idle => s.arrive c e
  | .running p =>
    match p, e with
    | .tokens _, _ => s.modCore c fun k => k.setBusy k.deltaGroup true
    | .nest _ _ _, .m => s.modCore c fun k => { k with erg := { k.erg with laValid := false } }
    | .nest _ _ _, _ => s.modCore c fun k => k.modEng e fun t => { t with tmpl := [], data := [], fails := [] }
    | _, _ => s
  | .done _ _ _ _ => s
  | _ =>
    let s1 := s.modCore c fun k => k.modEng e fun t => { t with phase := .idle }
    if t.head.isSome then s1.checkHead c e else s1.arrive c e

/-- A sequencer's pending wait is armed again (R27). -/
def State.rearm (s : State) (c : CoreId) (q : SeqId) (n : Fin 64) (m : WMode) : State :=
  if m = .none || ((s.coreAt c).seq q).halted then s
  else if waitHolds m (s.semCount c n) then ((s.finishAt c q).consume c n m).progress c
  else
    (s.modCore c fun k => k.modSeq q fun x => { x with stall := .sem n m }).addWait c (.seq q) n m

/-- A rerun of the refetch list that a stop held up goes on (R383). -/
def State.resumeRefetch (s : State) (c : CoreId) : State :=
  if (s.coreAt c).c0Eng.head.isNone && (s.coreAt c).c1Eng.head.isNone then s.modCore c Core.startRefetch else s

/-- Every stream of core c goes on (R27) in the order of its index, which orders waits of one cycle (R18). -/
def State.resumeStreams (s : State) (c : CoreId) (wa wx : Option (Fin 64 × WMode)) : State :=
  let s1 := match wa with | some (n, m) => s.rearm c .a n m | none => s
  let s2 := match wx with | some (n, m) => s1.rearm c .x n m | none => s1
  (engines.foldl (fun t e => t.resumeEng c e) s2).resumeRefetch c

/-- A sequencer that raised TRAP goes on behind it (R145, R340). -/
def skipTrap (st : Stop) (q : SeqId) (x : Seq) : Seq :=
  if st.causes.any fun z => z.stream == seqIndex q && z.code == 0x10 then { x with pc := x.pc + 4 } else x

/-- The return from the unit's own handler (R145): the X-sequencer takes back its program counter and the wait it had pending, and
the unit goes on. -/
def State.leaveHandler (s : State) (c : CoreId) (st : Stop) : State :=
  let k := s.coreAt c
  let wa := pendingWait k.a
  if st.fatal then
    -- R383: the trap is fatal to the unit
    match k.unit, st.causes with
    | some u, z :: _ => ((s.modLaunch u.launch fun l => l.countFault z.code).endUnit c)
    | _, _ => s
  else
    (s.modCore c fun k =>
      { k with handled := none,
               a := skipTrap st .a { k.a with stall := .none },
               x := skipTrap st .x { k.x with pc := k.x.hpc.getD k.x.pc, hpc := none, handler := false, stall := .none } }
    ).resumeStreams c wa st.wait

end Sys2Proof.Machine
end

