-- ==== Sys2Proof/Machine/Vec.lean ====
section
/-! DEFINITION. What Serir's commands share (spec/06_vector.md R151-R157, R177, R183): operands, their checks in order, reading
and writing elements, masks, lane draws, passes; and the checks of tiles that Erg shares (spec/07_matrix.md R191). -/

namespace Sys2Proof.Machine

open Sys2Proof

/-- A fault of an engine's command: cause, QUAL, TINFO. -/
structure EFault where
  code : BitVec 8
  qual : BitVec 4
  info : W64
  deriving DecidableEq, Repr

/-- An operand as a command uses it (R152, R153): type and kind that its view must have, bits of an element, elements used,
whether it is written and whether it is read. -/
structure Use where
  opd : Opd
  type : Option VType
  kind : Option MxKind
  bits : Nat
  n : Nat
  dest : Bool
  reads : Bool
  deriving DecidableEq, Repr

/-- A source of n elements of a type. -/
def srcUse (o : Opd) (t : VType) (n : Nat) : Use :=
  { opd := o, type := some t, kind := none, bits := 8 * VType.size t, n := n, dest := false, reads := true }

/-- A destination of n elements of a type; reads: it is also a source. -/
def dstUse (o : Opd) (t : VType) (n : Nat) (reads : Bool) : Use :=
  { opd := o, type := some t, kind := none, bits := 8 * VType.size t, n := n, dest := true, reads := reads }

/-- The bytes that a use covers. -/
def Use.bytes (u : Use) : Nat := (u.n * u.bits + 7) / 8

/-- Illegal command (R75): TINFO holds the opcode of the head entry. -/
def Core.badCmd (k : Core) (e : Eng) (qual : BitVec 4) : EFault :=
  let opc := match (k.eng e).head with | some h => bitsOf h.word.toNat 40 8 | none => 0
  ⟨0x02, qual, BitVec.ofNat 64 opc⟩

/-- The URS address and the bytes of a view's row; none where the view is unset or has no such row (R78). -/
def Core.rowOf (k : Core) (v : Fin 8) (r : Nat) : Option (Nat × Nat) :=
  let w := k.serir.views[v]
  let len := (w.len.toNat + 1) * 256
  if w.set && r ≤ w.count.toNat then some (256 * w.base.toNat + r * len, len) else none

/-- The elements an operand holds when it gives the length (R152). -/
def Core.countOf (k : Core) (o : Opd) (bits : Nat) : Nat :=
  match o with
  | .row v r => match k.rowOf v r.val with | some p => p.2 * 8 / bits | none => 0
  | .sof _ => 2048 / bits
  | .latch => 2048 / bits
  | .scalar _ => 1

/-! ## Checks -/

/-- The view and row of an operand exist (R78). -/
def Core.viewOk (k : Core) (o : Opd) : Bool :=
  match o with
  | .row v r => (k.rowOf v r.val).isSome
  | _ => true

/-- The length of an operand (R152): QUAL 5 or 6. -/
def Core.lenFault (k : Core) (e : Eng) (u : Use) : Option EFault :=
  match u.opd with
  | .row v r => match k.rowOf v r.val with
    | some p => if p.2 < u.bytes then some (k.badCmd e 5) else none
    | none => none
  | .scalar _ => none
  | _ => if u.dest && decide (256 < u.bytes) then some (k.badCmd e 6) else none

/-- The type of an operand's view (R153): QUAL 4. -/
def Core.typeFault (k : Core) (e : Eng) (u : Use) : Option EFault :=
  match u.opd, u.type with
  | .row v _, some t =>
    let w := k.serir.views[v]
    if w.type = t && (match u.kind with | some x => w.kind == x | none => true) then none else some (k.badCmd e 4)
  | _, _ => none

/-- The first check that fails of views, lengths and types (R183, 1 to 3). -/
def Core.useFault (k : Core) (e : Eng) (us : List Use) : Option EFault :=
  if us.any fun u => !k.viewOk u.opd then some (k.badCmd e 5)
  else (us.findSome? (k.lenFault e)).or (us.findSome? (k.typeFault e))

/-- The tiles that the image declares. -/
def Core.tileCount (k : Core) : Nat := match k.unit with | some u => u.tiles | none => 0

/-- Bytes of the URS that meet a declared tile: the lowest such tile (R78). -/
def Core.coversTile (k : Core) (a n : Nat) : Option Nat :=
  let last := tileBase k.tileCount
  if 0 < n && 0 < k.tileCount && decide (tileBase 0 < a + n) && decide (a < last) then some ((max a (tileBase 0) - tileBase 0) / 8192) else none

/-- A view row covers a declared tile (R78). DESIGN CHOICE (notes/assumptions/99.md): R183's order of checks does not name it; it stands
behind the checks of types and shapes. -/
def Core.coverFault (k : Core) (us : List Use) : Option EFault :=
  us.findSome? fun u => match u.opd with
    | .row v r => match k.rowOf v r.val with
      | some p => (k.coversTile p.1 p.2).map fun t => ⟨0x0C, 1, BitVec.ofNat 64 t⟩
      | none => none
    | _ => none

/-- The lower of two rows. -/
def lowerOf (a b : Option Nat) : Option Nat :=
  match a, b with
  | some x, some y => some (min x y)
  | some x, none => some x
  | none, r => r

/-- The lowest invalid row that sources read (R79): byte ranges of the URS. -/
def Core.invalidRow (k : Core) (rs : List (Nat × Nat)) : Option Nat :=
  rs.foldl (fun m r => lowerOf m (firstInvalid k.valid r.1 r.2)) none

/-- The URS bytes that a use reads. -/
def Core.readRange (k : Core) (u : Use) : List (Nat × Nat) :=
  match u.opd with
  | .row v r => match k.rowOf v r.val with
    | some p => if u.reads then [(p.1, u.bytes)] else []
    | none => []
  | _ => []

/-- An invalid row among the sources (0x03). -/
def Core.invalidFault (k : Core) (rs : List (Nat × Nat)) : Option EFault :=
  (k.invalidRow rs).map fun r => ⟨0x03, 0, BitVec.ofNat 64 r⟩

/-- Bit e of the selected mask. -/
def Core.maskBit (k : Core) (e : Nat) : Bool := (k.serir.masks[k.serir.sel]).getLsbD e

/-- A command that may be masked acts on element e (R154). -/
def Core.active (k : Core) (m : Bool) (e : Nat) : Bool := !m || k.maskBit e

/-- The first uncorrectable byte of the URS that elements js read; elements of some bits stand from byte a on. A byte of two
elements counts for each. -/
def Core.ursBadAt (k : Core) (a bits : Nat) (js : List Nat) : Option EFault :=
  (k.ursBad.find? fun b =>
    decide (a ≤ b) && (js.contains ((b - a) * 8 / bits) || js.contains (((b - a) * 8 + 7) / bits))).map
    fun b => ⟨0x0B, 2, BitVec.ofNat 64 (b / 256)⟩

/-- The first uncorrectable byte of 256 that elements js read, repeated (R152): the bytes of a SOF entry or of the latch. R75
gives the row for QUAL 2, and these have none: TINFO is a free value (notes/assumptions/79.md). -/
def repeatBad (bad : List Nat) (a bits : Nat) (js : List Nat) : Option EFault :=
  (bad.find? fun b => decide (a ≤ b) && js.any fun e =>
    decide (a + e * (bits / 8) % 256 ≤ b) && decide (b < a + e * (bits / 8) % 256 + bits / 8)).map
    fun b => ⟨0x0B, 2, BitVec.ofNat 64 (Config.nearErrorRow b).toNat⟩

/-- Uncorrectable data in elements js of an operand (R172, R183: 0x0B, QUAL 2). -/
def Core.elemFault (k : Core) (o : Opd) (bits : Nat) (js : List Nat) : Option EFault :=
  match o with
  | .row v r => match k.rowOf v r.val with
    | some p => k.ursBadAt p.1 bits js
    | none => none
  | .sof i => repeatBad k.sofBad (256 * i.val) bits js
  | .latch => repeatBad k.latchBad 0 bits js
  | .scalar _ => none

/-- The elements lo to hi - 1 that a command acts on (R154). -/
def Core.actives (k : Core) (m : Bool) (lo hi : Nat) : List Nat :=
  ((List.range (hi - lo)).map (lo + ·)).filter fun e => k.active m e

/-- No byte near Serir is uncorrectable. -/
def Core.noBad (k : Core) : Bool := k.ursBad.isEmpty && k.sofBad.isEmpty && k.latchBad.isEmpty

/-- Uncorrectable bytes among the active elements lo to hi - 1 of the sources (0x0B, QUAL 2). -/
def Core.ursFault (k : Core) (m : Bool) (us : List Use) (lo hi : Nat) : Option EFault :=
  if k.noBad then none
  else us.findSome? fun u => if u.reads then k.elemFault u.opd u.bits (k.actives m lo hi) else none

/-! ## Tiles -/

/-- Tile number and owner (R177, R191: steps 1 and 2). -/
def Core.tileFault (k : Core) (n : Nat) : Option EFault :=
  if k.tileCount ≤ n then some ⟨0x0C, 2, BitVec.ofNat 64 (n % 32)⟩
  else match k.unit, k.tiles.toList[n]? with
    | some u, some t => if t.owner.toNat ≠ u.ctx then some ⟨0x0C, 0, BitVec.ofNat 64 n⟩ else none
    | _, _ => none

/-- Steps 1 and 2 for tiles in order. -/
def Core.tileFaults (k : Core) (ns : List Nat) : Option EFault := ns.findSome? k.tileFault

/-- Some tile is absent (R191, step 3). -/
def Core.anyAbsent (k : Core) (ns : List Nat) : Bool :=
  ns.any fun n => match k.tiles.toList[n]? with | some t => !t.present | none => false

/-- Absent tiles that a command needs start to fill (R202). -/
def Core.startFills (k : Core) (ns : List Nat) : Core :=
  { k with tiles := Vector.ofFn fun i =>
      let t := k.tiles[i]
      if ns.contains i.val && !t.present then { t with filling := true } else t }

/-- An engine's command stalls for tiles (R191): its wait stays consumed (R24). -/
def State.awaitTiles (s : State) (c : CoreId) (e : Eng) (ns : List Nat) (p : Prog) : State :=
  (s.modCore c fun k => k.startFills ns).holdFor c e p ns

/-- A command fails its checks. -/
def State.failCmd (s : State) (c : CoreId) (e : Eng) (f : EFault) : State := s.failEntry c e f.code f.qual f.info

/-- A long command fails after progress. -/
def State.faultCmd (s : State) (c : CoreId) (e : Eng) (p : Prog) (f : EFault) : State :=
  s.faultMid c e p f.code f.qual f.info

/-- The rows of a tile, as bytes of the URS. -/
def tileRange (n : Nat) : Nat × Nat := (tileBase n, 8192)

/-! ## Elements -/

/-- Numbers of some bytes each. -/
def chunks (size : Nat) : Nat → List Byte → List Nat
  | 0, _ => []
  | n + 1, bs => leNat (bs.take size) :: chunks size n (bs.drop size)

/-- Element i of 256 bytes that repeat (R152). -/
def repeated (size : Nat) (bs : List Byte) (i : Nat) : Nat := fieldNat bs ((i * size) % 256) size

/-- The patterns of elements lo to lo + n - 1 of an operand (R152). -/
def Core.patterns (k : Core) (o : Opd) (size lo n : Nat) : List Nat :=
  match o with
  | .row v r => match k.rowOf v r.val with
    | some p => chunks size n (getBytes k.urs (p.1 + lo * size) (n * size))
    | none => []
  | .sof i =>
    let bs := getBytes k.sof (256 * i.val) 256
    (List.range n).map fun j => repeated size bs (lo + j)
  | .latch =>
    let bs := getBytes k.latch 0 256
    (List.range n).map fun j => repeated size bs (lo + j)
  | .scalar z =>
    let x := k.serir.z[z].toNat % 2 ^ (8 * size)
    (List.range n).map fun _ => x

/-- The bytes of elements to write: none keeps what is there. -/
def maskedBytes (size : Nat) (vals : List (Option Nat)) : List (Bool × Byte) :=
  (vals.map fun v => match v with
    | some x => (leBytes size x).map fun b => (true, b)
    | none => List.replicate size (false, 0)).flatten

/-- The addresses that a masked write covers become good. -/
def clearBadMasked (bad : List Nat) (a : Nat) (l : List (Bool × Byte)) : List Nat :=
  if bad = [] then [] else bad.filter fun b => !(decide (a ≤ b) && (match l[b - a]? with | some p => p.1 | none => false))

/-- Write bytes of the URS under marks: every row touched becomes valid (R79). -/
def Core.putUrs (k : Core) (a : Nat) (l : List (Bool × Byte)) : Core :=
  { k with urs := putMasked k.urs a l, ursBad := clearBadMasked k.ursBad a l, valid := setValidBytes k.valid a l.length }

/-- Write elements lo on of a destination (R152, R154): a scalar takes element 0 and zeros above it. -/
def Core.putElems (k : Core) (o : Opd) (size lo : Nat) (vals : List (Option Nat)) : Core :=
  match o with
  | .row v r => match k.rowOf v r.val with
    | some p => k.putUrs (p.1 + lo * size) (maskedBytes size vals)
    | none => k
  | .sof i => { k with
      sof := putMasked k.sof (256 * i.val + lo * size) (maskedBytes size vals),
      sofBad := clearBadMasked k.sofBad (256 * i.val + lo * size) (maskedBytes size vals) }
  | .latch => { k with
      latch := putMasked k.latch (lo * size) (maskedBytes size vals),
      latchBad := clearBadMasked k.latchBad (lo * size) (maskedBytes size vals) }
  | .scalar z =>
    match vals with
    | some x :: _ =>
      if lo = 0 then { k with serir := { k.serir with z := k.serir.z.set z (BitVec.ofNat 64 (x % 2 ^ (8 * size))) } } else k
    | _ => k

/-- Values for elements lo on, those masked off left out. -/
def Core.gate (k : Core) (m : Bool) (lo : Nat) (vals : List Nat) : List (Option Nat) :=
  vals.zipIdx.map fun p => if k.active m (lo + p.2) then some p.1 else none

/-! ## Lane draws -/

/-- A step of a lane generator (R95). -/
def laneStep (x : W64) : W64 :=
  let a := x ^^^ (x <<< 13)
  let b := a ^^^ (a >>> 7)
  b ^^^ (b <<< 17)

/-- Draws for n elements from e on: bits [63:40] of each (R94, R95). -/
def drawLanes : Nat → Nat → Vector W64 64 → List Nat × Vector W64 64
  | 0, _, l => ([], l)
  | n + 1, e, l =>
    let i : Fin 64 := Fin.ofNat 64 e
    let x := laneStep l[i]
    let r := drawLanes n (e + 1) (l.set i x)
    (x.toNat / 2 ^ 40 :: r.1, r.2)

/-! ## Passes -/

/-- Passes of w elements from lo on, until n. -/
def runPasses (pass : Core → Nat → Nat → Except EFault Core) (w n : Nat) : Nat → Nat → Core → Except EFault Core
  | 0, _, k => .ok k
  | fuel + 1, lo, k =>
    if n ≤ lo then .ok k
    else match pass k lo (min n (lo + w)) with
      | .error f => .error f
      | .ok k1 => runPasses pass w n fuel (lo + w) k1

/-- The elements that the V stream's command has completed (R157). -/
def State.vecDone (s : State) : Nat :=
  match s.cur.vEng.phase with
  | .running (.elems d) => d
  | _ => 0

/-- Ceiling of a quotient. -/
def ceilDiv (a b : Nat) : Nat := (a + b - 1) / b

/-- Run a command in passes (R155-R157): a short one whole; a long one pass by pass, each charged as it completes. -/
def State.vecRun (s : State) (check : Option EFault) (n w busy : Nat) (long : Bool)
    (pass : Core → Nat → Nat → Except EFault Core) : State :=
  let done := s.vecDone
  let total := busy * ceilDiv n w
  if done = 0 && check.isSome then s.failCmd s.core .v (check.getD ⟨0, 0, 0⟩)
  else if !long then
    match runPasses pass w n (ceilDiv n w) 0 s.cur with
    | .error f => s.failCmd s.core .v f
    | .ok k => (s.setCore s.core k).workDone s.core .v total total 0 1
  else if n ≤ done then s.workDone s.core .v 0 total 0 1
  else
    match pass s.cur done (min n (done + w)) with
    | .error f => if done = 0 then s.failCmd s.core .v f else s.faultCmd s.core .v (.elems done) f
    | .ok k =>
      let t := (s.setCore s.core k).charge s.core busy 0
      if n ≤ done + w then t.workDone s.core .v 0 total 0 1 else t.holdEntry s.core .v (.elems (done + w))

/-- The bytes of a row operand that count for the span (R156). -/
def Use.span (u : Use) : Nat :=
  match u.opd with
  | .scalar _ => 0
  | _ => u.bytes

/-- A command marked "span" is long (R156): more than 4,096 bytes in one row operand. -/
def isLong (us : List Use) : Bool := us.any fun u => decide (4096 < u.span)

/-- One pass of an element-wise command (R155): draws, sources, result, masked write. f takes a, b, d, the mask bit and the
rounding of the element. -/
def Core.elemPass (k : Core) (m sr : Bool) (us : List Use) (d s1 : Opd) (s2 : Option Opd) (td t1 t2 : VType)
    (f : Nat → Nat → Nat → Bool → Rnd → Nat) (lo hi : Nat) : Except EFault Core :=
  match k.ursFault m us lo hi with
  | some x => .error x
  | none =>
    let n := hi - lo
    let (draws, lanes) := if sr then drawLanes n lo k.serir.lanes else ([], k.serir.lanes)
    let as := k.patterns s1 (VType.size t1) lo n
    let bs := match s2 with | some o => k.patterns o (VType.size t2) lo n | none => []
    let ds := k.patterns d (VType.size td) lo n
    let vals := as.zipIdx.map fun p =>
      f p.1 (bs.getD p.2 0) (ds.getD p.2 0) (k.maskBit (lo + p.2)) (if sr then .sr (draws.getD p.2 0) else .rne)
    .ok ({ k with serir := { k.serir with lanes := lanes } }.putElems d (VType.size td) lo (k.gate m lo vals))

/-- An element-wise command (R152-R158): n from the destination. -/
def State.elementwise (s : State) (m sr readsD : Bool) (d s1 : Opd) (s2 : Option Opd) (td t1 t2 : VType) (w busy : Nat)
    (f : Nat → Nat → Nat → Bool → Rnd → Nat) : State :=
  let k := s.cur
  let n := k.countOf d (8 * VType.size td)
  let us := [dstUse d td n readsD, srcUse s1 t1 n] ++ (match s2 with | some o => [srcUse o t2 n] | none => [])
  let long := isLong us
  let check := (k.useFault .v us).or ((k.coverFault us).or ((k.invalidFault (us.map k.readRange).flatten).or
    (if long then none else k.ursFault m us 0 n)))
  s.vecRun check n w busy long fun k lo hi => k.elemPass m sr us d s1 s2 td t1 t2 f lo hi

/-- The busy cycles and the defined count of a short command, after its effect. -/
def State.vecFinish (s : State) (k : Core) (busy count : Nat) : State :=
  (s.setCore s.core k).workDone s.core .v busy busy 0 count

/-- A short command that reads all its sources before it writes (R155). -/
def State.vecOnce (s : State) (check : Option EFault) (busy count : Nat) (f : Core → Core) : State :=
  match check with
  | some x => s.failCmd s.core .v x
  | none => s.vecFinish (f s.cur) busy count

end Sys2Proof.Machine
end

