-- ==== Sys2Proof/Machine/Serir.lean ====
section
/-! DEFINITION. Serir's element-wise commands, compares, masks and conversions (spec/06_vector.md R158-R164, R169, R178). Each
acts as the entry that the V stream of the current core has started. -/

namespace Sys2Proof.Machine

open Sys2Proof

/-! ## Element results (R158) -/

/-- A floating-point or wrapping integer result of two sources. -/
def vArith (fp : Num → Num → Num) (int : Int → Int → Int) (t : VType) (r : Rnd) (a b : Nat) : Nat :=
  if t.isFp then (vfmt t).encode r (fp (valueOf t a) (valueOf t b)) else wrapTo t (int (intOf t a) (intOf t b))

/-- a + b. -/
def vAdd : VType → Rnd → Nat → Nat → Nat := vArith Num.add (· + ·)

/-- a - b: the addends are the minuend and the negated subtrahend (R88). -/
def vSub : VType → Rnd → Nat → Nat → Nat := vArith (fun a b => a.add b.neg) (· - ·)

/-- a × b. -/
def vMul : VType → Rnd → Nat → Nat → Nat := vArith Num.mul (· * ·)

/-- d + a × b, rounded once (R88). -/
def vFma (t : VType) (r : Rnd) (a b d : Nat) : Nat :=
  (vfmt t).encode r ((valueOf t d).add ((valueOf t a).mul (valueOf t b)))

/-- The lesser of two elements (R88). -/
def vMin (t : VType) (a b : Nat) : Nat := vArith Num.minimum min t .rne a b

/-- The greater of two elements (R88). -/
def vMax (t : VType) (a b : Nat) : Nat := vArith Num.maximum max t .rne a b

/-- The magnitude: the sign bit cleared, or an integer that wraps. -/
def vAbs (t : VType) (a : Nat) : Nat :=
  if t.isFp then (vfmt t).encode .rne (valueOf t a).abs else wrapTo t (intOf t a).natAbs

/-- The negation: the sign bit inverted, or an integer that wraps. -/
def vNeg (t : VType) (a : Nat) : Nat :=
  if t.isFp then (vfmt t).encode .rne (valueOf t a).neg else wrapTo t (-(intOf t a))

/-- The bits of a type. -/
def widthOf (t : VType) : Nat := 8 * VType.size t

/-- a shifted left by b mod width. -/
def vShl (t : VType) (a b : Nat) : Nat := a * 2 ^ (b % widthOf t) % 2 ^ widthOf t

/-- a shifted right logically by b mod width. -/
def vShr (t : VType) (a b : Nat) : Nat := a / 2 ^ (b % widthOf t)

/-- a shifted right arithmetically, logically for UINT8. -/
def vSra (t : VType) (a b : Nat) : Nat := wrapTo t (intOf t a / ((2 ^ (b % widthOf t) : Nat) : Int))

/-- d + a × b in INT32. -/
def vMac8 (t : VType) (a b d : Nat) : Nat := wrapNat 32 (sextInt 32 d + intOf t a * intOf t b)

/-- Elements of a pass for a type (R156). -/
def passWidth (t : VType) : Nat := 256 / VType.size t

/-- A command of two sources of the type T. -/
def State.vec2 (s : State) (t : VType) (m : Bool) (d a b : Opd) (f : Nat → Nat → Nat) : Host.Outcome State Fault Refusal :=
  .next (s.elementwise m false false d a (some b) t t t (passWidth t) 1 fun x y _ _ _ => f x y)

/-- A command of one source of the type T. -/
def State.vec1 (s : State) (t : VType) (m : Bool) (d a : Opd) (f : Nat → Nat) : Host.Outcome State Fault Refusal :=
  .next (s.elementwise m false false d a none t t t (passWidth t) 1 fun x _ _ _ _ => f x)

/-- VADD (R158). -/
def execVadd (_y : Sync) (t : VType) (m : Bool) (d a b : Opd) (s : State) : Host.Outcome State Fault Refusal :=
  s.vec2 t m d a b (vAdd t .rne)

/-- VSUB (R158). -/
def execVsub (_y : Sync) (t : VType) (m : Bool) (d a b : Opd) (s : State) : Host.Outcome State Fault Refusal :=
  s.vec2 t m d a b (vSub t .rne)

/-- VMUL (R158). -/
def execVmul (_y : Sync) (t : VType) (m : Bool) (d a b : Opd) (s : State) : Host.Outcome State Fault Refusal :=
  s.vec2 t m d a b (vMul t .rne)

/-- A multiply-add with its rounding: the destination is also read. -/
def State.vecFma (s : State) (t : VType) (m sr : Bool) (d a b : Opd) (r : Rnd → Rnd) : Host.Outcome State Fault Refusal :=
  .next (s.elementwise m sr true d a (some b) t t t (passWidth t) 1 fun x y z _ u => vFma t (r u) x y z)

/-- VFMA (R158). -/
def execVfma (_y : Sync) (t : VType) (m : Bool) (d a b : Opd) (s : State) : Host.Outcome State Fault Refusal :=
  s.vecFma t m false d a b fun _ => .rne

/-- VADD_RZ (R159). -/
def execVaddRz (_y : Sync) (t : VType) (m : Bool) (d a b : Opd) (s : State) : Host.Outcome State Fault Refusal :=
  s.vec2 t m d a b (vAdd t .rtz)

/-- VSUB_RZ (R159). -/
def execVsubRz (_y : Sync) (t : VType) (m : Bool) (d a b : Opd) (s : State) : Host.Outcome State Fault Refusal :=
  s.vec2 t m d a b (vSub t .rtz)

/-- VMUL_RZ (R159). -/
def execVmulRz (_y : Sync) (t : VType) (m : Bool) (d a b : Opd) (s : State) : Host.Outcome State Fault Refusal :=
  s.vec2 t m d a b (vMul t .rtz)

/-- VFMA_RZ (R159). -/
def execVfmaRz (_y : Sync) (t : VType) (m : Bool) (d a b : Opd) (s : State) : Host.Outcome State Fault Refusal :=
  s.vecFma t m false d a b fun _ => .rtz

/-- A conversion (R163): source type T, destination type D, its rounding. -/
def State.vecCvt (s : State) (t : VType) (m sr : Bool) (d a : Opd) (dt : VType) (r : Rnd → Rnd) :
    Host.Outcome State Fault Refusal :=
  .next (s.elementwise m sr false d a none dt t t (256 / max (VType.size t) (VType.size dt)) 1
    fun x _ _ _ u => convertTo dt (r u) (valueOf t x))

/-- VCVT_RZ (R159, R163). -/
def execVcvtRz (_y : Sync) (t : VType) (m : Bool) (d a : Opd) (dt : VType) (s : State) : Host.Outcome State Fault Refusal :=
  s.vecCvt t m false d a dt fun _ => .rtz

/-- A stochastic command of two sources (R94, R95, R159). -/
def State.vecSr (s : State) (t : VType) (m : Bool) (d a b : Opd) (f : Rnd → Nat → Nat → Nat) :
    Host.Outcome State Fault Refusal :=
  .next (s.elementwise m true false d a (some b) t t t (passWidth t) 1 fun x y _ _ u => f u x y)

/-- VADD_SR (R159). -/
def execVaddSr (_y : Sync) (t : VType) (m : Bool) (d a b : Opd) (s : State) : Host.Outcome State Fault Refusal :=
  s.vecSr t m d a b (vAdd t)

/-- VSUB_SR (R159). -/
def execVsubSr (_y : Sync) (t : VType) (m : Bool) (d a b : Opd) (s : State) : Host.Outcome State Fault Refusal :=
  s.vecSr t m d a b (vSub t)

/-- VMUL_SR (R159). -/
def execVmulSr (_y : Sync) (t : VType) (m : Bool) (d a b : Opd) (s : State) : Host.Outcome State Fault Refusal :=
  s.vecSr t m d a b (vMul t)

/-- VFMA_SR (R159). -/
def execVfmaSr (_y : Sync) (t : VType) (m : Bool) (d a b : Opd) (s : State) : Host.Outcome State Fault Refusal :=
  s.vecFma t m true d a b id

/-- VCVT_SR (R159, R163). -/
def execVcvtSr (_y : Sync) (t : VType) (m : Bool) (d a : Opd) (dt : VType) (s : State) : Host.Outcome State Fault Refusal :=
  s.vecCvt t m true d a dt id

/-- VCVT (R163). -/
def execVcvt (_y : Sync) (t : VType) (m : Bool) (d a : Opd) (dt : VType) (s : State) : Host.Outcome State Fault Refusal :=
  s.vecCvt t m false d a dt fun _ => .rne

/-- VMIN (R158). -/
def execVmin (_y : Sync) (t : VType) (m : Bool) (d a b : Opd) (s : State) : Host.Outcome State Fault Refusal :=
  s.vec2 t m d a b (vMin t)

/-- VMAX (R158). -/
def execVmax (_y : Sync) (t : VType) (m : Bool) (d a b : Opd) (s : State) : Host.Outcome State Fault Refusal :=
  s.vec2 t m d a b (vMax t)

/-- VABS (R158). -/
def execVabs (_y : Sync) (t : VType) (m : Bool) (d a : Opd) (s : State) : Host.Outcome State Fault Refusal :=
  s.vec1 t m d a (vAbs t)

/-- VNEG (R158). -/
def execVneg (_y : Sync) (t : VType) (m : Bool) (d a : Opd) (s : State) : Host.Outcome State Fault Refusal :=
  s.vec1 t m d a (vNeg t)

/-- A function of R105 on FP32: passes of 64 elements, four cycles each. -/
def State.vecFun (s : State) (m : Bool) (d a : Opd) (f : Fun1) : Host.Outcome State Fault Refusal :=
  .next (s.elementwise m false false d a none .fp32 .fp32 .fp32 64 4 fun x _ _ _ _ => fun1 f x)

/-- VEXP2 (R105). -/
def execVexp2 (_y : Sync) (m : Bool) (d a : Opd) (s : State) : Host.Outcome State Fault Refusal := s.vecFun m d a .exp2

/-- VLOG2 (R105). -/
def execVlog2 (_y : Sync) (m : Bool) (d a : Opd) (s : State) : Host.Outcome State Fault Refusal := s.vecFun m d a .log2

/-- VRCP (R105). -/
def execVrcp (_y : Sync) (m : Bool) (d a : Opd) (s : State) : Host.Outcome State Fault Refusal := s.vecFun m d a .rcp

/-- VRSQ (R105). -/
def execVrsq (_y : Sync) (m : Bool) (d a : Opd) (s : State) : Host.Outcome State Fault Refusal := s.vecFun m d a .rsq

/-- VSQRT (R105). -/
def execVsqrt (_y : Sync) (m : Bool) (d a : Opd) (s : State) : Host.Outcome State Fault Refusal := s.vecFun m d a .sqrt

/-- VMAC8 (R158): the destination is INT32 and also read. -/
def execVmac8 (_y : Sync) (t : VType) (m : Bool) (d a b : Opd) (s : State) : Host.Outcome State Fault Refusal :=
  .next (s.elementwise m false true d a (some b) .int32 t t 256 1 fun x y z _ _ => vMac8 t x y z)

/-- VADDS (R158): exact, then clamped. -/
def execVadds (_y : Sync) (t : VType) (m : Bool) (d a b : Opd) (s : State) : Host.Outcome State Fault Refusal :=
  s.vec2 t m d a b fun x y => satTo t (intOf t x + intOf t y)

/-- VSUBS (R158). -/
def execVsubs (_y : Sync) (t : VType) (m : Bool) (d a b : Opd) (s : State) : Host.Outcome State Fault Refusal :=
  s.vec2 t m d a b fun x y => satTo t (intOf t x - intOf t y)

/-- VAND (R158). -/
def execVand (_y : Sync) (t : VType) (m : Bool) (d a b : Opd) (s : State) : Host.Outcome State Fault Refusal :=
  s.vec2 t m d a b fun x y => x &&& y

/-- VOR (R158). -/
def execVor (_y : Sync) (t : VType) (m : Bool) (d a b : Opd) (s : State) : Host.Outcome State Fault Refusal :=
  s.vec2 t m d a b fun x y => x ||| y

/-- VXOR (R158). -/
def execVxor (_y : Sync) (t : VType) (m : Bool) (d a b : Opd) (s : State) : Host.Outcome State Fault Refusal :=
  s.vec2 t m d a b fun x y => x ^^^ y

/-- VSHL (R158). -/
def execVshl (_y : Sync) (t : VType) (m : Bool) (d a b : Opd) (s : State) : Host.Outcome State Fault Refusal :=
  s.vec2 t m d a b (vShl t)

/-- VSHR (R158). -/
def execVshr (_y : Sync) (t : VType) (m : Bool) (d a b : Opd) (s : State) : Host.Outcome State Fault Refusal :=
  s.vec2 t m d a b (vShr t)

/-- VSRA (R158). -/
def execVsra (_y : Sync) (t : VType) (m : Bool) (d a b : Opd) (s : State) : Host.Outcome State Fault Refusal :=
  s.vec2 t m d a b (vSra t)

/-- VRSHR (R92, R158): an INT32 source, shifted with rounding and clamped to T; passes of 64. -/
def execVrshr (_y : Sync) (t : VType) (m : Bool) (d a : Opd) (sh : Fin 32) (s : State) : Host.Outcome State Fault Refusal :=
  .next (s.elementwise m false false d a none t .int32 .int32 64 1 fun x _ _ _ _ =>
    wrapTo t (roundShiftRight (sextInt 32 x) sh.val (intRange t).1 (intRange t).2))

/-- VSEL (R161): the element is copied unchanged. -/
def execVsel (_y : Sync) (t : VType) (d a b : Opd) (s : State) : Host.Outcome State Fault Refusal :=
  .next (s.elementwise false false false d a (some b) t t t (passWidth t) 1 fun x y _ sel _ => if sel then x else y)

/-- VBCST (R169): a scalar or a repeated SOF entry fills the destination. -/
def execVbcst (_y : Sync) (t : VType) (m : Bool) (d a : Opd) (s : State) : Host.Outcome State Fault Refusal :=
  s.vec1 t m d a id

/-! ## Compares and masks (R160, R162) -/

/-- Replace bit e of a mask. -/
def putBit (v : BitVec 16384) (e : Nat) (b : Bool) : BitVec 16384 :=
  if b then v ||| (1#16384 <<< e) else v &&& ~~~(1#16384 <<< e)

/-- Write mask register j. -/
def Core.setMask (k : Core) (j : Fin 8) (v : BitVec 16384) : Core :=
  { k with serir := { k.serir with masks := k.serir.masks.set j v } }

/-- One pass of a compare (R160): the selected mask is read before the destination mask is written. -/
def Core.comparePass (k : Core) (m : Bool) (us : List Use) (t : VType) (j : Fin 8) (a b : Opd) (n : Nat)
    (f : Nat → Nat → Bool) (lo hi : Nat) : Except EFault Core :=
  match k.ursFault m us lo hi with
  | some x => .error x
  | none =>
    let xs := k.patterns a (VType.size t) lo (hi - lo)
    let ys := k.patterns b (VType.size t) lo (hi - lo)
    let base := if m then k.serir.masks[j] else k.serir.masks[j] &&& ((1#16384 <<< n) - 1)
    .ok (k.setMask j (xs.zipIdx.foldl (fun v p =>
      if k.active m (lo + p.2) then putBit v (lo + p.2) (f p.1 (ys.getD p.2 0)) else v) base))

/-- A compare (R160): n from source 1. -/
def State.compare (s : State) (t : VType) (m : Bool) (j : Fin 8) (a b : Opd) (f : Nat → Nat → Bool) :
    Host.Outcome State Fault Refusal :=
  let k := s.cur
  let n := k.countOf a (8 * VType.size t)
  let us := [srcUse a t n, srcUse b t n]
  let long := isLong us
  let check := (k.useFault .v us).or ((k.coverFault us).or ((k.invalidFault (us.map k.readRange).flatten).or
    (if long then none else k.ursFault m us 0 n)))
  .next (s.vecRun check n (passWidth t) 1 long fun k lo hi => k.comparePass m us t j a b n f lo hi)

/-- a = b in R88's order. -/
def vEq (t : VType) (a b : Nat) : Bool := if t.isFp then (valueOf t a).eq (valueOf t b) else intOf t a == intOf t b

/-- a < b in R88's order. -/
def vLt (t : VType) (a b : Nat) : Bool := if t.isFp then (valueOf t a).lt (valueOf t b) else decide (intOf t a < intOf t b)

/-- VCEQ (R160). -/
def execVceq (_y : Sync) (t : VType) (m : Bool) (j : Fin 8) (a b : Opd) (s : State) : Host.Outcome State Fault Refusal :=
  s.compare t m j a b (vEq t)

/-- VCNE (R160): 1 where a NaN makes the operands unordered (R88). -/
def execVcne (_y : Sync) (t : VType) (m : Bool) (j : Fin 8) (a b : Opd) (s : State) : Host.Outcome State Fault Refusal :=
  s.compare t m j a b fun x y => !vEq t x y

/-- VCLT (R160). -/
def execVclt (_y : Sync) (t : VType) (m : Bool) (j : Fin 8) (a b : Opd) (s : State) : Host.Outcome State Fault Refusal :=
  s.compare t m j a b (vLt t)

/-- VCLE (R160). -/
def execVcle (_y : Sync) (t : VType) (m : Bool) (j : Fin 8) (a b : Opd) (s : State) : Host.Outcome State Fault Refusal :=
  s.compare t m j a b fun x y => vLt t x y || vEq t x y

/-- A command on whole masks: one busy cycle. -/
def State.maskOp (s : State) (f : Core → Core) : Host.Outcome State Fault Refusal := .next (s.vecFinish (f s.cur) 1 1)

/-- VMSK (R162). -/
def execVmsk (_y : Sync) (j : Fin 8) (s : State) : Host.Outcome State Fault Refusal :=
  s.maskOp fun k => { k with serir := { k.serir with sel := j } }

/-- VMAND (R162). -/
def execVmand (_y : Sync) (d a b : Fin 8) (s : State) : Host.Outcome State Fault Refusal :=
  s.maskOp fun k => k.setMask d (k.serir.masks[a] &&& k.serir.masks[b])

/-- VMOR (R162). -/
def execVmor (_y : Sync) (d a b : Fin 8) (s : State) : Host.Outcome State Fault Refusal :=
  s.maskOp fun k => k.setMask d (k.serir.masks[a] ||| k.serir.masks[b])

/-- VMXOR (R162). -/
def execVmxor (_y : Sync) (d a b : Fin 8) (s : State) : Host.Outcome State Fault Refusal :=
  s.maskOp fun k => k.setMask d (k.serir.masks[a] ^^^ k.serir.masks[b])

/-- VMNOT (R162). -/
def execVmnot (_y : Sync) (d a : Fin 8) (s : State) : Host.Outcome State Fault Refusal :=
  s.maskOp fun k => k.setMask d (~~~k.serir.masks[a])

/-- VMPOP (R162): the defined count is the number. -/
def execVmpop (_y : Sync) (z : Fin 16) (a : Fin 8) (s : State) : Host.Outcome State Fault Refusal :=
  let n := popNat (s.cur.serir.masks[a]).toNat 16384
  .next (s.vecFinish { s.cur with serir := { s.cur.serir with z := s.cur.serir.z.set z (BitVec.ofNat 64 n) } } 1 n)

/-- VVIEW (R178): the view is set, and its deferral queue is emptied (R182). -/
def execVview (_y : Sync) (t : VType) (w : Fin 8) (base : BitVec 11) (len : BitVec 6) (count : BitVec 11) (kd : MxKind)
    (s : State) : Host.Outcome State Fault Refusal :=
  s.maskOp fun k =>
    { k with serir := { k.serir with
        views := k.serir.views.set w { set := true, type := t, kind := kd, base := base, len := len, count := count },
        queues := k.serir.queues.set w none } }

end Sys2Proof.Machine
end

