-- ==== Sys2Proof/Machine/SerirMove.lean ====
section
/-! DEFINITION. Serir's reductions, rearrangement, quantisation, scratchpad and accumulator access, and deferral queues
(spec/06_vector.md R164-R168, R170-R177, R179-R182). -/

namespace Sys2Proof.Machine

open Sys2Proof

/-! ## Reductions and rearrangement -/

/-- The checks of a short command. -/
def Core.vecCheck (k : Core) (m : Bool) (us : List Use) (extra : Option EFault) : Option EFault :=
  (k.useFault .v us).or ((k.coverFault us).or (extra.or ((k.invalidFault (us.map k.readRange).flatten).or
    (us.findSome? fun u => k.ursFault m [u] 0 u.n))))

/-- The sum of values (R104): exact; signed zeros by R104. -/
def sumNum (vs : List Num) : Num :=
  match vs with
  | [] => .fin false 0 0
  | v :: r => r.foldl Num.add v

/-- VRED's result over elements (R104, R168). -/
def vReduce (op : RedOp) (t : VType) (vs : List Nat) : Nat :=
  match vs with
  | [] => 0
  | v :: r =>
    match op with
    | .add => if t.isFp then (vfmt t).encode .rne (sumNum (vs.map (valueOf t)))
              else wrapTo t ((vs.map (intOf t)).foldl (· + ·) 0)
    | .min => if t.isFp then (vfmt t).encode .rne ((r.map (valueOf t)).foldl Num.minimum (valueOf t v)) else r.foldl (vMin t) v
    | .max => if t.isFp then (vfmt t).encode .rne ((r.map (valueOf t)).foldl Num.maximum (valueOf t v)) else r.foldl (vMax t) v

/-- VRED (R168): n from source 1; the destination takes one element (notes/assumptions/28.md). -/
def execVred (_y : Sync) (t : VType) (m : Bool) (d a : Opd) (op : RedOp) (s : State) : Host.Outcome State Fault Refusal :=
  let k := s.cur
  let n := k.countOf a (8 * VType.size t)
  let us := [dstUse d t 1 false, srcUse a t n]
  let vals := ((k.patterns a (VType.size t) 0 n).zipIdx.filter fun p => k.active m p.2).map (·.1)
  .next (s.vecOnce (k.vecCheck m us none) (ceilDiv n (passWidth t) + 6) 1 fun k =>
    k.putElems d (VType.size t) 0 [some (vReduce op t vals)])

/-- VPERM (R170). Source rows are checked for validity over the first n elements (R79); uncorrectable data counts where an
active element reads it (R154): the index, then the element of source 1 that it names. -/
def execVperm (_y : Sync) (t : VType) (m : Bool) (d a i : Opd) (s : State) : Host.Outcome State Fault Refusal :=
  let k := s.cur
  let n := k.countOf d (8 * VType.size t)
  let n1 := k.countOf a (8 * VType.size t)
  let us := [dstUse d t n false, srcUse a t n, srcUse i .int32 n]
  let src := k.patterns a (VType.size t) 0 n1
  let idx := (k.patterns i 4 0 n).map (sextInt 32)
  let vals := idx.map fun j => if j < 0 ∨ (n1 : Int) ≤ j then 0 else src.getD j.toNat 0
  let read := (k.actives m 0 n).filterMap fun e =>
    let j := idx.getD e 0
    if j < 0 ∨ (n1 : Int) ≤ j then none else some j.toNat
  let check := (k.useFault .v us).or ((k.coverFault us).or ((k.invalidFault (us.map k.readRange).flatten).or
    ((k.ursFault m [srcUse i .int32 n] 0 n).or (k.elemFault a (8 * VType.size t) read))))
  .next (s.vecOnce check (2 * ceilDiv n (passWidth t)) 1 fun k => k.putElems d (VType.size t) 0 (k.gate m 0 vals))

/-- VTRN (R171): n a multiple of 32, source 1 of exactly n elements. An active destination element reads the element of
source 1 that moves to it (R154). -/
def execVtrn (_y : Sync) (t : VType) (m : Bool) (d a : Opd) (s : State) : Host.Outcome State Fault Refusal :=
  let k := s.cur
  let n := k.countOf d (8 * VType.size t)
  let us := [dstUse d t n false, srcUse a t n]
  let shape := if k.viewOk d && k.viewOk a && (n % 32 != 0 || k.countOf a (8 * VType.size t) != n) then some (k.badCmd .v 5)
    else none
  let q := n / 32
  let src := k.patterns a (VType.size t) 0 n
  let vals := (List.range n).map fun e => src.getD (32 * (e % q) + e / q) 0
  let read := (k.actives m 0 n).map fun e => 32 * (e % q) + e / q
  let check := (if k.viewOk d && k.viewOk a then none else some (k.badCmd .v 5)).or (shape.or ((k.useFault .v us).or
    ((k.coverFault us).or ((k.invalidFault (us.map k.readRange).flatten).or (k.elemFault a (8 * VType.size t) read)))))
  .next (s.vecOnce check (2 * ceilDiv n (passWidth t)) 1 fun k => k.putElems d (VType.size t) 0 (k.gate m 0 vals))

/-! ## Quantisation -/

/-- Groups of 32. -/
def groups32 {α : Type} : Nat → List α → List (List α)
  | 0, _ => []
  | n + 1, l => l.take 32 :: groups32 n (l.drop 32)

/-- The scale of a group for a target (R164). -/
def targetScale (k : QTarget) (vs : List Num) : Nat :=
  match k with
  | .e4m3 => mxScale .e4m3 vs
  | .e5m2 => mxScale .e5m2 vs
  | .e2m1 => mxScale .e2m1 vs
  | .int8 => mxScale .int8 vs
  | .pb => planarScale vs false

/-- n is a multiple of g, else QUAL 5. -/
def Core.multipleOf (k : Core) (n g : Nat) : Option EFault := if n % g = 0 then none else some (k.badCmd .v 5)

/-- VSCL (R164): one scale byte for each 32 elements. -/
def execVscl (_y : Sync) (t : VType) (d a : Opd) (kd : QTarget) (s : State) : Host.Outcome State Fault Refusal :=
  let k := s.cur
  let n := k.countOf a (8 * VType.size t)
  let us := [dstUse d .uint8 (n / 32) false, srcUse a t n]
  let vs := (k.patterns a (VType.size t) 0 n).map (valueOf t)
  .next (s.vecOnce ((if k.viewOk d then k.multipleOf n 32 else none).or (k.vecCheck false us none))
    (2 * ceilDiv n (passWidth t)) 1 fun k =>
      k.putElems d 1 0 ((groups32 (n / 32) vs).map fun g => some (targetScale kd g)))

/-- Pack elements of 4 or 8 bits (R86). -/
def packBits (bits : Nat) (els : List Nat) : List Nat :=
  if bits = 4 then packPairs els else els
where
  /-- Two elements of four bits in each byte. -/
  packPairs : List Nat → List Nat
    | a :: b :: r => (a + 16 * b) :: packPairs r
    | [a] => [a]
    | [] => []

/-- Bytes at the start of a destination, then scale bytes of SOF entry j (R165, R166). -/
def Core.putQuant (k : Core) (d : Opd) (data : List Nat) (j : Fin 16) (scales : List Nat) : Core :=
  (k.putElems d 1 0 (data.map some)).putElems (.sof j) 1 0 (scales.map some)

/-- VQNT to an MX target (R165). -/
def execVqnt (_y : Sync) (t : VType) (d a : Opd) (kd : MxKind) (j : Fin 16) (s : State) : Host.Outcome State Fault Refusal :=
  let k := s.cur
  let n := k.countOf a (8 * VType.size t)
  let us : List Use := [{ opd := d, type := some .mx, kind := some kd, bits := mxBits kd, n := n, dest := true, reads := false },
                        srcUse a t n]
  let blocks := (groups32 (n / 32) ((k.patterns a (VType.size t) 0 n).map (valueOf t))).map (mxBlock kd)
  .next (s.vecOnce ((if k.viewOk d then k.multipleOf n 32 else none).or (k.vecCheck false us none))
    (2 * ceilDiv n (passWidth t)) 1 fun k =>
      k.putQuant d (packBits (mxBits kd) (blocks.map (·.2)).flatten) j (blocks.map (·.1)))

/-- The bytes of one planar block from its 32 rows of elements (R82): planes in order, row m a 32-bit word. -/
def planeBytes (p : Nat) (rows : List (List Int)) : List Byte :=
  ((List.range p).map fun i => (rows.map fun r => leBytes 4 (planeWord i r 0)).flatten).flatten
where
  /-- Bit i of each element of a row. -/
  planeWord (i : Nat) : List Int → Nat → Nat
    | [], _ => 0
    | m :: r, k => (if (wrapNat 16 m).testBit i then 2 ^ k else 0) + planeWord i r (k + 1)

/-- VQNT to the planar-block target (R166). -/
def execVqntPb (_y : Sync) (t : VType) (d a : Opd) (p : Fin 16) (j : Fin 16) (s : State) : Host.Outcome State Fault Refusal :=
  let k := s.cur
  let n := k.countOf a (8 * VType.size t)
  let prec := p.val + 1
  let us := [dstUse d .uint8 (128 * prec * (n / 1024)) false, srcUse a t n]
  let rows := (groups32 (n / 32) ((k.patterns a (VType.size t) 0 n).map (valueOf t))).map fun g => planarRow prec g false
  let data := ((groups32 (n / 1024) (rows.map (·.2))).map (planeBytes prec)).flatten.map fun b => b.toNat
  .next (s.vecOnce ((if k.viewOk d then k.multipleOf n 1024 else none).or (k.vecCheck false us none))
    (2 * ceilDiv n (passWidth t)) 1 fun k => k.putQuant d data j (rows.map (·.1)))

/-- Uncorrectable data that the active elements lo to hi - 1 of VDEQ read: their source elements and scale bytes (R167). -/
def Core.deqFault (k : Core) (m : Bool) (kd : MxKind) (a b : Opd) (lo hi : Nat) : Option EFault :=
  if k.noBad then none
  else (k.elemFault a (mxBits kd) (k.actives m lo hi)).or (k.elemFault b 8 ((k.actives m lo hi).map (· / 32)))

/-- One pass of VDEQ (R90, R167). -/
def Core.deqPass (k : Core) (m : Bool) (kd : MxKind) (d a b : Opd) (lo hi : Nat) : Except EFault Core :=
  match k.deqFault m kd a b lo hi with
  | some x => .error x
  | none =>
    let bytes := match a with
      | .row v r => match k.rowOf v r.val with
        | some p => getBytes k.urs (p.1 + lo * mxBits kd / 8) ((hi - lo) * mxBits kd / 8 + 1)
        | none => []
      | _ => []
    let scale (e : Nat) : Nat := (k.patterns b 1 (e / 32) 1).headD 0
    let vals := (List.range (hi - lo)).map fun i =>
      let bits := if mxBits kd = 4 then fieldNat bytes (i / 2) 1 / 16 ^ (i % 2) % 16 else fieldNat bytes i 1
      fmtFp32.encode .rne (mxValue kd bits (scale (lo + i)))
    .ok (k.putElems d 4 lo (k.gate m lo vals))

/-- VDEQ (R167). -/
def execVdeq (_y : Sync) (m : Bool) (d a b : Opd) (s : State) : Host.Outcome State Fault Refusal :=
  let k := s.cur
  let kd := match a with | .row v _ => k.serir.views[v].kind | _ => .e4m3
  let n := k.countOf d 32
  let src : Use := { opd := a, type := some .mx, kind := none, bits := mxBits kd, n := n, dest := false, reads := true }
  let scl := srcUse b .uint8 (ceilDiv n 32)
  let us := [dstUse d .fp32 n false, src, scl]
  let long := isLong us
  let check := (k.useFault .v us).or ((k.coverFault us).or ((k.invalidFault (us.map k.readRange).flatten).or
    (if long then none else k.deqFault m kd a b 0 n)))
  .next (s.vecRun check n 64 1 long fun k lo hi => k.deqPass m kd d a b lo hi)

/-! ## Scratchpad -/

/-- The local-window address of a scratchpad offset, which may lie outside (R124, R172, R189). -/
def localVa (off : Int) : A80 := BitVec.ofInt 80 (((2 ^ 58 - 1) * 2 ^ 22 : Nat) + off)

/-- A scratchpad range passes the end (R172). -/
def pastSpad (off n : Nat) : Option EFault :=
  if 2 ^ 22 < off + n then some ⟨0x05, 0, infoOf (localVa off)⟩ else none

/-- An uncorrectable byte of the scratchpad. -/
def Core.spadFault (k : Core) (off n : Nat) : Option EFault :=
  (firstBad k.spadBad off n).map fun b => ⟨0x0B, 1, BitVec.ofNat 64 b⟩

/-- The bytes of VLD's and VST's operand (R152, R172). -/
def Core.ldBytes (k : Core) (o : Opd) : Nat :=
  match o with
  | .row v r => match k.rowOf v r.val with | some p => p.2 | none => 0
  | .scalar _ => 8
  | _ => 256

/-- Uncorrectable scratchpad words among elements lo to hi - 1 that move. -/
def Core.ldFault (k : Core) (m : Bool) (off lo hi : Nat) : Option EFault :=
  if k.spadBad = [] then none
  else (List.range (hi - lo)).findSome? fun i =>
    if k.active m (lo + i) then k.spadFault (off + 4 * (lo + i)) 4 else none

/-- The words of a VLD or VST operand: a scalar holds two. -/
def Core.ldWords (k : Core) (o : Opd) (lo n : Nat) : List Nat :=
  match o with
  | .scalar z => (List.range n).map fun i => k.serir.z[z].toNat / 2 ^ (32 * (lo + i)) % 2 ^ 32
  | _ => k.patterns o 4 lo n

/-- Write the words of a VLD operand. -/
def Core.putWords (k : Core) (o : Opd) (lo : Nat) (vals : List (Option Nat)) : Core :=
  match o with
  | .scalar z =>
    let old := k.serir.z[z].toNat
    let word (i : Nat) : Nat := (vals.getD i none).getD (old / 2 ^ (32 * i) % 2 ^ 32)
    { k with serir := { k.serir with z := k.serir.z.set z (BitVec.ofNat 64 (word 0 + 2 ^ 32 * word 1)) } }
  | _ => k.putElems o 4 lo vals

/-- The use of VLD's and VST's operand: any type, words. -/
def ldUse (o : Opd) (n : Nat) (dest : Bool) : Use :=
  { opd := o, type := none, kind := none, bits := 32, n := n, dest := dest, reads := !dest }

/-- VLD (R172). -/
def execVld (_y : Sync) (m : Bool) (d : Opd) (off : BitVec 22) (s : State) : Host.Outcome State Fault Refusal :=
  let k := s.cur
  let n := k.ldBytes d / 4
  let us := [ldUse d n true]
  let long := isLong us
  let check := (k.useFault .v us).or ((k.coverFault us).or ((pastSpad off.toNat (4 * n)).or
    (if long then none else k.ldFault m off.toNat 0 n)))
  .next (s.vecRun check n 512 1 long fun k lo hi =>
    match k.ldFault m off.toNat lo hi with
    | some f => .error f
    | none => .ok (k.putWords d lo (k.gate m lo (chunks 4 (hi - lo) (getBytes k.spad (off.toNat + 4 * lo) (4 * (hi - lo)))))))

/-- Write words of the scratchpad. -/
def Core.putSpad (k : Core) (a : Nat) (l : List (Bool × Byte)) : Core :=
  { k with spad := putMasked k.spad a l, spadBad := clearBadMasked k.spadBad a l }

/-- VST (R172). -/
def execVst (_y : Sync) (m : Bool) (d : Opd) (off : BitVec 22) (s : State) : Host.Outcome State Fault Refusal :=
  let k := s.cur
  let n := k.ldBytes d / 4
  let us := [ldUse d n false]
  let long := isLong us
  let check := (k.useFault .v us).or ((k.coverFault us).or ((k.invalidFault (us.map k.readRange).flatten).or
    ((pastSpad off.toNat (4 * n)).or (if long then none else k.ursFault m us 0 n))))
  .next (s.vecRun check n 512 1 long fun k lo hi =>
    match k.ursFault m us lo hi with
    | some f => .error f
    | none => .ok (k.putSpad (off.toNat + 4 * lo) (maskedBytes 4 (k.gate m lo (k.ldWords d lo (hi - lo))))))

/-- The element numbers and addresses of a step of VGATH or VSCAT (R173): only elements that make an access. -/
def Core.gatherAddrs (k : Core) (t : VType) (m : Bool) (i : Opd) (z : Fin 16) (lo hi : Nat) : List (Nat × Int) :=
  let base : Int := (k.serir.z[z].toNat % 2 ^ 22 : Nat)
  ((k.patterns i 4 lo (hi - lo)).zipIdx.filter fun p => k.active m (lo + p.2)).map fun p =>
    (lo + p.2, base + sextInt 32 p.1 * (VType.size t : Int))

/-- The lowest faulting element of a step (R173, R174). -/
def addrFault (t : VType) (as : List (Nat × Int)) : Option EFault :=
  as.findSome? fun p =>
    if p.2 < 0 ∨ ((2 ^ 22 - VType.size t : Nat) : Int) < p.2 ∨ p.2 % (VType.size t : Int) ≠ 0 then
      some ⟨0x05, 0, infoOf (localVa p.2)⟩
    else none

/-- Distinct values of a list. -/
def distinct : List Nat → List Nat
  | [] => []
  | x :: r => if r.contains x then distinct r else x :: distinct r

/-- The cycles of a step (R174): the most distinct chunks in one bank, at least one. -/
def bankCycles (as : List Nat) : Nat :=
  let cs := distinct (as.map (· / 64))
  (List.range 32).foldl (fun m b => max m (cs.filter fun c => c % 32 == b).length) 1

/-- STALLV rises (R174). -/
def Core.stallV (k : Core) (n : Nat) : Core :=
  { k with sys := { k.sys with stallv := BitVec.ofNat 48 (min (2 ^ 48 - 1) (k.sys.stallv.toNat + n)) } }

/-- One step of VGATH. R174 does not say which fault of a step comes first: here an address outside, then uncorrectable
indices, then uncorrectable data (DESIGN CHOICE, notes/assumptions/78.md). -/
def Core.gatherStep (k : Core) (t : VType) (m : Bool) (us : List Use) (d i : Opd) (z : Fin 16) (lo hi : Nat) :
    Except EFault Core :=
  let as := k.gatherAddrs t m i z lo hi
  match (addrFault t as).or ((k.ursFault m us lo hi).or (as.findSome? fun p => k.spadFault p.2.toNat (VType.size t))) with
  | some f => .error f
  | none =>
    let vals := (List.range (hi - lo)).map fun j =>
      (as.find? fun p => p.1 == lo + j).map fun p => getNat k.spad p.2.toNat (VType.size t)
    .ok ((k.putElems d (VType.size t) lo vals).stallV (bankCycles (as.map fun p => p.2.toNat) - 1))

/-- VGATH (R173, R174): always long. R155 takes the commands marked yes or span element by element; the table marks this
one always, and it goes the same way: step by step, a later step reads an index row as earlier steps left it (DEDUCED,
notes/assumptions/77.md). -/
def execVgath (_y : Sync) (t : VType) (m : Bool) (d i : Opd) (z : Fin 16) (s : State) : Host.Outcome State Fault Refusal :=
  let k := s.cur
  let n := k.countOf d (8 * VType.size t)
  let us := [dstUse d t n false, srcUse i .int32 n]
  let check := (k.useFault .v us).or ((k.coverFault us).or (k.invalidFault (us.map k.readRange).flatten))
  .next (s.vecRun check n (2048 / VType.size t) 1 true fun k lo hi => k.gatherStep t m us d i z lo hi)

/-- One step of VSCAT: elements are written in increasing order. -/
def Core.scatterStep (k : Core) (t : VType) (m : Bool) (us : List Use) (d i : Opd) (z : Fin 16) (lo hi : Nat) :
    Except EFault Core :=
  let as := k.gatherAddrs t m i z lo hi
  match (addrFault t as).or (k.ursFault m us lo hi) with
  | some f => .error f
  | none =>
    let src := k.patterns d (VType.size t) lo (hi - lo)
    .ok ((as.foldl (fun c p =>
      c.putSpad p.2.toNat ((leBytes (VType.size t) (src.getD (p.1 - lo) 0)).map fun b => (true, b))) k).stallV
        (bankCycles (as.map fun p => p.2.toNat) - 1))

/-- VSCAT (R173, R174): its destination field names the data. -/
def execVscat (_y : Sync) (t : VType) (m : Bool) (d i : Opd) (z : Fin 16) (s : State) : Host.Outcome State Fault Refusal :=
  let k := s.cur
  let n := k.countOf d (8 * VType.size t)
  let us := [srcUse d t n, srcUse i .int32 n]
  let check := (k.useFault .v us).or ((k.coverFault us).or (k.invalidFault (us.map k.readRange).flatten))
  .next (s.vecRun check n (2048 / VType.size t) 1 true fun k lo hi => k.scatterStep t m us d i z lo hi)

/-! ## Accumulator tiles -/

/-- The tile of a number, by its index. -/
def Core.tileAt (k : Core) (n : Fin 32) : Tile := k.tiles[n]

/-- VACC (R103, R175, R177). DESIGN CHOICE (notes/assumptions/99.md): R78's check of its rows against the declared tiles stands behind the
checks of its operands and before those of its tile, for R183's list does not name it. -/
def execVacc (_y : Sync) (t : VType) (m : Bool) (d : Opd) (n : Fin 32) (s : State) : Host.Outcome State Fault Refusal :=
  let k := s.cur
  let us := [dstUse d t 1024 false]
  let level := match d with | .row _ _ => none | _ => some (k.badCmd .v 5)
  let first := (level.or (k.useFault .v us)).or ((k.coverFault us).or (k.tileFault n.val))
  .next (match first with
    | some f => s.failCmd s.core .v f
    | none =>
      if k.anyAbsent [n.val] || k.tilesBusy [n.val] then s.awaitTiles s.core .v [n.val] (.elems 0)
      else
        let bad := (k.invalidFault [tileRange n.val]).or
          (if k.noBad then none else k.ursBadAt (tileBase n.val) 64 (k.actives m 0 1024))
        let vals := (k.tileWords n.val).map fun w => (vfmt t).encode .rne (accNum (k.tileAt n).anchor.toNat w)
        s.vecOnce bad 32 1 fun k => k.putElems d (VType.size t) 0 (k.gate m 0 vals))

/-- The elements that VACW writes (R102, R176), and whether SAT and POIS are set. -/
def Core.acwElems (k : Core) (m : Bool) (n : Fin 32) (a : Opd) : List (Option Nat) × Bool × Bool :=
  let els := (k.patterns a 4 0 1024).zipIdx.map fun p =>
    if k.active m p.2 then some (accOfNum (k.tileAt n).anchor.toNat (fmtFp32.decode p.1)) else none
  (els.map fun e => e.map fun x => x.1.toNat,
   els.any fun e => match e with | some x => x.2.1 | none => false,
   els.any fun e => match e with | some x => x.2.2 | none => false)

/-- VACW (R176, R177), its checks in the order of VACC (notes/assumptions/99.md). -/
def execVacw (_y : Sync) (m : Bool) (n : Fin 32) (a : Opd) (s : State) : Host.Outcome State Fault Refusal :=
  let k := s.cur
  let us := [srcUse a .fp32 1024]
  let first := (k.useFault .v us).or ((k.coverFault us).or (k.tileFault n.val))
  .next (match first with
    | some f => s.failCmd s.core .v f
    | none =>
      if k.anyAbsent [n.val] || k.tilesBusy [n.val] then s.awaitTiles s.core .v [n.val] (.elems 0)
      else
        let bad := (k.invalidFault (us.map k.readRange).flatten).or (k.ursFault m us 0 1024)
        let r := k.acwElems m n a
        s.vecOnce bad 32 1 fun k =>
          (k.putUrs (tileBase n.val) (maskedBytes 8 r.1)).modTile n fun t =>
            { t with dirty := true, sat := t.sat || r.2.1, pois := t.pois || r.2.2 })

/-! ## Deferral queues -/

/-- Row j of the rows from operand o on: its URS address and bytes; none where it does not exist (R180, R181). -/
def Core.liveAddr (k : Core) (o : Opd) (j : Nat) : Option (Nat × Nat) :=
  match o with
  | .row v r => k.rowOf v (r.val + j)
  | _ => some (0, 256)

/-- The SOF entry that is row j from operand o on. -/
def liveEntry (o : Opd) (j : Nat) : Opd :=
  match o with
  | .sof i => .sof (Fin.ofNat 16 (i.val + j))
  | x => x

/-- The elements of row j from operand o on. -/
def Core.livePatterns (k : Core) (o : Opd) (j size n : Nat) : List Nat :=
  match o, k.liveAddr o j with
  | .row _ _, some p => chunks size n (getBytes k.urs p.1 (n * size))
  | _, _ => k.patterns (liveEntry o j) size 0 n

/-- Write elements of row j from operand o on. -/
def Core.putLive (k : Core) (o : Opd) (j size : Nat) (vals : List Nat) : Core :=
  match o, k.liveAddr o j with
  | .row _ _, some p => if vals = [] then k else k.putUrs p.1 (maskedBytes size (vals.map some))
  | _, _ => k.putElems (liveEntry o j) size 0 (vals.map some)

/-- The URS bytes of the first n elements of rows from operand o on. -/
def Core.liveRanges (k : Core) (o : Opd) (rows size n : Nat) : List (Nat × Nat) :=
  match o with
  | .row _ _ => (List.range rows).filterMap fun j => (k.liveAddr o j).map fun p => (p.1, n * size)
  | _ => []

/-- The checks of views, lengths and types for rows from operand o on (R183, 1 to 3). -/
def Core.liveFault (k : Core) (o : Opd) (rows n : Nat) (t : VType) (dest : Bool) : Option EFault :=
  if (List.range rows).any fun j => (k.liveAddr o j).isNone then some (k.badCmd .v 5)
  else if (List.range rows).any fun j => match o, k.liveAddr o j with
      | .row _ _, some p => decide (p.2 < n * VType.size t)
      | _, _ => false then some (k.badCmd .v 5)
  else match o with
    | .row _ _ => k.typeFault .v (srcUse o t n)
    | _ => if dest && decide (256 < n * VType.size t) then some (k.badCmd .v 6) else none

/-- Rows from operand o on cover a declared tile (R78). -/
def Core.liveCover (k : Core) (o : Opd) (rows : Nat) : Option EFault :=
  match o with
  | .row _ _ => (List.range rows).findSome? fun j => match k.liveAddr o j with
    | some p => (k.coversTile p.1 p.2).map fun t => ⟨0x0C, 1, BitVec.ofNat 64 t⟩
    | none => none
  | _ => none

/-- Uncorrectable data in elements js of row j from operand o on. -/
def Core.liveBad (k : Core) (o : Opd) (j size : Nat) (js : List Nat) : Option EFault :=
  match o, k.liveAddr o j with
  | .row _ _, some p => k.ursBadAt p.1 (8 * size) js
  | _, _ => k.elemFault (liveEntry o j) (8 * size) js

/-- The lowest uncorrectable byte of URS ranges. -/
def Core.badRange (k : Core) (rs : List (Nat × Nat)) : Option EFault :=
  rs.findSome? fun x => (firstBad k.ursBad x.1 x.2).map fun b => ⟨0x0B, 2, BitVec.ofNat 64 (b / 256)⟩

/-- The bytes of a view row by its number, which may pass 127 (R179). -/
def Core.queueRow (k : Core) (q : Fin 8) (r : Nat) : Nat :=
  let w := k.serir.views[q]
  256 * w.base.toNat + r * ((w.len.toNat + 1) * 256)

/-- A queue's shape when it is empty (R180). -/
def Core.newQueue (k : Core) (q : Fin 8) (t : VType) (v : Nat) : DeferQueue :=
  let w := k.serir.views[q]
  let c := (w.count.toNat + 1) / v
  { type := t, values := v, width := (w.len.toNat + 1) * 256 / VType.size t, head := 0, tail := 0, used := 0,
    slots := List.replicate c .free }

/-- The open slot of a path (R179). -/
def DeferQueue.openSlot (d : DeferQueue) (p : Fin 8) : Option (Nat × Nat) :=
  d.slots.zipIdx.findSome? fun x => match x.1 with
    | .open_ r f => if r = p then some (x.2, f) else none
    | _ => none

/-- New slots that n records need (R180). -/
def DeferQueue.need (d : DeferQueue) (p : Fin 8) (n : Nat) : Nat :=
  let f := match d.openSlot p with | some x => x.2 | none => d.width
  ceilDiv (n - (d.width - f)) d.width

/-- Append one record to path p: the slot and the place it takes (R180). -/
def DeferQueue.append (d : DeferQueue) (p : Fin 8) : DeferQueue × Nat × Nat :=
  let (d1, s, f) := match d.openSlot p with
    | some x => (d, x.1, x.2)
    | none => ({ d with slots := setAt d.slots d.tail (.open_ p 0), tail := (d.tail + 1) % d.slots.length, used := d.used + 1 },
               d.tail, 0)
  let st := if f + 1 = d.width then DeferSlot.full p else .open_ p (f + 1)
  ({ d1 with slots := setAt d1.slots s st }, s, f)

/-- The slots that n records of path p go to (R180). -/
def DeferQueue.slotsFor (p : Fin 8) : Nat → DeferQueue → List Nat
  | 0, _ => []
  | n + 1, d => (d.append p).2.1 :: DeferQueue.slotsFor p n (d.append p).1

/-- VDEFER's records, one after another: rows of the queue and values. -/
def Core.deferAll (k : Core) (q : Fin 8) (p : Fin 8) (size : Nat) (rows : List (List Nat)) :
    List Nat → DeferQueue → Core × DeferQueue
  | [], d => (k, d)
  | e :: r, d =>
    let (d1, s, f) := d.append p
    let k1 := rows.zipIdx.foldl (fun c x =>
      c.putUrs (c.queueRow q (s * d.values + x.2) + f * size) ((leBytes size (x.1.getD e 0)).map fun b => (true, b))) k
    k1.deferAll q p size rows r d1

/-- The use of a queue's view by VDEFER (R180). -/
def Core.queueFault (k : Core) (q : Fin 8) (t : VType) : Option EFault :=
  let w := k.serir.views[q]
  if !w.set then some (k.badCmd .v 5) else if w.type ≠ t then some (k.badCmd .v 4) else none

/-- The rows of queue q cover a declared tile (R78): the rows of some slots. -/
def Core.queueCover (k : Core) (q : Fin 8) (rows : List Nat) : Option EFault :=
  let len := (k.serir.views[q].len.toNat + 1) * 256
  rows.findSome? fun r => (k.coversTile (k.queueRow q r) len).map fun t => ⟨0x0C, 1, BitVec.ofNat 64 t⟩

/-- VDEFER (R180): the defined count is the number of records. -/
def execVdefer (_y : Sync) (t : VType) (m : Bool) (q : Fin 8) (a : Opd) (v : Fin 4) (p : Fin 8) (s : State) :
    Host.Outcome State Fault Refusal :=
  let k := s.cur
  let vals := v.val + 1
  let size := VType.size t
  let n := k.countOf a (8 * size)
  let es := (List.range n).filter fun e => k.active m e
  let d : DeferQueue := match k.serir.queues[q] with | some d => d | none => k.newQueue q t vals
  let shape := if d.type ≠ t ∨ d.values ≠ vals then some (k.badCmd .v 2)
    else if d.slots.length - d.used < d.need p es.length then some (k.badCmd .v 5) else none
  let view := if k.serir.views[q].set then none else some (k.badCmd .v 5)
  let ranges := k.liveRanges a vals size n
  let slots := d.slotsFor p es.length
  let written := (List.range (d.slots.length * vals)).filter fun r => slots.contains (r / vals)
  let check := (view.or ((k.liveFault a vals n t false).or (k.queueFault q t))).or (shape.or ((k.liveCover a vals).or
    ((k.queueCover q written).or ((k.invalidFault ranges).or
      (if k.noBad then none else (List.range vals).findSome? fun j => k.liveBad a j size es)))))
  let rows := (List.range vals).map fun j => k.livePatterns a j size n
  .next (s.vecOnce check (vals * ceilDiv n (passWidth t)) es.length fun k =>
    let r := k.deferAll q p size rows es d
    { r.1 with serir := { r.1.serir with queues := r.1.serir.queues.set q (if r.2.used = 0 then none else some r.2) } })

/-- The slots in ring order from the head. -/
def DeferQueue.order (d : DeferQueue) : List Nat := (List.range d.slots.length).map fun i => (d.head + i) % d.slots.length

/-- The slot that VDRAIN takes, and its records (R181). -/
def DeferQueue.pick (d : DeferQueue) (p : Fin 8) (final : Bool) : Option (Nat × Nat) :=
  match d.order.find? fun i => d.slots[i]? == some (.full p) with
  | some i => some (i, d.width)
  | none => if final then d.openSlot p else none

/-- Drained slots at the head become free (R181). -/
def DeferQueue.retire : Nat → DeferQueue → DeferQueue
  | 0, d => d
  | n + 1, d =>
    if 0 < d.used && d.slots[d.head]? == some .drained then
      DeferQueue.retire n { d with slots := setAt d.slots d.head .free, head := (d.head + 1) % d.slots.length, used := d.used - 1 }
    else d

/-- VDRAIN (R181): the defined count is the number of records; W = L / size(T) even where the queue is empty. The queue's
view has no type to match: T that is not the shape's fails with QUAL 2. -/
def execVdrain (_y : Sync) (t : VType) (o : Opd) (q : Fin 8) (v : Fin 4) (p : Fin 8) (f : Bool) (j : Fin 8) (s : State) :
    Host.Outcome State Fault Refusal :=
  let k := s.cur
  let vals := v.val + 1
  let size := VType.size t
  let w := (k.serir.views[q].len.toNat + 1) * 256 / size
  let view := if k.serir.views[q].set then none else some (k.badCmd .v 5)
  let pick : Option (DeferQueue × Nat × Nat) := (k.serir.queues[q]).bind fun d => (d.pick p f).map fun x => (d, x.1, x.2)
  let shape := match k.serir.queues[q] with
    | some d => if d.type ≠ t ∨ d.values ≠ vals then some (k.badCmd .v 2) else none
    | none => none
  let rows := match pick with | some (_, i, _) => (List.range vals).map fun x => i * vals + x | none => []
  let count := match pick with | some x => x.2.2 | none => 0
  let srcs := rows.map fun r => (k.queueRow q r, count * size)
  let check := (view.or (k.liveFault o vals w t true)).or (shape.or ((k.liveCover o vals).or
    ((k.queueCover q rows).or ((k.invalidFault srcs).or (k.badRange srcs)))))
  .next (s.vecOnce check (vals * ceilDiv w (passWidth t)) count fun k =>
    let data := srcs.map fun x => chunks size count (getBytes k.urs x.1 x.2)
    let k1 := data.zipIdx.foldl (fun c x => c.putLive o x.2 size x.1) k
    let k2 := match pick with
      | some (d, i, _) =>
        let d1 := DeferQueue.retire d.slots.length { d with slots := setAt d.slots i .drained }
        { k1 with serir := { k1.serir with queues := k1.serir.queues.set q (if d1.used = 0 then none else some d1) } }
      | none => k1
    k2.setMask j ((1#16384 <<< count) - 1))

end Sys2Proof.Machine
end

