-- ==== Sys2Proof/Machine/Fetch.lean ====
section
/-! DEFINITION. What a stream runs next: the word at a sequencer's program counter (spec/01_stream.md R11, R12;
spec/02_encoding.md R37), the entry that an engine stream has started (R33), or nothing. -/

namespace Sys2Proof.Machine

open Sys2Proof

/-- The word of the sequence store at a program counter. -/
def Core.wordAt (k : Core) (pc : BitVec 17) : Nat := getNat k.code pc.toNat 4

/-- An uncorrectable byte lies in the word at a program counter. -/
def Core.badWord (k : Core) (pc : BitVec 17) : Bool := (firstBad k.codeBad pc.toNat 4).isSome

/-- BUDG is below 0 while a reason of the grace is pending (R255). -/
def Core.graceOver (k : Core) : Bool :=
  match k.unit with
  | some u => graceRuns u.reasons && k.sys.budg.msb
  | none => false

/-- A sequencer executes: a unit is resident, no stop is in progress and none is due because the grace is over (R255), no copy of a refetch list is still to run (R383), it is not
halted, and under a handler it is the X-sequencer (R25, R144, R146). -/
def Core.seqRuns (k : Core) (q : SeqId) : Bool :=
  k.unit.isSome && k.stop.isNone && !k.graceOver && (if k.handled.isSome then q == .x else !(k.seq q).halted && k.seg.rerun.isEmpty)

/-- The instruction at a sequencer's program counter, none where its word is illegal (R40). Data words of an inline ENQ past
the end of the store come from address 0 on: the 17-bit address wraps, on which R50 is silent (DESIGN CHOICE,
notes/assumptions/74.md). -/
def Core.fetch (k : Core) (q : SeqId) : Option Instr :=
  let pc := (k.seq q).pc
  decodeWords [k.wordAt pc, k.wordAt (pc + 4), k.wordAt (pc + 8)]

/-- The row that carries on a started command: its own, or the step, token or chunk of a command that has begun. -/
def stepOf (p : Prog) (i : Instr) : Instr :=
  match p, i with
  | .nest _ _ _, .mgo _ => .mgoStep
  | .nest _ _ _, .cgo _ _ => .cgoChunk
  | .tokens _, .mdelta .. => .mdeltaToken
  | _, i => i

/-- Every number of a list of chunks lies less than 64 above the lowest, with room for one more (R406). -/
def windowOpen (l : List PendingChunk) : Bool := l.all fun x => l.all fun y => decide (x.chunk + 1 < y.chunk + 64)

/-- A CGO goes on while chunks that it has written to other nodes await their answers (R225, R405, R406). -/
def Stream.sendsMore (t : Stream) : Bool :=
  match t.phase with
  | .running (.nest _ _ false) => t.fails.isEmpty && t.chunks.all (fun x => !x.read) && windowOpen t.chunks
  | _ => false

/-- What an engine stream does next (R33); under a stop only an entry that has started and not begun its work, and a
signal that is due (R25). -/
def Core.engNext (k : Core) (e : Eng) : Option Instr :=
  if k.unit.isNone || k.handled.isSome || (!k.seg.rerun.isEmpty && (e == .m || e == .v)) ||
      (!(k.eng e).chunks.isEmpty && !(k.eng e).sendsMore) then none
  else match (k.eng e).phase with
    | .running p =>
      if k.stop.isSome && !k.mustFinish e then none else
      match (k.eng e).head with
      | some h => match decodeCmd e h.word.toNat with
        | .ok i => some (stepOf p i)
        | .error _ => none
      | none => none
    | .done _ _ _ _ => some (.entryComplete e)
    | .idle => if k.stop.isNone && (k.eng e).head.isNone && (k.eng e).chainPc.isSome then some .chainFetch else none
    | _ => none

/-- The instruction that a stream of the current core runs next, none where it runs nothing. -/
def State.nextInstr (s : State) : Option Instr :=
  match s.stream with
  | .seq q =>
    if !s.cur.seqRuns q || s.cur.badWord (s.cur.seq q).pc then none else s.cur.fetch q
  | .eng e => s.cur.engNext e

/-- Whose turn it is. -/
def State.turn (s : State) (c : CoreId) (t : StreamId) : State := { s with core := c, stream := t }

/-- The unit that withFetchWord makes resident where there is none (notes/assumptions/24.md): every wait and signal
declared, no tile. -/
def Resident.bare : Resident :=
  { launch := 0, unit := 0, ctx := 0, variant := 0, tiles := 0, wmask := Vector.replicate 6 (BitVec.allOnes 64),
    smask := Vector.replicate 6 (BitVec.allOnes 64), reasons := 0, draining := false, caps := (16, 16), pvar := false,
    fdiv := Divs.all 1, vlevel := 7, iused := 0, tused := 0, resident := 0 }

/-- The store with three words at a program counter and after it. -/
def placeWords (code : Cells) (pc : BitVec 17) (w : Nat) : Cells :=
  putBytes (putBytes (putBytes code pc.toNat (leBytes 4 (w % 2 ^ 32))) (pc + 4).toNat (leBytes 4 (w / 2 ^ 32 % 2 ^ 32)))
    (pc + 8).toNat (leBytes 4 (w / 2 ^ 64 % 2 ^ 32))

/-- Make the current sequencer's next instruction the one whose bits are w (notes/assumptions/24.md). -/
def State.placed (s : State) (w : Nat) : State :=
  { s.modCur fun k =>
      let k1 := { k with code := placeWords k.code (k.seq s.seqId).pc w, codeBad := [], stop := none, handled := none,
                         unit := some (k.unit.getD Resident.bare) }
      k1.modSeq s.seqId fun x => { x with halted := false }
    with agenda := [], stream := .seq s.seqId }

end Sys2Proof.Machine
end

