-- ==== Sys2Proof/Machine/Flags.lean ====
section
/-! DEFINITION. Conditions: the machine has no flags; BC, BOUT, BZ and BNZ compare registers (spec/05_sequencers.md R136), and
SLT, SLTU, SEQ write a truth value (R118). -/

namespace Sys2Proof.Machine

open Sys2Proof

/-- A BC condition on two registers (R136). -/
def condTrue (c : Cond) (a b : W64) : Bool :=
  match c with
  | .eq => a == b
  | .ne => a != b
  | .lt => a.slt b
  | .ge => !a.slt b
  | .ltu => a.ult b
  | .geu => !a.ult b
  | .tst => (a &&& b) != 0
  | .tstz => (a &&& b) == 0

/-- 1 for true, 0 for false. -/
def truth (b : Bool) : W64 := if b then 1 else 0

end Sys2Proof.Machine
end

