-- ==== Sys2Proof/Machine/Alu.lean ====
section
/-! DEFINITION. Integer, bit, multiply and immediate instructions (spec/05_sequencers.md R118-R121): the shared shapes, the
values, one meaning for each instruction. -/

namespace Sys2Proof.Machine

open Sys2Proof

/-! ## Shapes -/

/-- A three-register instruction on a core: s1, then s2, then the destination (R72). -/
def Core.aluR (k : Core) (q : SeqId) (d a b : GReg) (f : W64 → W64 → W64) : Res Core :=
  (k.readG q a).bind fun x => (x.2.readG q b).bind fun y => y.2.writeG q d (f x.1 y.1)

/-- A three-register instruction that also reads its destination, last (R119). -/
def Core.aluD (k : Core) (q : SeqId) (d a b : GReg) (f : W64 → W64 → W64 → W64) : Res Core :=
  (k.readG q a).bind fun x => (x.2.readG q b).bind fun y => (y.2.readG q d).bind fun z =>
    z.2.writeG q d (f x.1 y.1 z.1)

/-- An instruction with one source. -/
def Core.alu1 (k : Core) (q : SeqId) (d a : GReg) (f : W64 → W64) : Res Core :=
  (k.readG q a).bind fun x => x.2.writeG q d (f x.1)

/-- The current sequencer completes a one-word instruction that moves no memory, or stalls, or traps. -/
def State.finishRes (s : State) (r : Res Core) : State := s.settle r fun t => t.finish 1 0

/-- A three-register instruction of the current sequencer. -/
def State.aluR (s : State) (d a b : GReg) (f : W64 → W64 → W64) : State := s.finishRes (s.cur.aluR s.seqId d a b f)

/-- One that also reads its destination. -/
def State.aluD (s : State) (d a b : GReg) (f : W64 → W64 → W64 → W64) : State := s.finishRes (s.cur.aluD s.seqId d a b f)

/-- One with one source. -/
def State.alu1 (s : State) (d a : GReg) (f : W64 → W64) : State := s.finishRes (s.cur.alu1 s.seqId d a f)

/-! ## Values -/

/-- The shift amount in a register (R118). -/
def amountOf (b : W64) : Nat := b.toNat % 64

/-- The leading zero bits (R119). -/
def clzOf (a : W64) : Nat := ((List.range 64).find? fun i => a.getLsbD (63 - i)).getD 64

/-- The trailing zero bits (R119). -/
def ctzOf (a : W64) : Nat := ((List.range 64).find? fun i => a.getLsbD i).getD 64

/-- The position of a bit field (R119). -/
def fieldPos (b : W64) : Nat := b.toNat % 64

/-- The width of a bit field, where 0 means 64 (R119). -/
def fieldWidth (b : W64) : Nat := if b.toNat / 256 % 64 = 0 then 64 else b.toNat / 256 % 64

/-- BFXU (R119). -/
def bfxuOf (a b : W64) : W64 := BitVec.ofNat 64 (a.toNat / 2 ^ fieldPos b % 2 ^ fieldWidth b)

/-- BFX (R119). -/
def bfxOf (a b : W64) : W64 := BitVec.ofInt 64 (sextInt (fieldWidth b) (a.toNat / 2 ^ fieldPos b % 2 ^ fieldWidth b))

/-- The mask of BFI (R119). -/
def bfiMask (b : W64) : W64 := BitVec.ofNat 64 ((2 ^ fieldWidth b - 1) * 2 ^ fieldPos b)

/-- BFI (R119). -/
def bfiOf (a b d : W64) : W64 := (d &&& ~~~ bfiMask b) ||| ((a <<< fieldPos b) &&& bfiMask b)

/-- DIV (R120). -/
def divOf (a b : W64) : W64 := if b = 0 then BitVec.allOnes 64 else BitVec.ofInt 64 (a.toInt.tdiv b.toInt)

/-- DIVU (R120). -/
def divuOf (a b : W64) : W64 := if b = 0 then BitVec.allOnes 64 else BitVec.ofNat 64 (a.toNat / b.toNat)

/-- REM (R120). -/
def remOf (a b : W64) : W64 := if b = 0 then a else BitVec.ofInt 64 (a.toInt.tmod b.toInt)

/-- REMU (R120). -/
def remuOf (a b : W64) : W64 := if b = 0 then a else BitVec.ofNat 64 (a.toNat % b.toNat)

/-- LDK (R121). -/
def ldkOf (p : Fin 4) (i : BitVec 16) (d : W64) : W64 :=
  (d &&& ~~~ ((0xFFFF#64) <<< (16 * p.val))) ||| ((i.zeroExtend 64) <<< (16 * p.val))

/-! ## Meanings -/

/-- ADD (R118). -/
def execAdd (d a b : GReg) (s : State) : Host.Outcome State Fault Refusal :=
  .next (s.aluR d a b fun a b => a + b)

/-- SUB (R118). -/
def execSub (d a b : GReg) (s : State) : Host.Outcome State Fault Refusal :=
  .next (s.aluR d a b fun a b => a - b)

/-- AND (R118). -/
def execAnd (d a b : GReg) (s : State) : Host.Outcome State Fault Refusal :=
  .next (s.aluR d a b fun a b => a &&& b)

/-- OR (R118). -/
def execOr (d a b : GReg) (s : State) : Host.Outcome State Fault Refusal :=
  .next (s.aluR d a b fun a b => a ||| b)

/-- XOR (R118). -/
def execXor (d a b : GReg) (s : State) : Host.Outcome State Fault Refusal :=
  .next (s.aluR d a b fun a b => a ^^^ b)

/-- ANDN (R118). -/
def execAndn (d a b : GReg) (s : State) : Host.Outcome State Fault Refusal :=
  .next (s.aluR d a b fun a b => a &&& ~~~ b)

/-- SHL (R118). -/
def execShl (d a b : GReg) (s : State) : Host.Outcome State Fault Refusal :=
  .next (s.aluR d a b fun a b => a <<< amountOf b)

/-- SHR (R118). -/
def execShr (d a b : GReg) (s : State) : Host.Outcome State Fault Refusal :=
  .next (s.aluR d a b fun a b => a >>> amountOf b)

/-- SRA (R118). -/
def execSra (d a b : GReg) (s : State) : Host.Outcome State Fault Refusal :=
  .next (s.aluR d a b fun a b => a.sshiftRight (amountOf b))

/-- ROL (R118). -/
def execRol (d a b : GReg) (s : State) : Host.Outcome State Fault Refusal :=
  .next (s.aluR d a b fun a b => a.rotateLeft (amountOf b))

/-- MIN (R118). -/
def execMin (d a b : GReg) (s : State) : Host.Outcome State Fault Refusal :=
  .next (s.aluR d a b fun a b => if a.slt b then a else b)

/-- MAX (R118). -/
def execMax (d a b : GReg) (s : State) : Host.Outcome State Fault Refusal :=
  .next (s.aluR d a b fun a b => if a.slt b then b else a)

/-- MINU (R118). -/
def execMinu (d a b : GReg) (s : State) : Host.Outcome State Fault Refusal :=
  .next (s.aluR d a b fun a b => if a.ult b then a else b)

/-- MAXU (R118). -/
def execMaxu (d a b : GReg) (s : State) : Host.Outcome State Fault Refusal :=
  .next (s.aluR d a b fun a b => if a.ult b then b else a)

/-- SLT (R118). -/
def execSlt (d a b : GReg) (s : State) : Host.Outcome State Fault Refusal :=
  .next (s.aluR d a b fun a b => truth (a.slt b))

/-- SLTU (R118). -/
def execSltu (d a b : GReg) (s : State) : Host.Outcome State Fault Refusal :=
  .next (s.aluR d a b fun a b => truth (a.ult b))

/-- SEQ (R118). -/
def execSeq (d a b : GReg) (s : State) : Host.Outcome State Fault Refusal :=
  .next (s.aluR d a b fun a b => truth (a == b))

/-- BFX (R119). -/
def execBfx (d a b : GReg) (s : State) : Host.Outcome State Fault Refusal :=
  .next (s.aluR d a b fun a b => bfxOf a b)

/-- BFXU (R119). -/
def execBfxu (d a b : GReg) (s : State) : Host.Outcome State Fault Refusal :=
  .next (s.aluR d a b fun a b => bfxuOf a b)

/-- MUL (R120). -/
def execMul (d a b : GReg) (s : State) : Host.Outcome State Fault Refusal :=
  .next (s.aluR d a b fun a b => a * b)

/-- MULH (R120). -/
def execMulh (d a b : GReg) (s : State) : Host.Outcome State Fault Refusal :=
  .next (s.aluR d a b fun a b => BitVec.ofInt 64 (a.toInt * b.toInt / 2 ^ 64))

/-- MULHU (R120). -/
def execMulhu (d a b : GReg) (s : State) : Host.Outcome State Fault Refusal :=
  .next (s.aluR d a b fun a b => BitVec.ofNat 64 (a.toNat * b.toNat / 2 ^ 64))

/-- DIV (R120). -/
def execDiv (d a b : GReg) (s : State) : Host.Outcome State Fault Refusal :=
  .next (s.aluR d a b fun a b => divOf a b)

/-- DIVU (R120). -/
def execDivu (d a b : GReg) (s : State) : Host.Outcome State Fault Refusal :=
  .next (s.aluR d a b fun a b => divuOf a b)

/-- REM (R120). -/
def execRem (d a b : GReg) (s : State) : Host.Outcome State Fault Refusal :=
  .next (s.aluR d a b fun a b => remOf a b)

/-- REMU (R120). -/
def execRemu (d a b : GReg) (s : State) : Host.Outcome State Fault Refusal :=
  .next (s.aluR d a b fun a b => remuOf a b)

/-- BFI (R119): g[d] is read as well. -/
def execBfi (d a b : GReg) (s : State) : Host.Outcome State Fault Refusal :=
  .next (s.aluD d a b fun a b d => bfiOf a b d)

/-- CSEL (R119): g[d] is read as well. -/
def execCsel (d a b : GReg) (s : State) : Host.Outcome State Fault Refusal :=
  .next (s.aluD d a b fun a b d => if d != 0 then a else b)

/-- CLZ (R119). -/
def execClz (d a : GReg) (s : State) : Host.Outcome State Fault Refusal :=
  .next (s.alu1 d a fun a => BitVec.ofNat 64 (clzOf a))

/-- CTZ (R119). -/
def execCtz (d a : GReg) (s : State) : Host.Outcome State Fault Refusal :=
  .next (s.alu1 d a fun a => BitVec.ofNat 64 (ctzOf a))

/-- POPC (R119). -/
def execPopc (d a : GReg) (s : State) : Host.Outcome State Fault Refusal :=
  .next (s.alu1 d a fun a => BitVec.ofNat 64 (popNat a.toNat 64))

/-- ADDI (R121). -/
def execAddi (d a : GReg) (i : BitVec 16) (s : State) : Host.Outcome State Fault Refusal :=
  .next (s.alu1 d a fun a => a + i.signExtend 64)

/-- ANDI (R121). -/
def execAndi (d a : GReg) (i : BitVec 16) (s : State) : Host.Outcome State Fault Refusal :=
  .next (s.alu1 d a fun a => a &&& i.signExtend 64)

/-- ORI (R121). -/
def execOri (d a : GReg) (i : BitVec 16) (s : State) : Host.Outcome State Fault Refusal :=
  .next (s.alu1 d a fun a => a ||| i.zeroExtend 64)

/-- XORI (R121). -/
def execXori (d a : GReg) (i : BitVec 16) (s : State) : Host.Outcome State Fault Refusal :=
  .next (s.alu1 d a fun a => a ^^^ i.zeroExtend 64)

/-- SHLI (R121). -/
def execShli (d a : GReg) (n : Fin 64) (s : State) : Host.Outcome State Fault Refusal :=
  .next (s.alu1 d a fun a => a <<< n.val)

/-- SHRI (R121). -/
def execShri (d a : GReg) (n : Fin 64) (s : State) : Host.Outcome State Fault Refusal :=
  .next (s.alu1 d a fun a => a >>> n.val)

/-- SRAI (R121). -/
def execSrai (d a : GReg) (n : Fin 64) (s : State) : Host.Outcome State Fault Refusal :=
  .next (s.alu1 d a fun a => a.sshiftRight n.val)

/-- ROLI (R121). -/
def execRoli (d a : GReg) (n : Fin 64) (s : State) : Host.Outcome State Fault Refusal :=
  .next (s.alu1 d a fun a => a.rotateLeft n.val)

/-- LDI (R121). -/
def execLdi (d : GReg) (i : BitVec 16) (s : State) : Host.Outcome State Fault Refusal :=
  .next (s.finishRes (s.cur.writeG s.seqId d (i.signExtend 64)))

/-- LDK (R121): g[d] is read, and keeps its other bits. -/
def execLdk (d : GReg) (p : Fin 4) (i : BitVec 16) (s : State) : Host.Outcome State Fault Refusal :=
  .next (s.alu1 d d (ldkOf p i))

end Sys2Proof.Machine
end

