-- ==== Sys2Proof/Machine/Branch.lean ====
section
/-! DEFINITION. Control flow (spec/05_sequencers.md R114-R116, R136, R137; spec/02_encoding.md R48, R49). -/

namespace Sys2Proof.Machine

open Sys2Proof

/-- The target of a relative branch, or none where it lies outside 0 to 0x1FFFC (R136). -/
def relTarget (pc : BitVec 17) (off : Int) : Option (BitVec 17) :=
  let t := (pc.toNat : Int) + 4 * off
  if 0 ≤ t ∧ t ≤ 0x1FFFC then some (BitVec.ofInt 17 t) else none

/-- The target in a register, or none where R48 makes it illegal. -/
def regTarget (v : W64) : Option (BitVec 17) :=
  if v.toNat < 2 ^ 17 ∧ v.toNat % 4 = 0 then some (BitVec.ofNat 17 v.toNat) else none

/-- Take a branch to a target; none is illegal at the branch, and leaves every register, queue and level as it was. -/
def State.branchTo (s : State) (k : Core) (t : Option (BitVec 17)) (call : Bool) : State :=
  match t with
  | some pc => (s.setCore s.core k).finishJump pc call
  | none => s.illegal

/-- Branch by an offset where a condition holds, else complete. -/
def State.branchIf (s : State) (k : Core) (c : Bool) (off : Int) : State :=
  if c then s.branchTo k (relTarget (s.curSeq.pc) off) false else (s.setCore s.core k).finish 1 0

/-- Go on with a value and the core that gave it. -/
def State.withRes {α : Type} (s : State) (r : Res α) (f : α → State) : State :=
  match r with
  | .ok v => f v
  | .stall w => s.stallSeq w
  | .trap c q t => s.trapSeq c q t

/-- g27 and the address behind the current instruction (R48). -/
def linkReg : GReg := 27

/-- The current core with g27 holding the address of the next word; interlocks on g27 (R85). -/
def State.linked (s : State) (k : Core) : Res Core :=
  k.writeG s.seqId linkReg (BitVec.ofNat 64 ((s.curSeq.pc + 4).toNat))

/-- Pop a branch outcome (R73). -/
def Core.popOutcome (k : Core) (q : SeqId) : Res (Bool × Core) :=
  match k.outcomesIn q with
  | b :: r => .ok (b, k.setOutcomesIn q r)
  | [] => if k.producerDone q then .trap 0x08 0 1 else .stall .popEmpty

/-- The capacity of a branch-outcome queue (R73). -/
def outcomeSize : Nat := 32

/-- Push a branch outcome (R73, R137). -/
def Core.pushOutcome (k : Core) (q : SeqId) (b : Bool) : Res Core :=
  let l := k.outcomesIn (otherSeq q)
  if outcomeSize ≤ l.length then .stall .pushFull else .ok (k.setOutcomesIn (otherSeq q) (l ++ [b]))

/-- B (R136). -/
def execB (o : BitVec 22) (s : State) : Host.Outcome State Fault Refusal := .next (s.branchIf s.cur true o.toInt)

/-- BC (R136). -/
def execBc (a b : GReg) (c : Cond) (o : BitVec 13) (s : State) : Host.Outcome State Fault Refusal :=
  .next (s.withRes ((s.cur.readG s.seqId a).bind fun x => (x.2.readG s.seqId b).bind fun y => .ok (condTrue c x.1 y.1, y.2))
    fun r => s.branchIf r.2 r.1 o.toInt)

/-- BZ (R136). -/
def execBz (d : GReg) (o : BitVec 16) (s : State) : Host.Outcome State Fault Refusal :=
  .next (s.withRes (s.cur.readG s.seqId d) fun x => s.branchIf x.2 (x.1 == 0) o.toInt)

/-- BNZ (R136). -/
def execBnz (d : GReg) (o : BitVec 16) (s : State) : Host.Outcome State Fault Refusal :=
  .next (s.withRes (s.cur.readG s.seqId d) fun x => s.branchIf x.2 (x.1 != 0) o.toInt)

/-- BQ (R136, R137): n is the sense of bq.n. -/
def execBq (n : Bool) (o : BitVec 22) (s : State) : Host.Outcome State Fault Refusal :=
  .next (s.withRes (s.cur.popOutcome s.seqId) fun x => s.branchIf x.2 (x.1 != n) o.toInt)

/-- BOUT (R137). -/
def execBout (a b : GReg) (c : Cond) (s : State) : Host.Outcome State Fault Refusal :=
  .next (s.finishRes ((s.cur.readG s.seqId a).bind fun x => (x.2.readG s.seqId b).bind fun y =>
    y.2.pushOutcome s.seqId (condTrue c x.1 y.1)))

/-- CALL (R136). -/
def execCall (o : BitVec 22) (s : State) : Host.Outcome State Fault Refusal :=
  .next (s.withRes (s.linked s.cur) fun k => s.branchTo k (relTarget s.curSeq.pc o.toInt) true)

/-- JMPI (R136, R48). -/
def execJmpi (a : GReg) (s : State) : Host.Outcome State Fault Refusal :=
  .next (s.withRes (s.cur.readG s.seqId a) fun x => s.branchTo x.2 (regTarget x.1) false)

/-- CALLI (R136, R137): g27 is written after the target is read. -/
def execCalli (a : GReg) (s : State) : Host.Outcome State Fault Refusal :=
  .next (s.withRes (s.cur.readG s.seqId a) fun x => s.withRes (s.linked x.2) fun k => s.branchTo k (regTarget x.1) true)

/-- RET (R136): as JMPI, to g27. -/
def execRet (s : State) : Host.Outcome State Fault Refusal :=
  .next (s.withRes (s.cur.readG s.seqId linkReg) fun x => s.branchTo x.2 (regTarget x.1) false)

/-- The current sequencer continues at an address that is no branch target. -/
def Seq.continueAt (q : Seq) (pc : BitVec 17) (ls : List LoopLevel) : Seq :=
  { q with pc := pc, loops := ls, seqno := q.seqno + 1, stall := .none, cont := none }

/-- A loop instruction on a sequencer with count n and body length l words (R114); none where it traps. With count 0 the body
is skipped; where the loop instruction is itself the last word of the innermost level, R115 closes levels, and the pc goes behind
the skipped body when none of them begins another iteration (notes/assumptions/15.md). DESIGN CHOICE (notes/assumptions/74.md): the
17-bit address of the word behind a skipped body wraps where it passes the end of the store. -/
def Seq.loopStart (q : Seq) (n : W64) (l : Nat) : Option Seq :=
  let last : BitVec 19 := q.pc.zeroExtend 19 + BitVec.ofNat 19 (4 * l)
  if n = 0 then
    let r := closeLoopsTo q.pc 1 (last.truncate 17 + 4) q.loops
    some (q.continueAt r.2 r.1)
  else if 4 ≤ q.loops.length then none
  else match q.loops with
    | x :: _ =>
      if x.last.toNat < q.pc.toNat + 4 * l then none
      else some (q.continueAt (q.pc + 4) ({ start := q.pc + 4, last := last, count := n } :: q.loops))
    | [] => some (q.continueAt (q.pc + 4) [{ start := q.pc + 4, last := last, count := n }])

/-- A loop instruction of the current sequencer. -/
def State.loopWith (s : State) (k : Core) (n : W64) (l : Nat) : State :=
  match s.curSeq.loopStart n l with
  | some q => ((s.setCore s.core k).modCur fun c => c.modSeq s.seqId fun _ => q).charge s.core 1 0
  | none => s.illegal

/-- LOOP (R114). -/
def execLoop (a : GReg) (l : BitVec 16) (s : State) : Host.Outcome State Fault Refusal :=
  .next (s.withRes (s.cur.readG s.seqId a) fun x => s.loopWith x.2 x.1 l.toNat)

/-- LOOPI (R114). -/
def execLoopi (n : BitVec 10) (l : BitVec 16) (s : State) : Host.Outcome State Fault Refusal :=
  .next (s.loopWith s.cur (n.zeroExtend 64) l.toNat)

end Sys2Proof.Machine
end

