-- ==== Sys2Proof/Machine/LoadStore.lean ====
section
/-! DEFINITION. Loads and stores (spec/05_sequencers.md R108, R109, R111, R123-R127): addresses, checks, issue; the return of
load data and the row that carries it. -/

namespace Sys2Proof.Machine

open Sys2Proof

/-- The address of format M (R123): scale is the access size, 16 for LDA and STA. -/
def addrM (base : A80) (i : BitVec 11) (scale : Nat) : A80 := base + BitVec.ofInt 80 (i.toInt * (scale : Int))

/-- The address of format X (R123). -/
def addrX (base : A80) (g : W64) (sc : Fin 4) : A80 := base + (g.signExtend 80 <<< sc.val)

/-- The bytes of a size code (R45). -/
def sizeOf (z : Fin 4) : Nat := 2 ^ z.val

/-- The naturally aligned parts of 8 bytes or less of n bytes from an address (R125): offset and length of each. -/
def alignedCuts : Nat → Nat → Nat → Nat → List (Nat × Nat)
  | 0, _, _, _ => []
  | fuel + 1, a, o, n =>
    if n = 0 then []
    else
      let k := if a % 8 = 0 ∧ 8 ≤ n then 8 else if a % 4 = 0 ∧ 4 ≤ n then 4 else if a % 2 = 0 ∧ 2 ≤ n then 2 else 1
      (o, k) :: alignedCuts fuel (a + k) (o + k) (n - k)

/-- The accesses as which one part of an access is performed (R125): a request to a remote node stays one. -/
def Piece.cut (p : Piece) : List Piece :=
  if p.isRemote then [p]
  else (alignedCuts p.len p.va.toNat 0 p.len).map fun c =>
    { va := p.va + BitVec.ofNat 80 c.1, space := p.space, addr := p.addr + c.1, len := c.2 }

/-- The parts of an access of n bytes with permissions, or the fault (R123-R125, R374). -/
def State.checkAccess (s : State) (va : A80) (n : Nat) (need : Perm) : Except AFault (List Piece) :=
  if pastLocal va n then .error (protFault, va)
  else match s.pieces (s.ctxOf s.core) need (pagesOf va n) with
    | .error f => .error f
    | .ok ps => .ok (ps.flatMap Piece.cut)

/-- A store may not touch a live barrier word (R127) or a retired channel (R374). -/
def State.checkStore (s : State) (va : A80) (n : Nat) : Except AFault (List Piece) :=
  match s.checkAccess va n 2 with
  | .error f => .error f
  | .ok ps =>
    match s.writeBar (ps.filter fun p => p.space == .phys) with
    | some f => .error f
    | none => .ok ps

/-- Accesses whose data has not returned (R109). -/
def Seq.loadsOut (q : Seq) : Nat := (q.out.filter Access.loads).length

/-- The most accesses whose data may be outstanding (R109). -/
def maxLoads : Nat := 32

/-- The most lines of 64 bytes that the requests of a core may have outstanding (R109). -/
def maxLines : Nat := 4096

/-- The 64-byte lines that parts of an access outside the core touch. -/
def linesOf (ps : List Piece) : Nat :=
  (ps.map fun p => if p.space = .spad then 0 else (p.addr % 64 + p.len + 63) / 64).sum

/-- The lines that the requests of a core have outstanding (R109): accesses of its sequencers, and remote chunks of its copies,
64 lines each. -/
def Core.linesOut (k : Core) : Nat :=
  ((k.a.out ++ k.x.out).map fun x => linesOf x.pieces).sum + (engines.map fun e => 64 * (k.eng e).chunks.length).sum

/-- The requests for these parts find lines free (R109). -/
def Core.linesFree (k : Core) (ps : List Piece) : Bool := decide (k.linesOut + linesOf ps ≤ maxLines)

/-- BUDT of an access (R111): nothing in the local window. DESIGN CHOICE (notes/assumptions/70.md): nothing either for an access
of which only a part lies there. -/
def trafficOf (ps : List Piece) (n : Nat) : Nat := if ps.any fun p => p.space == .spad then 0 else n

/-- The place of a load's data, and the core with a queue entry reserved (R126). -/
def Core.loadDest (k : Core) (q : SeqId) (t : GReg) : Res (Dest × Core) :=
  if t = 0 ∨ t = 28 ∨ t = 29 then .ok (.discard, k)
  else if t = 30 ∨ t = 31 then
    (k.push q (t == 31) (.reserved (k.seq q).seqno.toNat)).bind fun k1 => .ok (.push t, k1)
  else if (k.seq q).awaits t then .stall .interlock
  else .ok (.g t, k)

/-- Put an access behind the others of its sequencer. -/
def Core.issue (k : Core) (q : SeqId) (op : AccessOp) (c : Cls) (d : Dest) (ps : List Piece) (acq rel wide : Bool)
    (since : W64) : Core :=
  k.modSeq q fun y => { y with out := y.out ++ [{ id := y.seqno.toNat, cls := c, op := op, dest := d, pieces := ps, acq := acq,
                                                  rel := rel, wide := wide, since := since, answers := [], sent := false }] }

/-- Issue a load of n bytes at an address (R108): k is the core after the operands were read. -/
def State.issueLoad (s : State) (k : Core) (va : A80) (n : Nat) (op : AccessOp) (c : Cls) (dest : Core → Res (Dest × Core)) :
    State :=
  if maxLoads ≤ s.curSeq.loadsOut then s.stallSeq .order
  else match s.checkAccess va n 1 with
    | .error f => s.trapAddr f
    | .ok ps =>
      if !k.linesFree ps then s.stallSeq .order
      else s.withRes (dest k) fun d =>
        ((s.setCore s.core (d.2.issue s.seqId op c d.1 ps false false false s.tick))).finish 1 (trafficOf ps n)

/-- Issue a store at an address (R108, R127); one through a fabric window makes the segment irreversible (R382). -/
def State.issueStore (s : State) (k : Core) (va : A80) (bs : List Byte) (c : Cls) : State :=
  match s.checkStore va bs.length with
  | .error f => s.trapAddr f
  | .ok ps =>
    if !k.linesFree ps then s.stallSeq .order
    else
      let t := (s.setCore s.core (k.issue s.seqId (.store bs) c .discard ps false false false s.tick)).finish 1 (trafficOf ps bs.length)
      if ps.any Piece.isRemote then t.irreversible s.core else t

/-- A load in format M. -/
def State.loadM (s : State) (t : GReg) (a : AReg) (c : Cls) (i : BitVec 11) (z : Fin 4) (sx : Bool) : State :=
  s.withRes (s.cur.readA s.seqId a) fun b =>
    s.issueLoad s.cur (addrM b i (sizeOf z)) (sizeOf z) (.load (sizeOf z) sx) c fun k => k.loadDest s.seqId t

/-- LD (R126). -/
def execLd (t : GReg) (a : AReg) (c : Cls) (i : BitVec 11) (z : Fin 4) (s : State) : Host.Outcome State Fault Refusal :=
  .next (s.loadM t a c i z false)

/-- LDS (R126). -/
def execLds (t : GReg) (a : AReg) (c : Cls) (i : BitVec 11) (z : Fin 4) (s : State) : Host.Outcome State Fault Refusal :=
  .next (s.loadM t a c i z true)

/-- ST (R126): the source may pop. -/
def execSt (t : GReg) (a : AReg) (c : Cls) (i : BitVec 11) (z : Fin 4) (s : State) : Host.Outcome State Fault Refusal :=
  .next (s.withRes (s.cur.readA s.seqId a) fun b => s.withRes (s.cur.readG s.seqId t) fun v =>
    s.issueStore v.2 (addrM b i (sizeOf z)) (leBytes (sizeOf z) v.1.toNat) c)

/-- LDA (R126). -/
def execLda (t a : AReg) (c : Cls) (i : BitVec 11) (s : State) : Host.Outcome State Fault Refusal :=
  .next (s.withRes (s.cur.readA s.seqId a) fun b =>
    s.issueLoad s.cur (addrM b i 16) 16 .loadA c fun k =>
      if (k.seq s.seqId).awaitsA t then .stall .interlock else .ok (.a t, k))

/-- STA (R126): bytes 10 to 15 are zero. -/
def execSta (t a : AReg) (c : Cls) (i : BitVec 11) (s : State) : Host.Outcome State Fault Refusal :=
  .next (s.withRes (s.cur.readA s.seqId a) fun b => s.withRes (s.cur.readA s.seqId t) fun v =>
    s.issueStore s.cur (addrM b i 16) (leBytes 16 v.toNat) c)

/-- LDX (R126): the index may pop. -/
def execLdx (t : GReg) (a : AReg) (c : Cls) (g : GReg) (sc : Fin 4) (x : Bool) (z : Fin 4) (s : State) :
    Host.Outcome State Fault Refusal :=
  .next (s.withRes (s.cur.readA s.seqId a) fun b => s.withRes (s.cur.readG s.seqId g) fun v =>
    s.issueLoad v.2 (addrX b v.1 sc) (sizeOf z) (.load (sizeOf z) x) c fun k => k.loadDest s.seqId t)

/-- STX (R126): the index pops before the source (notes/assumptions/25.md). -/
def execStx (t : GReg) (a : AReg) (c : Cls) (g : GReg) (sc z : Fin 4) (s : State) : Host.Outcome State Fault Refusal :=
  .next (s.withRes (s.cur.readA s.seqId a) fun b => s.withRes (s.cur.readG s.seqId g) fun v =>
    s.withRes (v.2.readG s.seqId t) fun w =>
      s.issueStore w.2 (addrX b v.1 sc) (leBytes (sizeOf z) w.1.toNat) c)

/-- LOAD_DATA_RETURN (R108, R110, R126): the data of an outstanding load, AMO or CAS reaches its destination, where R238 lets
it. -/
def execLoadDataReturn (c : CoreId) (q : SeqId) (id : Nat) (s : State) : Host.Outcome State Fault Refusal :=
  .next ((s.loadReturn c q id).tryCut c)

end Sys2Proof.Machine
end

