-- ==== Sys2Proof/Machine/Atomic.lean ====
section
/-! DEFINITION. Atomics, fences and barrier words (spec/05_sequencers.md R128-R135; spec/09_core_order.md R238-R241;
spec/15_die_memory.md R297, R299, R300; spec/22_fabric.md R404). -/

namespace Sys2Proof.Machine

open Sys2Proof

/-- RD, W and AT (R294). -/
def permAtomic : Perm := 7

/-- RD and AT (R294). -/
def permWatch : Perm := 5

/-- The word of an atomic or barrier instruction (R124, R125): aligned, outside the local window, permitted. -/
def State.checkWord (s : State) (va : A80) (need : Perm) : Except AFault Piece :=
  if va.toNat % 8 != 0 || inLocal va then .error (protFault, va)
  else match s.seqPiece (s.ctxOf s.core) va 8 need with
    | .error f => .error (f, va)
    | .ok p => .ok p

/-- Every earlier access of a sequencer is performed (R238). -/
def Seq.settled (q : Seq) : Bool := q.out.isEmpty

/-- The scope reaches remote observers (R235). -/
def scopeRemote : Scope → Bool
  | .fab => true
  | .sys => true
  | _ => false

/-- A remote store of these classes still waits for its answer. -/
def Seq.unanswered (q : Seq) (cls : Cls → Bool) : Bool := q.out.any fun x => !x.loads && x.isRemote && cls x.cls

/-- The oldest deferred cause of stores of these classes (R404). -/
def Seq.deferredOf (q : Seq) (cls : Cls → Bool) : Option Deferred := q.deferred.find? fun d => cls d.cls

/-- Take one deferred cause out. -/
def dropOne (d : Deferred) : List Deferred → List Deferred
  | [] => []
  | x :: r => if x = d then r else x :: dropOne d r

/-- An instruction that covers remote stores of these classes (R404): it waits for their answers, and raises the oldest
deferred cause instead of completing. -/
def State.covering (s : State) (cls : Cls → Bool) (go : State) : State :=
  if s.curSeq.unanswered cls then s.stallSeq .order
  else match s.curSeq.deferredOf cls with
    | some d =>
      (s.modCur fun k => k.modSeq s.seqId fun q => { q with deferred := dropOne d q.deferred }).trapSeq d.cause 0 (infoOf d.addr)
    | none => go

/-- Issue an AMO or CAS (R128-R130): k is the core after the operands were read. -/
def State.issueAtomic (s : State) (k : Core) (va : A80) (op : AccessOp) (t : GReg) (c : Cls) (o : MemOrder) (sc : Scope) :
    State :=
  if maxLoads ≤ s.curSeq.loadsOut then s.stallSeq .order
  else match s.checkWord va permAtomic with
    | .error f => s.trapAddr f
    | .ok p =>
      if p.space = .phys && s.isLive p.addr then s.trapAddr (⟨0x06, 0⟩, va)
      else if !k.linesFree [p] then s.stallSeq .order
      else s.withRes (k.loadDest s.seqId t) fun d =>
        (((s.setCore s.core (d.2.issue s.seqId op c d.1 [p] (o == .acq || o == .ar) (o == .rel || o == .ar)
          (scopeRemote sc || p.isRemote) s.tick)).finish 1 16).irreversible s.core)

/-- A releasing atomic at fab or sys scope covers remote stores (R404); one to a fabric window is performed at scope fab whatever
scope it names (R130). -/
def State.atomicCovers (s : State) (va : A80) (o : MemOrder) (sc : Scope) (go : State) : State :=
  if (o = .rel ∨ o = .ar) ∧ (scopeRemote sc || (s.fabricWindow (s.ctxOf s.core) va).isSome) then s.covering (fun _ => true) go
  else go

/-- An AMO of operation op (R128). -/
def State.amo (s : State) (op : Fin 8) (t : GReg) (a : AReg) (c : Cls) (g : GReg) (o : MemOrder) (sc : Scope) : State :=
  s.withRes (s.cur.readA s.seqId a) fun b => s.withRes (s.cur.readG s.seqId g) fun v =>
    s.atomicCovers b o sc (s.issueAtomic v.2 b (.amo op v.1) t c o sc)

/-- AMO swap (R128). -/
def execAmoSwap (t : GReg) (a : AReg) (c : Cls) (g : GReg) (o : MemOrder) (sc : Scope) (s : State) :
    Host.Outcome State Fault Refusal := .next (s.amo 0 t a c g o sc)

/-- AMO add (R128). -/
def execAmoAdd (t : GReg) (a : AReg) (c : Cls) (g : GReg) (o : MemOrder) (sc : Scope) (s : State) :
    Host.Outcome State Fault Refusal := .next (s.amo 1 t a c g o sc)

/-- AMO and (R128). -/
def execAmoAnd (t : GReg) (a : AReg) (c : Cls) (g : GReg) (o : MemOrder) (sc : Scope) (s : State) :
    Host.Outcome State Fault Refusal := .next (s.amo 2 t a c g o sc)

/-- AMO or (R128). -/
def execAmoOr (t : GReg) (a : AReg) (c : Cls) (g : GReg) (o : MemOrder) (sc : Scope) (s : State) :
    Host.Outcome State Fault Refusal := .next (s.amo 3 t a c g o sc)

/-- AMO xor (R128). -/
def execAmoXor (t : GReg) (a : AReg) (c : Cls) (g : GReg) (o : MemOrder) (sc : Scope) (s : State) :
    Host.Outcome State Fault Refusal := .next (s.amo 4 t a c g o sc)

/-- AMO max (R128). -/
def execAmoMax (t : GReg) (a : AReg) (c : Cls) (g : GReg) (o : MemOrder) (sc : Scope) (s : State) :
    Host.Outcome State Fault Refusal := .next (s.amo 5 t a c g o sc)

/-- AMO min (R128). -/
def execAmoMin (t : GReg) (a : AReg) (c : Cls) (g : GReg) (o : MemOrder) (sc : Scope) (s : State) :
    Host.Outcome State Fault Refusal := .next (s.amo 6 t a c g o sc)

/-- AMO maxu (R128). -/
def execAmoMaxu (t : GReg) (a : AReg) (c : Cls) (g : GReg) (o : MemOrder) (sc : Scope) (s : State) :
    Host.Outcome State Fault Refusal := .next (s.amo 7 t a c g o sc)

/-- CAS (R129): g[g] is read before g[t] (notes/assumptions/25.md). -/
def execCas (t : GReg) (a : AReg) (c : Cls) (g : GReg) (o : MemOrder) (sc : Scope) (s : State) :
    Host.Outcome State Fault Refusal :=
  .next (s.withRes (s.cur.readA s.seqId a) fun b => s.withRes (s.cur.readG s.seqId g) fun v =>
    s.withRes (v.2.readG s.seqId t) fun e => s.atomicCovers b o sc (s.issueAtomic e.2 b (.cas e.1 v.1) t c o sc))

/-- What other nodes have written is seen from here on, where an acquire or a FENCE reaches them (R238, R240). -/
def State.seesFar (s : State) (sc : Scope) : State := if scopeRemote sc then s.acquireFar else s

/-- FENCE (R131): it completes when the earlier accesses of its classes have been performed. -/
def execFence (sc : Scope) (m : BitVec 16) (s : State) : Host.Outcome State Fault Refusal :=
  let go := if s.curSeq.out.any fun x => m.getLsbD x.cls.val then s.stallSeq .order else (s.finish 1 0).seesFar sc
  .next (if scopeRemote sc then s.covering (fun c => m.getLsbD c.val) go else go)

/-- A release waits until every earlier access of its sequencer has been performed (R238). -/
def State.releasing (s : State) (go : State) : State := if s.curSeq.settled then go else s.stallSeq .order

/-- A barrier instruction works on its word (R124, R125, R299): the word's physical address is given on; host memory and the
fabric windows are refused. -/
def State.onBarrier (s : State) (va : A80) (need : Perm) (f : Nat → State) : State :=
  match s.checkWord va need with
  | .error e => s.trapAddr e
  | .ok p =>
    match p.space with
    | .phys => if s.isRetired p.addr then s.trapAddr (uncFault, va) else f p.addr
    | _ => s.trapAddr (protFault, va)

/-- BARINIT (R133). DESIGN CHOICE (notes/assumptions/71.md): translation and permission are checked before the count. An access in
flight on the word that waits for a remote node holds BARINIT back (R238, R299). -/
def execBarinit (t : GReg) (a : AReg) (_c : Cls) (_sc : Scope) (s : State) : Host.Outcome State Fault Refusal :=
  .next (s.withRes (s.cur.readA s.seqId a) fun b => s.withRes (s.cur.readG s.seqId t) fun v =>
    s.releasing (s.onBarrier b permAtomic fun pa =>
      if v.1 = 0 ∨ 65535 < v.1.toNat then s.illegal
      else if s.isLive pa then s.trapAddr (⟨0x06, 0⟩, b)
      else if regionOf pa = .host then s.trapAddr (protFault, b)
      else if (s.onWord pa).any s.stuck then s.stallSeq .order
      else
        let s1 := (s.setCore s.core v.2).settleWord pa
        let s2 := s1.physWrite [(pa, leBytes 8 (v.1.toNat * 2 ^ 16))]
        (({ s2 with live := insertAsc s2.live pa }.finish 1 8).irreversible s.core).progress s.core))

/-- BARINIT with kill (R133): a word that is not live is left unchanged; host memory carries no tags (R299). -/
def execBarinitKill (a : AReg) (_c : Cls) (_sc : Scope) (s : State) : Host.Outcome State Fault Refusal :=
  .next (s.withRes (s.cur.readA s.seqId a) fun b => s.releasing (s.onBarrier b permAtomic fun pa =>
    if regionOf pa = .host then s.trapAddr (protFault, b) else
    let s1 := if s.isLive pa then
        { s with live := s.live.filter fun w => w != pa }.physWrite [(pa, leBytes 8 0)]
      else s
    ((s1.finish 1 8).irreversible s.core).progress s.core))

/-- BARARR (R134): the old generation, with bit 63 for the last arrival. -/
def execBararr (t : GReg) (a : AReg) (_c : Cls) (sc : Scope) (s : State) : Host.Outcome State Fault Refusal :=
  .next (s.withRes (s.cur.readA s.seqId a) fun b => s.releasing (s.onBarrier b permAtomic fun pa =>
    if !s.isLive pa then s.trapAddr (protFault, b)
    else match s.firstUnc pa 8 with
      | some x => s.trapAddr (uncFault, b + BitVec.ofNat 80 (x - pa))
      | none =>
        let w := leNat (s.physRead pa 8)
        let gen := w / 2 ^ 32
        let n := w / 2 ^ 16 % 2 ^ 16
        let k := w % 2 ^ 16 + 1
        let last := k == n
        let new := if last then (gen + 1) % 2 ^ 32 * 2 ^ 32 + n * 2 ^ 16 else gen * 2 ^ 32 + n * 2 ^ 16 + k % 2 ^ 16
        s.withRes (s.cur.writeG s.seqId t (BitVec.ofNat 64 ((if last then 2 ^ 63 else 0) + gen))) fun c1 =>
          let s1 := (s.setCore s.core (c1.modSeq s.seqId fun q =>
            { q with arrival := some { addr := b, gen := BitVec.ofNat 32 gen } })).physWrite [(pa, leBytes 8 new)]
          (((s1.finish 1 16).seesFar sc).irreversible s.core).progress s.core))

/-- Some access in flight of the current sequencer is ordered before a load of class c of the word at va (R238, R130). -/
def State.loadHeld (s : State) (va : A80) (pa : Nat) (c : Cls) : Bool :=
  let y : Access := { id := 0, cls := c, op := .load 8 false, dest := .discard, acq := true, rel := false, wide := false, since := s.tick,
                      answers := [], sent := false, pieces := [{ va := va, space := .phys, addr := pa, len := 8 }] }
  s.curSeq.out.any fun x => orderedBefore x y || (x.stores && x.meets y)

/-- BARWAIT (R135): its read is a load of its class, which waits for what R238 orders before it. -/
def execBarwait (a : AReg) (c : Cls) (sc : Scope) (s : State) : Host.Outcome State Fault Refusal :=
  .next (s.withRes (s.cur.readA s.seqId a) fun b => s.onBarrier b permWatch fun pa =>
    if s.loadHeld b pa c then s.stallSeq .order
    else if !s.isLive pa then s.trapAddr (protFault, b)
    else match s.firstUnc pa 8 with
      | some x => s.trapAddr (uncFault, b + BitVec.ofNat 80 (x - pa))
      | none =>
        let gen := BitVec.ofNat 32 (leNat (s.physRead pa 8) / 2 ^ 32)
        match s.curSeq.arrival with
        | some r => if r.addr = b ∧ gen = r.gen then s.stallSeq .barrier else (s.finish 1 8).seesFar sc
        | none => (s.finish 1 8).seesFar sc)

end Sys2Proof.Machine
end

