-- ==== Sys2Proof/Machine/Ring.lean ====
section
/-! DEFINITION. Rings and semaphores from the control core (spec/05_sequencers.md R138-R142; spec/01_stream.md R21, R22), the
NOP and the completion of an engine entry. -/

namespace Sys2Proof.Machine

open Sys2Proof

/-- The bytes of a ring of log code z (R21, R139). -/
def ringBytesOf (z : Nat) : Nat := 2 ^ (z + 8)

/-- The ring after an entry is written into it (R138). -/
def Ring.enqueued (r : Ring) : Ring := { r with wslot := (r.wslot + 1) % r.slots, used := r.used + 1 }

/-- The core after ENQ wrote a word into ring e (R138, R268): the scratchpad, the ring, the segment. -/
def Core.enqueue (k : Core) (e : Eng) (r : Ring) (w : W64) : Core :=
  let off := r.base.toNat + 8 * r.wslot
  { k with spad := putBytes k.spad off (leBytes 8 w.toNat), spadBad := clearBad k.spadBad off 8,
           seg := { k.seg with words := k.seg.words ++ [w] } }.modEng e fun t =>
    { t with ring := some r.enqueued, count := t.count + 1 }

/-- ENQ of a word (R138): k is the core after the operand was read. -/
def State.enqWord (s : State) (k : Core) (e : Eng) (w : W64) (words : Nat) : State :=
  if s.seqId = .a then s.illegal
  else match (s.cur.eng e).ring with
    | none => s.illegal
    | some r =>
      if r.slots ≤ r.used then s.stallSeq (.ringFull e)
      else ((s.setCore s.core (k.enqueue e r w)).finish words 0).arrive s.core e

/-- ENQ, register form (R138). -/
def execEnq (r : Eng) (a : GReg) (s : State) : Host.Outcome State Fault Refusal :=
  .next (if s.seqId = .a then s.illegal
    else if (s.cur.eng r).ring.isNone then s.illegal
    else s.withRes (s.cur.readG s.seqId a) fun v => s.enqWord v.2 r v.1 1)

/-- ENQ, inline form: three words (R50, R138). -/
def execEnqInline (r : Eng) (w : W64) (s : State) : Host.Outcome State Fault Refusal := .next (s.enqWord s.cur r w 3)

/-- A ring is empty and its engine idle, in ring mode (R22, R232). -/
def Core.ringIdle (k : Core) (e : Eng) : Bool :=
  let t := k.eng e
  (match t.ring with | some r => r.used == 0 | none => true) && t.phase == .idle && t.head.isNone && t.chainPc.isNone
    && !k.refetching e

/-- RINGSET (R139). -/
def execRingset (r : Eng) (a : GReg) (z : Fin 16) (s : State) : Host.Outcome State Fault Refusal :=
  .next (if s.seqId = .a then s.illegal
    else s.withRes (s.cur.readG s.seqId a) fun v =>
      let size := ringBytesOf z.val
      if v.1.toNat % size != 0 || decide (2 ^ 22 < v.1.toNat + size) then s.illegal
      else if !s.cur.ringIdle r then s.stallSeq (.ringBusy r)
      else
        ((s.setCore s.core v.2).modCur fun k => k.modEng r fun t =>
          { t with ring := some { base := BitVec.ofNat 22 v.1.toNat, log := Fin.ofNat 9 z.val, wslot := 0, rslot := 0,
                                  used := 0 } }).finish 1 0)

/-- The masks of the unit declare semaphore n for the current sequencer (R142). -/
def State.mayWait (s : State) (n : Fin 64) : Bool :=
  match s.cur.unit with
  | some u => declares u.wmask (seqIndex s.seqId) n
  | none => false

/-- The same for posts (R142). -/
def State.mayPost (s : State) (n : Fin 64) : Bool :=
  match s.cur.unit with
  | some u => declares u.smask (seqIndex s.seqId) n
  | none => false

/-- The wait of the current sequencer is already pending. -/
def State.isWaiting (s : State) (n : Fin 64) : Bool :=
  (s.waitsOf s.core n).any fun w => w.core == s.core && w.stream == .seq s.seqId

/-- SEMWAIT (R140): served at once, or pending until R18 serves it. -/
def execSemwait (n : Fin 64) (m : WMode) (s : State) : Host.Outcome State Fault Refusal :=
  .next (if !s.mayWait n then s.trapSeq 0x05 1 (BitVec.ofNat 64 n.val)
    else if s.isWaiting n then s.stallSeq (.sem n m)
    else if waitHolds m (s.semCount s.core n) then ((s.finish 1 0).consume s.core n m).progress s.core
    else (s.stallSeq (.sem n m)).addWait s.core (.seq s.seqId) n m)

/-- Semaphore overflow at the current sequencer (R19). -/
def State.overflowSeq (s : State) (n : Fin 64) : State := s.trapSeq 0x07 0 (BitVec.ofNat 64 n.val)

/-- SEMPOST (R141). -/
def execSempost (a : GReg) (n : Fin 64) (m : SOp) (s : State) : Host.Outcome State Fault Refusal :=
  .next (if !s.mayPost n then s.trapSeq 0x05 2 (BitVec.ofNat 64 n.val)
    else s.withRes (s.cur.readG s.seqId a) fun v =>
      s.releasing (match ((s.setCore s.core v.2).finish 1 0).signal s.core n m v.1.toNat with
        | some t => t.bankUse s.core n
        | none => s.overflowSeq n))

/-- SEMGET (R142). -/
def execSemget (d : GReg) (n : Fin 64) (s : State) : Host.Outcome State Fault Refusal :=
  .next (if !(s.mayWait n || s.mayPost n) then s.trapSeq 0x05 1 (BitVec.ofNat 64 n.val)
    else s.finishRes (s.cur.writeG s.seqId d ((s.semCount s.core n).zeroExtend 64)))

/-- SEMSET (R142). -/
def execSemset (a : GReg) (n : Fin 64) (s : State) : Host.Outcome State Fault Refusal :=
  .next (if !s.mayPost n then s.trapSeq 0x05 2 (BitVec.ofNat 64 n.val)
    else s.withRes (s.cur.readG s.seqId a) fun v =>
      if 65535 < v.1.toNat then s.overflowSeq n
      else s.releasing (((s.setCore s.core v.2).finish 1 0).updateSem s.core n (BitVec.ofNat 16 v.1.toNat)))

/-- ENGINE_NOP (R13): a NOP of an engine, one busy cycle (R156, R197, R233). -/
def execEngineNop (e : Eng) (_y : Sync) (s : State) : Host.Outcome State Fault Refusal :=
  .next (s.workDone s.core e 1 1 0 1)

/-- ENTRY_COMPLETE (R15, R33): the entry whose work is done applies its signal and frees its slot. -/
def execEntryComplete (e : Eng) (s : State) : Host.Outcome State Fault Refusal := .next (s.completeEntry s.core e)

end Sys2Proof.Machine
end

