-- ==== Sys2Proof/Machine/System.lean ====
section
/-! DEFINITION. System registers, traps and their return, HALT, time (spec/03_core_state.md R74, R84;
spec/05_sequencers.md R143-R147; spec/10_work_unit.md R248, R258, R259). -/

namespace Sys2Proof.Machine

open Sys2Proof

/-- Replace one of the four divisors. -/
def Divs.put (d : Divs) (e : DivSel) (v : Fin 32) : Divs :=
  match e with
  | .c => { d with c := v }
  | .m => { d with m := v }
  | .v => { d with v := v }
  | .w => { d with w := v }

/-- The value that MFS reads (R74, R55); none for a number outside the map. -/
def State.sysRead (s : State) (r : BitVec 8) : Option W64 :=
  let y := s.cur.sys
  match r.toNat with
  | 0x00 => some (y.budi.signExtend 64)
  | 0x01 => some (y.budt.signExtend 64)
  | 0x02 => some (y.budg.signExtend 64)
  | 0x03 => some (y.ctxid.zeroExtend 64)
  | 0x04 => some (BitVec.ofNat 64 (y.trapvEn.toNat * 2 ^ 48 + y.trapvAddr.toNat * 4))
  | 0x05 => some (y.tcause.zeroExtend 64)
  | 0x06 => some y.tinfo
  | 0x07 => some y.tpc
  | 0x08 => some (BitVec.ofNat 64 y.level.val)
  | 0x09 => some (BitVec.ofNat 64 (s.divInForce s.core .c))
  | 0x0A => some (BitVec.ofNat 64 (s.divInForce s.core .m))
  | 0x0B => some (BitVec.ofNat 64 (s.divInForce s.core .v))
  | 0x0C => some (BitVec.ofNat 64 (s.divInForce s.core .w))
  | 0x0D => some (y.throt.zeroExtend 64)
  | 0x0E => some (y.stallv.zeroExtend 64)
  | 0x0F => some (y.stallm.zeroExtend 64)
  | 0x10 => some y.seed
  | 0x11 => some s.tick
  | 0x12 => some (y.unit.zeroExtend 64)
  | 0x13 => some y.launch
  | _ => none

/-- The system registers after MTS writes their RW fields (R74); the others are unchanged (R6). -/
def Sys.write (y : Sys) (r : BitVec 8) (v : W64) : Sys :=
  match r.toNat with
  | 0x04 => { y with trapvEn := v.extractLsb' 48 16, trapvAddr := v.extractLsb' 2 15 }
  | 0x0E => { y with stallv := v.extractLsb' 0 48 }
  | 0x0F => { y with stallm := v.extractLsb' 0 48 }
  | 0x10 => { y with seed := v }
  | _ => y

/-- The V ring holds no incomplete entry and Serir is idle (R143). -/
def Core.serirIdle (k : Core) : Bool :=
  (match k.vEng.ring with | some r => r.used == 0 | none => true) && k.vEng.phase == .idle

/-- The core after MTS (R143): a write of SEED seeds the lane generators (R95). -/
def Core.writeSys (k : Core) (r : BitVec 8) (v : W64) : Core :=
  let k1 := { k with sys := k.sys.write r v }
  if r = 0x10 then { k1 with serir := { k1.serir with lanes := lanesOf v } } else k1

/-- MFS (R143). -/
def execMfs (d : GReg) (r : BitVec 8) (s : State) : Host.Outcome State Fault Refusal :=
  .next (match s.sysRead r with
    | some v => s.finishRes (s.cur.writeG s.seqId d v)
    | none => s.illegal)

/-- MTS (R143). -/
def execMts (a : GReg) (r : BitVec 8) (s : State) : Host.Outcome State Fault Refusal :=
  .next (if (s.sysRead r).isNone then s.illegal
    else if r = 0x10 ∧ s.cur.serirIdle = false then s.stallSeq .seed
    else s.finishRes ((s.cur.readG s.seqId a).bind fun v => .ok (v.2.writeSys r v.1)))

/-- TRAP (R144). -/
def execTrap (c : BitVec 8) (s : State) : Host.Outcome State Fault Refusal := .next (s.trapSeq 0x10 0 (c.zeroExtend 64))

/-- The unit on core c can end (R248): both sequencers halted, every engine stream empty and in ring mode, and no completed
access still to be performed. -/
def Core.unitDone (k : Core) : Bool :=
  k.a.halted && k.x.halted && k.stop.isNone && k.handled.isNone && engines.all k.ringIdle && k.a.out.isEmpty && k.x.out.isEmpty

/-- HALT (R146): illegal in handler mode; it covers remote stores (R404). The program counter stays at the HALT: where it is the
last word of a body, the loop does not close and its level keeps its count (DEDUCED, notes/assumptions/80.md). -/
def execHalt (s : State) : Host.Outcome State Fault Refusal :=
  .next (if s.curSeq.handler then s.illegal
    else s.covering (fun _ => true)
      (((s.modCur fun k => k.modSeq s.seqId fun q =>
        { q with halted := true, seqno := q.seqno + 1, stall := .none, cont := none }).charge s.core 1 0).progress s.core))

/-- NOP (R147). -/
def execNop (s : State) : Host.Outcome State Fault Refusal := .next (s.finish 1 0)

/-- TIME (R147). -/
def execTime (d : GReg) (s : State) : Host.Outcome State Fault Refusal :=
  .next (s.finishRes (s.cur.writeG s.seqId d s.tick))

/-- WAITT (R147): it completes once TICK has reached g[s1]. -/
def execWaitt (a : GReg) (s : State) : Host.Outcome State Fault Refusal :=
  .next (s.withRes (s.cur.readG s.seqId a) fun v =>
    if v.1.ule s.tick then (s.setCore s.core v.2).finish 1 0 else s.stallSeq (.tick v.1))

/-- WAITT_TICK_REACHED (R147): a sequencer that waits for TICK goes on with its WAITT. -/
def execWaittTickReached (c : CoreId) (q : SeqId) (s : State) : Host.Outcome State Fault Refusal :=
  let k := s.coreAt c
  match (k.seq q).stall, k.unit.isSome && k.stop.isNone && (k.handled.isNone || q == .x) with
  | .tick t, true =>
    if t.ule s.tick then
      match decodeWords [getNat k.code (k.seq q).pc.toNat 4] with
      | some (.waitt a) => execWaitt a { s with core := c, stream := .seq q }
      | _ => .next s
    else .next s
  | _, _ => .next s

/-- ILLEGAL_INSTRUCTION (R40): TINFO holds the word. -/
def execIllegalInstruction (w : W32) (s : State) : Host.Outcome State Fault Refusal :=
  .next (s.trapSeq 0x01 0 (w.zeroExtend 64))

end Sys2Proof.Machine
end

