-- ==== Sys2Proof/Machine/Work.lean ====
section
/-! DEFINITION. Launches, counters, work queues, watchpoints (spec/10_work_unit.md R247, R250-R253; spec/15_die_memory.md R301,
R302; spec/17_die_sched.md R320), continuation points, budgets, segments, divisors (spec/10_work_unit.md R256, R259, R260,
R268). -/

namespace Sys2Proof.Machine

open Sys2Proof

/-! ## Shared steps -/

/-- The destination register can be written now. -/
def State.withDest (s : State) (d : GReg) (go : State) : State :=
  match s.cur.writeG s.seqId d 0 with
  | .ok _ => go
  | .stall w => s.stallSeq w
  | .trap c q t => s.trapSeq c q t

/-- Write a general register that can be written. -/
def State.putG (s : State) (d : GReg) (v : W64) : State :=
  match s.cur.writeG s.seqId d v with
  | .ok k => s.setCore s.core k
  | _ => s

/-- The context of the unit that runs. -/
def State.myCtx (s : State) : Nat := s.ctxOf s.core

/-- The launch of the unit that runs. -/
def State.myLaunch (s : State) : Option Launch := s.cur.unit.bind fun u => s.launch u.launch

/-- An address fault of protection. -/
def State.protAt (s : State) (va : A80) : State := s.trapAddr (protFault, va)

/-! ## Launches and counters -/

/-- 2^63 + a refusal code (R247). -/
def refusedCode (c : Nat) : W64 := BitVec.ofNat 64 (2 ^ 63 + c)

/-- LAUNCH (R247): a record at a misaligned address is refused with code 1 (notes/assumptions/26.md). -/
def execLaunch (d : GReg) (a : AReg) (s : State) : Host.Outcome State Fault Refusal :=
  .next (s.withRes (s.cur.readA s.seqId a) fun va => s.releasing (s.withDest d
    (if va.toNat % 128 != 0 then ((s.putG d (refusedCode 1)).finish 1 128).irreversible s.core
     else match s.readAt s.core s.myCtx va 128 with
      | .error f => s.trapAddr f
      | .ok bs =>
        let (t, v) := s.submit s.myCtx bs
        ((t.putG d v).finish 1 128).irreversible s.core)))

/-- A counter of the unit's context (R250). -/
def State.counterOf (s : State) (l : Level) (n : Nat) : BitVec 48 :=
  match s.ctx s.myCtx with
  | some c => c.counter l n
  | none => 0

/-- CCWAIT (R251). -/
def execCcwait (a : GReg) (l : Level) (n : Fin 256) (s : State) : Host.Outcome State Fault Refusal :=
  .next (s.withRes (s.cur.readG s.seqId a) fun v =>
    if reached (s.counterOf l n.val) (v.1.extractLsb' 0 48) then (s.setCore s.core v.2).finish 1 0 else s.stallSeq .counter)

/-- CCGET (R251). -/
def execCcget (d : GReg) (l : Level) (n : Fin 256) (s : State) : Host.Outcome State Fault Refusal :=
  .next (s.finishRes (s.cur.writeG s.seqId d ((s.counterOf l n.val).zeroExtend 64)))

/-! ## Work queues -/

/-- The items of a deque, from its head (R253). -/
def Launch.deque (l : Launch) (q : Fin 256) (u : Nat) : List W64 :=
  match l.deques.find? fun d => d.1 == q && d.2.1 == u with
  | some d => d.2.2
  | none => []

/-- Replace a deque. -/
def Launch.setDeque (l : Launch) (q : Fin 256) (u : Nat) (items : List W64) : Launch :=
  let rest := l.deques.filter fun d => !(d.1 == q && d.2.1 == u)
  { l with deques := if items = [] then rest else rest ++ [(q, u, items)] }

/-- The items a deque holds (R253). -/
def dequeSize : Nat := 4096

/-- The lowest-numbered unit whose deque of q holds an item. -/
def Launch.firstHolder (l : Launch) (q : Fin 256) : Option Nat :=
  (l.deques.filter fun d => d.1 == q && !d.2.2.isEmpty).foldl
    (fun r d => match r with | some u => some (min u d.2.1) | none => some d.2.1) none

/-- A unit of a launch waits in a blocking WPOP on q: a stop leaves it not completed, and so does the unit's handler (R144, R253). -/
def Core.waitsQueue (k : Core) (q : Fin 256) : Bool :=
  [SeqId.a, SeqId.x].any fun i => (k.seq i).stall == .workQueue q && k.seqRuns i

/-- Queue q of a launch closes (R253): every unit is resident, no deque of q holds an item, and every unit that has not ended
waits. -/
def State.closes (s : State) (l : Launch) (q : Fin 256) : Bool :=
  l.units.length == l.task.units && (l.firstHolder q).isNone &&
    l.units.all fun r => match r.state with
      | .running c => (s.coreAt c).waitsQueue q
      | .ended => true
      | _ => false

/-- A work-group instruction completes with a code, its item where there is one (R253): the item is written first. -/
def State.workResult (s : State) (d a : GReg) (code : Nat) (item : Option W64) : State :=
  let s1 := match item with | some v => s.putG a v | none => s
  let s2 := ((s1.putG d (BitVec.ofNat 64 code)).finish 1 16).irreversible s.core
  if code = 0 then s2.progress s.core else s2

/-- Both result registers of a pop can be written now. -/
def State.withDests (s : State) (d a : GReg) (go : State) : State :=
  match (s.cur.writeG s.seqId a 0).bind fun k => k.writeG s.seqId d 0 with
  | .ok _ => go
  | .stall w => s.stallSeq w
  | .trap c q t => s.trapSeq c q t

/-- WPOP (R253, R320) for the current sequencer. -/
def State.wpop (s : State) (d a : GReg) (n : Bool) (q : Fin 256) : State :=
  s.withDests d a
    (match s.myLaunch, s.cur.unit with
     | some l, some u =>
       if l.closed.contains q then s.workResult d a 2 none
       else match l.deque q u.unit with
         | v :: r => (s.modLaunch l.id fun x => x.setDeque q u.unit r).workResult d a 0 (some v)
         | [] =>
           match l.firstHolder q with
           | some w =>
             let items := l.deque q w
             (s.modLaunch l.id fun x => x.setDeque q w items.dropLast).workResult d a 0 items.getLast?
           | none =>
             if n || !l.task.persist then s.workResult d a 1 none
             else
               let t := s.stallSeq (.workQueue q)
               if t.closes l q then t.modLaunch l.id fun x => { x with closed := x.closed ++ [q] } else t
     | _, _ => s.workResult d a 1 none)

/-- A sequencer that waits in a WPOP on q retries it (R319), unless its core stops or runs the unit's handler. -/
def State.retryPop (q : Fin 256) (s : State) (w : CoreId × SeqId) : State :=
  let k := s.coreAt w.1
  if (k.seq w.2).stall == .workQueue q && k.seqRuns w.2 then
    match k.fetch w.2 with
    | some (.wpop d a n p) => ((s.turn w.1 (.seq w.2)).wpop d a n p).turn s.core s.stream
    | _ => s
  else s

/-- Every WPOP of a launch that waits on q retries (R319): first those of the unit that owns the deque, then by unit number. -/
def State.retryPops (s : State) (launch : Nat) (q : Fin 256) (owner : Nat) : State :=
  let cores := s.holding fun u => u.launch == launch
  let number (c : CoreId) : Nat := match s.resident c with | some u => u.unit | none => 0
  let order := (cores.filter fun c => number c == owner) ++
    sortBy (fun x y => decide (number x < number y)) (cores.filter fun c => number c != owner)
  ((order.map fun c => [(c, SeqId.a), (c, SeqId.x)]).flatten).foldl (State.retryPop q) s

/-- Every WPOP waiting on a queue that has just closed completes (R319). -/
def State.retryClosed (s : State) (was : Option Launch) (q : Fin 256) : State :=
  match was with
  | some l => match s.launch l.id with
    | some m => if m.closed.contains q && !l.closed.contains q then s.retryPops l.id q 0 else s
    | none => s
  | none => s

/-- The work queues on which a launch's units wait. -/
def State.awaitedQueues (s : State) (id : Nat) : List (Fin 256) :=
  let of (q : Seq) : List (Fin 256) := match q.stall with | .workQueue n => [n] | _ => []
  (((s.holding fun u => u.launch == id).map fun c => of (s.coreAt c).a ++ of (s.coreAt c).x).flatten).eraseDups

/-- A unit of a launch has ended: the queues whose close condition holds now close, and their waiters complete (R319, R320). -/
def State.closeQueues (s : State) (id : Nat) : State :=
  (s.awaitedQueues id).foldl (fun t q =>
    match t.launch id with
    | some l =>
      if t.closes l q && !l.closed.contains q then
        (t.modLaunch id fun x => { x with closed := x.closed ++ [q] }).retryPops id q 0
      else t
    | none => t) s

/-- The unit that owns a deque pops queue q in this cycle: one of its sequencers is at a WPOP of q that it executes. -/
def State.ownerPops (s : State) (l : Launch) (u : Nat) (q : Fin 256) : Bool :=
  (s.holding fun v => v.launch == l.id && v.unit == u).any fun c => [SeqId.a, SeqId.x].any fun i =>
    let k := s.coreAt c
    k.seqRuns i && match k.fetch i with
      | some (.wpop d a _ p) => p == q && (match (k.writeG i a 0).bind fun k => k.writeG i d 0 with | .ok _ => true | _ => false)
      | _ => false

/-- ERET (R145): the return from the unit's own handler; where that ends the unit, the work queues of its launch may close (R320). -/
def execEret (s : State) : Host.Outcome State Fault Refusal :=
  .next (match s.seqId, s.cur.x.handler, s.cur.handled with
    | .x, true, some st =>
      (((s.modCur fun k => k.modSeq .x fun q => { q with seqno := q.seqno + 1, stall := .none }).charge s.core 1 0).leaveHandler
        s.core st).closeQueues (match s.cur.unit with | some u => u.launch | none => 0)
    | _, _, _ => s.illegal)

/-- WPUSH (R253, R319). -/
def execWpush (d a : GReg) (q : Fin 256) (s : State) : Host.Outcome State Fault Refusal :=
  .next (s.withRes (s.cur.readG s.seqId a) fun v => s.releasing (s.withDest d
    (match s.myLaunch, s.cur.unit with
     | some l, some u =>
       let t := s.setCore s.core v.2
       let items := l.deque q u.unit
       if l.closed.contains q then t.workResult d a 2 none
       else if dequeSize ≤ items.length then t.workResult d a 3 none
       else ((t.modLaunch l.id fun x => x.setDeque q u.unit (v.1 :: items)).workResult d a 0 none).retryPops l.id q u.unit
     | _, _ => (s.setCore s.core v.2).workResult d a 2 none)))

/-- WPOP (R253, R320). -/
def execWpop (d a : GReg) (n : Bool) (q : Fin 256) (s : State) : Host.Outcome State Fault Refusal :=
  .next ((s.wpop d a n q).retryClosed s.myLaunch q)

/-- WSTEAL (R253): g[s1] supplies the victim and receives the item; for the last item its owner's WPOP in the same cycle wins
(DEDUCED, notes/assumptions/83.md). -/
def execWsteal (d a : GReg) (q : Fin 256) (s : State) : Host.Outcome State Fault Refusal :=
  .next (s.withRes (s.cur.readG s.seqId a) fun v => s.withDests d a
    (let t := s.setCore s.core v.2
     match s.myLaunch with
     | some l =>
       if l.closed.contains q then t.workResult d a 2 none
       else if l.task.units ≤ v.1.toNat then t.workResult d a 4 none
       else
         let items := l.deque q v.1.toNat
         if items.length = 1 && s.ownerPops l v.1.toNat q then t.workResult d a 1 none
         else match items.getLast? with
         | some x => (t.modLaunch l.id fun y => y.setDeque q v.1.toNat items.dropLast).workResult d a 0 (some x)
         | none => t.workResult d a 1 none
     | none => t.workResult d a 4 none))

/-! ## WATCH -/

/-- The fields of a watch descriptor (R301); none where R302 refuses it whatever LINE is. -/
def parseWatch (bs : List Byte) : Option (A80 × BitVec 16 × BitVec 8 × W64 × W64 × A80) :=
  let f := fieldNat bs
  if f 0x0C 1 < 16 && f 0x0C 1 % 4 != 3 && zeroBytes bs 0x0D 3 && zeroBytes bs 0x2A 22 && f 0x0A 2 != 0 && f 0 10 % 128 == 0 then
    some (BitVec.ofNat 80 (f 0 10), BitVec.ofNat 16 (f 0x0A 2), BitVec.ofNat 8 (f 0x0C 1), BitVec.ofNat 64 (f 0x10 8),
      BitVec.ofNat 64 (f 0x18 8), BitVec.ofNat 80 (f 0x20 10))
  else none

/-- The watchpoints a slice holds (R301). -/
def watchesPerSlice : Nat := 8

/-- WATCH completes with a status. -/
def State.watchResult (s : State) (d : GReg) (code : Nat) : State :=
  let t := ((s.putG d (BitVec.ofNat 64 code)).finish 1 192).irreversible s.core
  if code = 0 then t.progress s.core else t

/-- Register, or remove, a watchpoint on a physical line (R302). -/
def State.watchLine (s : State) (d : GReg) (pa : Nat) (w : A80 × BitVec 16 × BitVec 8 × W64 × W64 × A80) : State :=
  let (_, words, cond, mask, value, task) := w
  let x := s.myCtx
  let die := homeDie pa
  if regionOf pa = .host then s.watchResult d 0x20
  else if cond.getLsbD 3 then
    (s.modDie die fun y => { y with watch := y.watch.filter fun v => !(v.ctx == x && v.line == pa && v.task == task) }).watchResult
      d 0
  else if task.toNat % 128 != 0 then s.watchResult d 0x20
  else match s.readAt s.core x task 128 with
    | .error f => s.trapAddr f
    | .ok rec =>
      let bad := match s.ctx x with
        | some c => s.refusal c (parseTask rec) != 0
        | none => true
      if bad then s.watchResult d 0x20
      else if watchesPerSlice ≤ ((s.die die).watch.filter fun v => v.slice == sliceOf pa).length then s.watchResult d 0x21
      else
        (s.modDie die fun y => { y with watch := y.watch ++
          [{ slice := sliceOf pa, line := pa, words := words, cond := cond, mask := mask, value := value, task := task,
             record := rec, ctx := x, pending := false }] }).watchResult d 0

/-- WATCH (R302, R401). DESIGN CHOICE (notes/assumptions/43.md): a descriptor whose address is no multiple of 64, for which R301 names no
outcome, is refused with code 0x20. -/
def execWatch (d : GReg) (a : AReg) (s : State) : Host.Outcome State Fault Refusal :=
  .next (s.withRes (s.cur.readA s.seqId a) fun va => s.releasing (s.withDest d
    (match s.readAt s.core s.myCtx va 64 with
     | .error f => s.trapAddr f
     | .ok bs =>
       let line := BitVec.ofNat 80 (fieldNat bs 0 10)
       if inLocal line || inCluster line then s.watchResult d 0x20
       else match s.seqPiece s.myCtx line 1 permWatch with
         | .error f => s.trapAddr (f, line)
         | .ok p =>
           match p.space, parseWatch bs with
           | .phys, some w => if va.toNat % 64 != 0 then s.watchResult d 0x20 else s.watchLine d p.addr w
           | .phys, none => s.watchResult d 0x20
           | _, _ => s.protAt line)))

/-! ## Continuation points -/

/-- Loads, AMOs and CASs of both sequencers have returned (R260). -/
def Core.loadsBack (k : Core) : Bool := (k.a.out ++ k.x.out).all fun x => !x.loads

/-- Every queue between the sequencers is empty (R260). -/
def Core.queuesEmpty (k : Core) : Bool :=
  k.ax0.isEmpty && k.ax1.isEmpty && k.xa0.isEmpty && k.xa1.isEmpty && k.axOut.isEmpty && k.xaOut.isEmpty

/-- The sequencers that stand at a CONT. -/
def Core.atCont (k : Core) : List SeqId := [SeqId.a, SeqId.x].filter fun q => (k.seq q).cont.isSome

/-- The sequencers that stand at a CONT raise an illegal instruction there, in the same cycle (R35, R260). -/
def State.contIllegal (s : State) : State :=
  s.raiseTogether s.core (s.cur.atCont.map fun q => s.cur.mkCause (.seq q) 0x01 0
    (BitVec.ofNat 64 (getNat s.cur.code (s.cur.seq q).pc.toNat 4)))

/-- The sequencers at a CONT continue at their next words (R260). -/
def State.contGo (s : State) (c : CoreId) : State :=
  (((s.coreAt c).atCont.foldl (fun t q => (t.modCore c fun k => k.modSeq q fun x => x.advance 1).charge c 1 0) s).modCore c Core.noDrain).progress c

/-- The meeting at a CONT (R260): the current sequencer already stands there. -/
def State.contMeet (s : State) (n : BitVec 16) : State :=
  let o := s.cur.seq (otherSeq s.seqId)
  if o.cont.isNone && !o.halted then s
  else if o.cont.isSome && o.cont != some n then s.contIllegal
  else if !s.cur.loadsBack then s
  else if !s.cur.queuesEmpty then s.contIllegal
  else match s.cur.unit with
    | some u =>
      if u.reasons = 0 then s.contGo s.core else s.modCur fun k => k.modUnit fun v => { v with draining := true }
    | none => s

/-- CONT (R260): illegal in handler mode and while a loop level is active. -/
def execCont (n : BitVec 16) (s : State) : Host.Outcome State Fault Refusal :=
  .next (if s.curSeq.handler || !s.curSeq.loops.isEmpty then s.illegal
    else s.covering (fun _ => true)
      (((s.stallSeq .cont).modCur fun k => k.modSeq s.seqId fun q => { q with cont := some n }).contMeet n))

/-- YIELD (R260): the voluntary reason. -/
def execYield (s : State) : Host.Outcome State Fault Refusal :=
  .next ((s.addReason s.core reasonVoluntary).finish 1 0)

/-! ## Budgets, segments, divisors -/

/-- A privilege of the unit's context (R326). -/
def State.privileged (s : State) (bit : Nat) : Bool :=
  match s.ctx s.myCtx with
  | some c => c.privs.getLsbD bit
  | none => false

/-- TOPUP's limit and the register's value (R256). -/
def topupRoom (y : Sys) (r : Fin 4) : Int :=
  match r with
  | 0 => (2 ^ 47 - 1 : Nat) - y.budi.toInt
  | 1 => (2 ^ 47 - 1 : Nat) - y.budt.toInt
  | _ => (2 ^ 31 - 1 : Nat) - y.budg.toInt

/-- Add m to a budget register. -/
def Sys.topup (y : Sys) (r : Fin 4) (m : Nat) : Sys :=
  match r with
  | 0 => { y with budi := y.budi + BitVec.ofNat 48 m }
  | 1 => { y with budt := y.budt + BitVec.ofNat 48 m }
  | _ => { y with budg := y.budg + BitVec.ofNat 32 m }

/-- The budget reason is cleared when it is the only one and no budget is negative (R256). -/
def Core.clearBudget (k : Core) : Core :=
  if k.sys.budi.msb || k.sys.budt.msb then k
  else k.modUnit fun u => if u.reasons = reasonBudget then { u with reasons := 0 } else u

/-- TOPUP (R256). -/
def execTopup (a : GReg) (r : Fin 4) (s : State) : Host.Outcome State Fault Refusal :=
  .next (if !s.privileged 0 then s.noPrivilege
    else s.withRes (s.cur.readG s.seqId a) fun v =>
      let pool := match s.ctx s.myCtx with | some c => c.pool.toNat | none => 0
      let m := min (min v.1.toNat pool) (topupRoom s.cur.sys r).toNat
      let t := (s.setCore s.core v.2).modCtx s.myCtx fun c => { c with pool := c.pool - BitVec.ofNat 48 m }
      ((t.modCur fun k => ({ k with sys := k.sys.topup r m } : Core).clearBudget).finish 1 0).irreversible s.core)

/-- Every entry of the segment has completed (R268): the rings hold none. -/
def Core.ringsEmpty (k : Core) : Bool :=
  engines.all fun e => match (k.eng e).ring with | some r => r.used == 0 | none => true

/-- The CRC-32C of a segment's words (R268). -/
def segmentCrc (ws : List W64) : Nat := (crc32c ((ws.map fun w => leBytes 8 w.toNat).flatten)).toNat

/-- A new segment after a PHASE that completed (R268, R381-R383), with its checkpoint. -/
def Core.nextSegment (k : Core) : Core :=
  let k1 := { k with seg := { Segment.reset with irreversible := k.seg.refetchMany, phases := k.seg.phases + 1 } }
  { k1 with check := some (k1.checkpoint k.seg.refetch) }

/-- PHASE (R268): only on the X-sequencer. R5 refuses a record with a nonzero reserved byte with the status of the record's own
description, and a segment record has one refusal: the mismatch, 0x0A (DESIGN CHOICE, notes/assumptions/81.md). -/
def execPhase (a : AReg) (s : State) : Host.Outcome State Fault Refusal :=
  .next (if s.seqId = .a then s.illegal
    else s.withRes (s.cur.readA s.seqId a) fun va =>
      if !s.cur.ringsEmpty then s.stallSeq .segment
      else match s.readAt s.core s.myCtx va 16 with
        | .error f => s.trapAddr f
        | .ok bs =>
          let count := s.cur.seg.busy % 2 ^ 48
          let crc := segmentCrc s.cur.seg.words
          if count != fieldNat bs 0 6 || crc != fieldNat bs 8 4 || !zeroBytes bs 6 2 || !zeroBytes bs 12 4 then
            s.trapSeq 0x0A 0 (BitVec.ofNat 64 (crc + count % 2 ^ 32 * 2 ^ 32))
          else ((s.finish 1 (if inLocal va then 0 else 16)).modCur Core.nextSegment).progress s.core)

/-- Set a requested divisor (R259). -/
def State.requestDiv (s : State) (e : DivSel) (v : Fin 32) : State := s.modCur fun k => { k with divReq := k.divReq.put e v }

/-- SETDIV (R259). -/
def execSetdiv (e : DivSel) (v : Fin 32) (s : State) : Host.Outcome State Fault Refusal :=
  .next ((s.requestDiv e v).finish 1 0)

/-- SETDIV, register form (R53, R259): a value outside 1 to 16 is illegal. -/
def execSetdivRegister (a : GReg) (e : DivSel) (s : State) : Host.Outcome State Fault Refusal :=
  .next (s.withRes (s.cur.readG s.seqId a) fun v =>
    if 1 ≤ v.1.toNat ∧ v.1.toNat ≤ 16 then ((s.setCore s.core v.2).requestDiv e (Fin.ofNat 32 v.1.toNat)).finish 1 0
    else s.illegal)

end Sys2Proof.Machine
end

