-- ==== Sys2Proof/Machine/Erg.lean ====
section
/-! DEFINITION. Erg's commands (spec/07_matrix.md R185-R211, spec/04_numbers.md R99-R102): precision, blocks and steps, nests,
tile commands, pinning, the gated delta-rule update, fills. -/

namespace Sys2Proof.Machine

open Sys2Proof

/-! ## Checks that Erg's commands share -/

/-- A span that leaves the scratchpad (R189, R194): TINFO from the first byte outside. -/
def spanFault (off : Int) (n : Nat) : Option EFault :=
  if off < 0 then some ⟨0x05, 0, infoOf (localVa off)⟩
  else if (2 ^ 22 : Nat) < off + n then some ⟨0x05, 0, infoOf (localVa (max off (2 ^ 22 : Nat)))⟩
  else none

/-- Act on tiles (R191): checks, the stall for absent tiles, further checks, then the effect. -/
def State.onTiles (s : State) (ns : List Nat) (pre post : Option EFault) (fail : EFault → State) (p : Prog)
    (go : State → State) : State :=
  match pre.or (s.cur.tileFaults ns) with
  | some f => fail f
  | none =>
    if s.cur.anyAbsent ns then s.awaitTiles s.core .m ns p
    else match post with
      | some f => fail f
      | none => go s

/-- A command of Erg fails its checks. -/
def State.failErg (s : State) (f : EFault) : State := s.failCmd s.core .m f

/-- A command of Erg is done. -/
def State.ergDone (s : State) (busy declared bytes : Nat) : State := s.workDone s.core .m busy declared bytes 1

/-- What reading tiles meets: invalid rows, uncorrectable bytes. -/
def Core.tileReadFault (k : Core) (ns : List Nat) : Option EFault :=
  (k.invalidFault (ns.map tileRange)).or (k.badRange (ns.map tileRange))

/-! ## Precision and blocks -/

/-- MPREC (R187). -/
def execMprec (_y : Sync) (pa pb : Fin 16) (s : State) : Host.Outcome State Fault Refusal :=
  .next ((s.modCur fun k => { k with erg := { k.erg with pa := pa, pb := pb, loaded := 0, laValid := false } }).ergDone 1 1 0)

/-- P_A and P_B as declared (R187). -/
def Core.declared (k : Core) : Nat × Nat := (k.erg.pa.val + 1, k.erg.pb.val + 1)

/-- P'_A and P'_B of the entry at the head (R188). -/
def Core.effective (k : Core) : Nat × Nat := (min k.declared.1 k.mEng.caps.1, min k.declared.2 k.mEng.caps.2)

/-- The bytes of a planar block of precision p (R82). -/
def blockSize (p : Nat) : Nat := 128 * (p + 1)

/-- Load a block of precision p into array r (R189): its planes and its scale line. -/
def loadBlock (planes : Cells) (r p : Nat) (bs : List Byte) : Cells :=
  putBytes (putBytes planes (2080 * r) (bs.take (128 * p))) (2080 * r + 2048) ((bs.drop (128 * p)).take 32)

/-- Load count A blocks from an offset into arrays first on (R189). -/
def Core.loadArrays (k : Core) (off first count : Nat) : Core :=
  let p := k.declared.1
  { k with erg := { k.erg with
      planes := (List.range count).foldl (fun m j =>
        loadBlock m (first + j) p (getBytes k.spad (off + blockSize p * j) (blockSize p))) k.erg.planes } }

/-- Arrays first to first + count - 1, as a mask. -/
def arrayMask (first count : Nat) : BitVec 16 := ((1#16 <<< count) - 1) <<< first

/-- MLDA (R189). -/
def execMlda (_y : Sync) (off : BitVec 22) (first count : Fin 16) (s : State) : Host.Outcome State Fault Refusal :=
  let p := s.cur.declared.1
  let n := count.val + 1
  .next (match (spanFault off.toNat (blockSize p * n)).or (s.cur.spadFault off.toNat (blockSize p * n)) with
    | some f => s.failErg f
    | none =>
      let busy := 2 + ceilDiv (n * (p + 1)) 16
      (s.modCur fun k =>
        let k1 := k.loadArrays off.toNat first.val n
        { k1 with erg := { k1.erg with loaded := k1.erg.loaded ||| arrayMask first.val n, laValid := false } }).ergDone busy busy 0)

/-! ## Steps -/

/-- The weight of a plane pair (R100). -/
def pairWeight (pa pb i j : Nat) : Int :=
  let w : Int := ((2 ^ (i + j) : Nat) : Int)
  if (i + 1 == pa) != (j + 1 == pb) then -w else w

/-- S of R100 from the planes of an A row and a B row. -/
def planeSum (as bs : List Nat) : Int :=
  (as.zipIdx.map fun a => (bs.zipIdx.map fun b =>
    pairWeight as.length bs.length a.2 b.2 * (popNat (a.1 &&& b.1) 32 : Int)).sum).sum

/-- Accumulate a product into an element (R101): the element and SAT. -/
def stepElem (anchor : Nat) (w : W64) (as bs : List Nat) (xa xb : Nat) : W64 × Bool :=
  if xa = 0xFF ∨ xb = 0xFF then accAdd w none
  else
    let sh : Int := ((xa : Int) - 127 - ((as.length : Int) - 2)) + ((xb : Int) - 127 - ((bs.length : Int) - 2))
      - ((anchor : Int) - 151)
    accAdd w (some (accAlign (planeSum as bs) sh))

/-- The top p' planes of each of the 32 rows of a block of precision p (R82, R188). -/
def blockRows (p p' : Nat) (bs : List Byte) : List (List Nat) :=
  (List.range 32).map fun m => (List.range p').map fun i => fieldNat bs (128 * (p - p' + i) + 4 * m) 4

/-- The elements of a tile after a step (R190). -/
def stepWords (anchor : Nat) (words : List W64) (arows brows : List (List Nat)) (xa xb : List Byte) : List (W64 × Bool) :=
  words.zipIdx.map fun w =>
    let m := w.2 / 32
    let n := w.2 % 32
    stepElem anchor w.1 (arows.getD m []) (brows.getD n []) (xa.getD m 0).toNat (xb.getD n 0).toNat

/-- Replace the elements of a tile: its rows become valid, DIRTY is set, SAT and POIS are added. -/
def Core.putTile (k : Core) (n : Fin 32) (anchor : BitVec 8) (words : List W64) (sat pois : Bool) : Core :=
  (k.writeUrs (tileBase n.val) ((words.map fun w => leBytes 8 w.toNat).flatten)).modTile n fun t =>
    { t with anchor := anchor, dirty := true, sat := t.sat || sat, pois := t.pois || pois }

/-- A tile with every element 0 and its sticky bits clear. -/
def Core.clearTile (k : Core) (n : Fin 32) (anchor : BitVec 8) : Core :=
  (k.modTile n fun t => { t with sat := false, pois := false }).putTile n anchor (List.replicate 1024 0) false false

/-- One array of a step (R190): tile x takes the products of array r and the B block. -/
def Core.stepArray (k : Core) (boff : Nat) (clr : Bool) (r : Nat) (x : Fin 32) : Core :=
  let k1 := if clr then k.clearTile x (k.tileAt x).anchor else k
  let (pa, pb) := k.declared
  let (pa', pb') := k.effective
  let abs := getBytes k.erg.planes (2080 * r) 2080
  let bbs := getBytes k.spad boff (blockSize pb)
  let els := stepWords (k.tileAt x).anchor.toNat (k1.tileWords x.val) (blockRows pa pa' abs) (blockRows pb pb' bbs)
    (abs.drop 2048) (bbs.drop (128 * pb))
  k1.putTile x (k.tileAt x).anchor (els.map (·.1)) (els.any (·.2)) (els.any fun e => accPoison e.1)

/-- One step over arrays (R190); a plane cap that was applied enters the launch's RAN (R249). -/
def State.ergStep (s : State) (boff first : Nat) (clr : Bool) (arrays : List Nat) : State :=
  let k := s.cur
  let t := s.modCur fun k => arrays.foldl (fun u r => u.stepArray boff clr r (Fin.ofNat 32 (first + r))) k
  match k.unit with
  | some u => if k.effective != k.declared && !arrays.isEmpty then
      t.modLaunch u.launch fun l => { l with ran := l.ran ||| 8 }
    else t
  | none => t

/-- The loaded arrays (R185). -/
def Core.loadedArrays (k : Core) : List Nat := (List.range 16).filter k.erg.loaded.getLsbD

/-- The checks of a step after those of its tiles (R190). -/
def Core.stepFault (k : Core) (ns : List Nat) (clr : Bool) (boff : Nat) : Option EFault :=
  (if clr then none else k.tileReadFault ns).or (k.spadFault boff (blockSize k.declared.2))

/-- The product of two precisions. -/
def pairs (p : Nat × Nat) : Nat := p.1 * p.2

/-- MSTEP (R190, R197). DESIGN CHOICE (notes/assumptions/100.md): the span of the B block is checked before the tiles. -/
def execMstep (_y : Sync) (off : BitVec 22) (first : Fin 32) (clr : Bool) (s : State) : Host.Outcome State Fault Refusal :=
  let k := s.cur
  let arrays := k.loadedArrays
  let ns := arrays.map fun r => first.val + r
  .next (s.onTiles ns (spanFault off.toNat (blockSize k.declared.2)) (k.stepFault ns clr off.toNat) s.failErg (.elems 0) fun t =>
    (t.ergStep off.toNat first.val clr arrays).ergDone (pairs k.effective + 4) (pairs k.declared + 4) 0)

/-! ## Nests -/

/-- A level of a nest (R192). -/
structure NestLevel where
  count : Nat
  astr : Int
  bstr : Int
  tstr : Int
  kclr : Bool
  sig : Bool
  deriving DecidableEq, Repr

/-- A nest descriptor (R192). -/
structure Nest where
  abase : Nat
  bbase : Nat
  tbase : Nat
  na : Nat
  ev : Option (Fin 64)
  levels : List NestLevel
  deriving DecidableEq, Repr

/-- The fields of a descriptor. -/
def parseNest (bs : List Byte) : Nest :=
  let f := fieldNat bs
  { abase := f 0 4 % 2 ^ 22, bbase := f 4 4 % 2 ^ 22, tbase := f 8 1 % 32, na := f 9 1 % 32,
    ev := if (f 10 1).testBit 7 then some (Fin.ofNat 64 (f 10 1)) else none,
    levels := (List.range 6).map fun l =>
      let o := 0x40 + 32 * l
      { count := f o 2, astr := sextInt 32 (f (o + 4) 4), bstr := sextInt 32 (f (o + 8) 4), tstr := sextInt 8 (f (o + 12) 1),
        kclr := (f (o + 13) 1).testBit 0, sig := (f (o + 13) 1).testBit 1 } }

/-- The reserved parts of a descriptor are zero (R192). -/
def nestReserved (bs : List Byte) : Bool :=
  let f := fieldNat bs
  f 0 4 < 2 ^ 22 && f 4 4 < 2 ^ 22 && f 8 1 < 32 && f 9 1 < 32 && !(f 10 1).testBit 6 && zeroBytes bs 0x0B 53 &&
    (List.range 6).all fun l => zeroBytes bs (0x42 + 32 * l) 2 && f (0x4D + 32 * l) 1 < 4 && zeroBytes bs (0x4E + 32 * l) 18

/-- The checks of MNEST, in order (R193). -/
def Core.nestFault (k : Core) (bs : List Byte) : Option EFault :=
  let n := parseNest bs
  let f := fieldNat bs
  let smask := match k.unit with | some u => u.smask | none => Vector.replicate 6 0
  if !nestReserved bs then some (k.badCmd .m 1)
  else if n.levels.any (fun l => l.count == 0) || n.na == 0 || decide (16 < n.na) || decide (32 < n.tbase + n.na) then
    some (k.badCmd .m 2)
  else if f 0 4 % 128 != 0 || f 4 4 % 128 != 0 || n.levels.any fun l => l.astr % 128 != 0 || l.bstr % 128 != 0 then
    some (k.badCmd .m 3)
  else match n.ev with
    | some e => if declares smask 2 e then none else some ⟨0x05, 2, BitVec.ofNat 64 e.val⟩
    | none => none

/-- MNEST (R193). -/
def execMnest (_y : Sync) (off : BitVec 22) (s : State) : Host.Outcome State Fault Refusal :=
  .next (match s.cur.spadFault off.toNat 256 with
    | some f => s.failErg f
    | none =>
      let bs := getBytes s.cur.spad off.toNat 256
      match s.cur.nestFault bs with
      | some f => (s.modCur fun k => { k with erg := { k.erg with shadow := { bytes := bs, valid := false } } }).failErg f
      | none => (s.modCur fun k => { k with erg := { k.erg with shadow := { bytes := bs, valid := true } } }).ergDone 4 4 0)

/-- The next index vector, level 0 fastest; the last level runs up to its count when the nest is done (notes/assumptions/29.md). -/
def nextIndex : List Nat → List Nat → List Nat
  | [i], _ => [i + 1]
  | i :: is, c :: cs => if i + 1 < c then (i + 1) :: is else 0 :: nextIndex is cs
  | is, _ => is

/-- Every step of a nest is done. -/
def nestOver (counts idx : List Nat) : Bool := decide (counts.getLastD 1 ≤ idx.getLastD 0)

/-- base plus the strides of an index vector (R194). -/
def Nest.at_ (n : Nest) (base : Nat) (stride : NestLevel → Int) (idx : List Nat) : Int :=
  (base : Int) + (n.levels.zipIdx.map fun l => (idx.getD l.2 0 : Int) * stride l.1).sum

/-- The clear option of a step (R194). -/
def Nest.clears (n : Nest) (idx : List Nat) : Bool :=
  n.levels.any (·.kclr) && n.levels.zipIdx.all fun l => !l.1.kclr || idx.getD l.2 0 == 0

/-- A step posts the event (R194): some level with SIG is at its end with every level inside it. -/
def Nest.posts (n : Nest) (idx : List Nat) : Bool :=
  n.levels.zipIdx.any fun l => l.1.sig && (n.levels.take (l.2 + 1)).zipIdx.all fun m => idx.getD m.2 0 + 1 == m.1.count

/-- Erg's nest sets change places (R194). -/
def Core.swapNests (k : Core) : Core := { k with erg := { k.erg with active := k.erg.shadow, shadow := k.erg.active } }

/-- Erg's shadow set becomes invalid. -/
def Core.dropShadow (k : Core) : Core := { k with erg := { k.erg with shadow := k.erg.shadow.drop } }

/-- MGO (R194): the sets are swapped; without a valid active set it is done. The valid bit of the new shadow set is cleared as the
first step passes its checks, so that an entry which fails them is as before its start (R24; notes/assumptions/92.md). -/
def execMgo (_y : Sync) (s : State) : Host.Outcome State Fault Refusal :=
  let t := s.modCur Core.swapNests
  .next (if s.cur.erg.shadow.valid then t.holdEntry s.core .m (.nest [0, 0, 0, 0, 0, 0] 0 false)
    else (t.modCur Core.dropShadow).ergDone 4 4 0)

/-- No step of a nest has been made. -/
def atStart (idx : List Nat) : Bool := idx.all (· == 0)

/-- A step of MGO fails its checks: the first returns the entry to not started, before any write (R24), a later one stands at its
index (R194). -/
def State.failNest (s : State) (c : CoreId) (idx : List Nat) (f : EFault) : State :=
  if atStart idx then (s.modCore c Core.swapNests).failCmd c .m f else s.faultCmd c .m (.nest idx 0 false) f

/-- MGO goes on behind a step: at the next index, or done. -/
def State.nestOn (s : State) (counts idx : List Nat) : State :=
  if nestOver counts idx then s.ergDone 0 0 0 else s.holdEntry s.core .m (.nest idx 0 false)

/-- The event of a nest's step (R194): a post that overflows stays pending. -/
def State.nestEvent (s : State) (e : Fin 64) (counts idx : List Nat) : State :=
  match s.postSem s.core e 1 with
  | some t => t.nestOn counts idx
  | none => s.faultMid s.core .m (.nest idx 0 true) 0x07 0 (BitVec.ofNat 64 e.val)

/-- One step of MGO, or its pending event (R194, R195). A check that fails at the first step, before any write, leaves the entry not started
(R24; notes/assumptions/92.md). -/
def State.nestStep (s : State) (n : Nest) (idx : List Nat) (event : Bool) : State :=
  let k := s.cur
  let counts := n.levels.map (·.count)
  if event then
    match n.ev with
    | some e => s.nestEvent e counts idx
    | none => s.nestOn counts idx
  else if nestOver counts idx then s.ergDone 0 0 0
  else
    let aoff := n.at_ n.abase (·.astr) idx
    let boff := n.at_ n.bbase (·.bstr) idx
    let t0 := n.at_ n.tbase (·.tstr) idx
    let asize := blockSize k.declared.1 * n.na
    let out : Option EFault :=
      if t0 < 0 || (k.tileCount : Int) < t0 + n.na then some ⟨0x0C, 2, BitVec.ofNat 64 (t0 % 32).toNat⟩
      else (spanFault aoff asize).or (spanFault boff (blockSize k.declared.2))
    let load := k.erg.nestA != some (BitVec.ofNat 22 aoff.toNat)
    let ns := (List.range n.na).map fun i => t0.toNat + i
    let clr := n.clears idx
    let post := (if load then k.spadFault aoff.toNat asize else none).or (k.stepFault ns clr boff.toNat)
    s.onTiles ns out post (s.failNest s.core idx) (.nest idx 0 false) fun s =>
      let s1 := s.modCur fun k0 =>
        let k := if atStart idx then k0.dropShadow else k0
        if load then
          let k1 := k.loadArrays aoff.toNat 0 n.na
          { k1 with erg := { k1.erg with loaded := arrayMask 0 n.na, la := BitVec.ofNat 22 aoff.toNat, laValid := true } }
        else k
      let s2 := s1.ergStep boff.toNat t0.toNat clr (List.range n.na)
      let extra := (if atStart idx then 4 else 0) + (if load then ceilDiv (n.na * (k.declared.1 + 1)) 16 else 0)
      let s3 := (s2.chargeEng s.core .m (pairs k.effective + extra) (pairs k.declared + extra) 0).progress s.core
      let next := nextIndex idx counts
      match n.ev with
      | some e => if n.posts idx then s3.nestEvent e counts next else s3.nestOn counts next
      | none => s3.nestOn counts next

/-- A step of MGO (R194). -/
def execMgoStep (s : State) : Host.Outcome State Fault Refusal :=
  .next (match s.cur.mEng.phase, s.cur.erg.active.get with
    | .running (.nest idx _ event), some bs => s.nestStep (parseNest bs) idx event
    | .running (.nest _ _ _), none => s.ergDone 4 4 0
    | _, _ => s)

/-! ## Tile commands -/

/-- MCLR (R196). -/
def execMclr (_y : Sync) (first count : Fin 32) (anchor : BitVec 8) (s : State) : Host.Outcome State Fault Refusal :=
  let ns := tileSpan first.val count.val
  .next (s.onTiles ns none none s.failErg (.elems 0) fun t =>
    (t.modCur fun k => ns.foldl (fun u n => u.clearTile (Fin.ofNat 32 n) anchor) k).ergDone (4 * ns.length) (4 * ns.length) 0)

/-- A tile at another anchor (R102). -/
def Core.reanchor (k : Core) (n : Fin 32) (anchor : BitVec 8) : Core :=
  let els := (k.tileWords n.val).map fun w => accReanchor w (k.tileAt n).anchor.toNat anchor.toNat
  k.putTile n anchor (els.map (·.1)) (els.any (·.2)) false

/-- MANCH (R196). -/
def execManch (_y : Sync) (first count : Fin 32) (anchor : BitVec 8) (s : State) : Host.Outcome State Fault Refusal :=
  let ns := tileSpan first.val count.val
  .next (s.onTiles ns none (s.cur.tileReadFault ns) s.failErg (.elems 0) fun t =>
    (t.modCur fun k => ns.foldl (fun u n => u.reanchor (Fin.ofNat 32 n) anchor) k).ergDone (8 * ns.length) (8 * ns.length) 0)

/-! ## Pinning -/

/-- A fault of a slot reports the slot's address (R199, R202, R204). -/
def slotFault (f : AFault) (slot : A80) : EFault := ⟨f.1.cause, f.1.qual, infoOf slot⟩

/-- Release the pin of a tile (R200, steps 2 and 3). -/
def State.unpin (s : State) (n : Fin 32) : Except EFault State :=
  let t := s.cur.tileAt n
  match s.slotWrite false t.owner.toNat t.spilla [0, 0] with
  | .error f => .error (slotFault f t.spilla)
  | .ok u => .ok (u.modCur fun k => k.modTile n fun t => { t with pinned := false, key := 0 })

/-- Pin a tile (R199); BUDT bytes. -/
def State.pin (s : State) (n : Fin 32) (key : BitVec 16) : Except EFault (State × Nat) :=
  let t := s.cur.tileAt n
  if t.pinned && t.key == key then .ok (s, 0)
  else
    match (if t.pinned then s.unpin n else .ok s) with
    | .error f => .error f
    | .ok u =>
      let x := s.myCtx
      let slot := pinSlot (match s.ctx x with | some c => c.pinbase | none => 0) key n.val
      match u.readSlot x slot n.val (some key) with
      | .error f => .error (slotFault f slot)
      | .ok r =>
        .ok (u.modCur fun k => k.modTile n fun t =>
          let p := { t with pinned := true, key := key, owner := BitVec.ofNat 12 x, spilla := slot }
          if r.isSome then { p with present := false } else { p with dirty := true }, 64)

/-- Tiles one by one: the bytes of each add up; a fault leaves what undo makes of the tiles before it. -/
def State.eachTile (undo : State → State) (f : State → Fin 32 → Except EFault (State × Nat)) (busy : Nat) :
    List Nat → Nat → State → State
  | [], bytes, s => s.ergDone busy busy bytes
  | n :: r, bytes, s =>
    match f s (Fin.ofNat 32 n) with
    | .error e => (undo s).failErg e
    | .ok (t, b) => State.eachTile undo f busy r (bytes + b) t

/-- MPIN (R199). -/
def execMpin (_y : Sync) (first count : Fin 32) (key : BitVec 16) (s : State) : Host.Outcome State Fault Refusal :=
  let ns := tileSpan first.val count.val
  .next (s.onTiles ns none none s.failErg (.elems 0) fun t =>
    State.eachTile id (fun u n => u.pin n key) 2 ns 0 (t.irreversible t.core))

/-- Unpin a tile (R200): one that is not pinned is unchanged. -/
def State.unpinTile (s : State) (n : Fin 32) : Except EFault (State × Nat) :=
  if (s.cur.tileAt n).pinned then
    match s.unpin n with
    | .error f => .error f
    | .ok t => .ok (t, 2)
  else .ok (s, 0)

/-- MUNPIN (R200): where a tile faults, the entry leaves no effect on the tiles before it (R34). -/
def execMunpin (_y : Sync) (first count : Fin 32) (s : State) : Host.Outcome State Fault Refusal :=
  let ns := tileSpan first.val count.val
  .next (s.onTiles ns none none s.failErg (.elems 0) fun t =>
    State.eachTile (fun _ => t) State.unpinTile 2 ns 0 (t.irreversible t.core))

/-- The slot of a tile that is not pinned (R198): slot n of the tile region of the save area. -/
def State.areaSlot (s : State) (n : Nat) : A80 :=
  match s.cur.unit with
  | some u => s.saveArea u + BitVec.ofNat 80 (0x480000 + n * 0x2080)
  | none => 0

/-- Spill a tile (R204). -/
def State.spillTile (fallback : Bool) (s : State) (n : Fin 32) : Except EFault (State × Nat) :=
  let t := s.cur.tileAt n
  let slot := if t.pinned then t.spilla else s.areaSlot n.val
  let s1 := s.modCur fun k => k.modTile n fun t => { t with spilla := slot }
  match s1.writeSlot s.core n fallback s.cur.mEng.seqno with
  | .error f => .error (slotFault f slot)
  | .ok u => .ok (u.modCur fun k => k.modTile n fun t => { t with dirty := false }, if fallback then 4224 else 8320)

/-- MSPILL (R204). -/
def execMspill (_y : Sync) (first count : Fin 32) (f : Bool) (s : State) : Host.Outcome State Fault Refusal :=
  let ns := tileSpan first.val count.val
  .next (s.onTiles ns none (s.cur.tileReadFault ns) s.failErg (.elems 0) fun t =>
    State.eachTile id (State.spillTile f) (16 * ns.length) ns 0 (t.irreversible t.core))

/-- Fill a tile by command (R205). -/
def State.refill (s : State) (n : Fin 32) : Except EFault (State × Nat) :=
  let t := s.cur.tileAt n
  match s.readSlot t.owner.toNat t.spilla n.val (if t.pinned then some t.key else none) with
  | .error f => .error (slotFault f t.spilla)
  | .ok none => .error ⟨0x0B, 0, infoOf t.spilla⟩
  | .ok (some i) => .ok (s.modCur fun k => k.fillTile n i, if i.fallback then 4224 else 8320)

/-- MFILL (R205). -/
def execMfill (_y : Sync) (first count : Fin 32) (s : State) : Host.Outcome State Fault Refusal :=
  let ns := tileSpan first.val count.val
  .next (s.onTiles ns none none s.failErg (.elems 0) fun t => State.eachTile id State.refill (16 * ns.length) ns 0 t)

/-! ## The gated delta-rule update -/

/-- A token descriptor (R207): addresses and strides of k, v, q, o; addresses of alpha and beta; OUT. -/
structure TokenDesc where
  rows : List (Nat × Nat)
  alpha : Nat
  beta : Nat
  out : Bool
  deriving DecidableEq, Repr

/-- The fields of a token descriptor. -/
def parseToken (bs : List Byte) : TokenDesc :=
  let f := fieldNat bs
  { rows := (List.range 4).map fun i => (f (8 * i) 4, f (8 * i + 4) 4), alpha := f 0x20 4, beta := f 0x24 4,
    out := (f 0x28 1).testBit 0 }

/-- The URS address of row i (0 k, 1 v, 2 q, 3 o) of token t. -/
def TokenDesc.row (d : TokenDesc) (i t : Nat) : Nat :=
  let p := d.rows.getD i (0, 0)
  p.1 + t * p.2

/-- The rows that a token reads: k, v, and q with OUT, then alpha and beta. -/
def TokenDesc.inputs (d : TokenDesc) (dim t : Nat) : List (Nat × Nat) :=
  [(d.row 0 t, 4 * dim), (d.row 1 t, 4 * dim)] ++ (if d.out then [(d.row 2 t, 4 * dim)] else [])
    ++ [(d.alpha + 4 * t, 4), (d.beta + 4 * t, 4)]

/-- The rows that a token writes. -/
def TokenDesc.outputs (d : TokenDesc) (dim t : Nat) : List (Nat × Nat) := if d.out then [(d.row 3 t, 4 * dim)] else []

/-- The checks of R207 before those of the tiles (1 to 4). -/
def Core.tokenFault (k : Core) (bs : List Byte) (dim count : Nat) : Option EFault :=
  let f := fieldNat bs
  let d := parseToken bs
  let spans := ((List.range count).map fun t => d.inputs dim t ++ d.outputs dim t).flatten
  if ((List.range 10).any fun i => 2 ^ 19 ≤ f (4 * i) 4) || 2 ≤ f 0x28 1 || !zeroBytes bs 0x29 23 then some (k.badCmd .m 1)
  else if ((List.range 8).any fun i => f (4 * i) 4 % 128 != 0) || d.alpha % 4 != 0 || d.beta % 4 != 0 then some (k.badCmd .m 3)
  else if spans.any fun p => 0x60000 < p.1 + p.2 then some (k.badCmd .m 5)
  else spans.findSome? fun p => (k.coversTile p.1 p.2).map fun t => ⟨0x0C, 1, BitVec.ofNat 64 t⟩

/-- The rows of a byte range. -/
def rowsIn (p : Nat × Nat) : List Nat := (List.range ((p.1 + p.2 - 1) / 256 - p.1 / 256 + 1)).map fun i => p.1 / 256 + i

/-- The invalid rows among the inputs of tokens from t0 on that no earlier token's o writes (R207, check 6), and the tiles. -/
def Core.tokenInvalid (k : Core) (d : TokenDesc) (dim count t0 : Nat) (ns : List Nat) : Option EFault :=
  let written (t : Nat) : List Nat :=
    ((List.range t).map fun i => ((d.outputs dim i).map rowsIn).flatten).flatten
  let bad := ((List.range count).map fun t =>
    if t < t0 then []
    else (((d.inputs dim t).map rowsIn).flatten).filter fun r => !k.valid.getLsbD r && !(written t).contains r).flatten
  let low := bad.foldl (fun m r => lowerOf m (some r)) (k.invalidRow (ns.map tileRange))
  low.map fun r => ⟨0x03, 0, BitVec.ofNat 64 r⟩

/-- q2 of R208. -/
def q2 (x : Nat) : Int := ((fmtFp32.decode x).scale 29).toInt .rne (minInt 32) (maxInt 32)

/-- Element (i, j) of the state of a group of d x d values from tile first (R207): its tile. -/
def groupTile (first dim i j : Nat) : Fin 32 := Fin.ofNat 32 (first + dim / 32 * (i / 32) + j / 32)

/-- The place of an element in its tile. -/
def groupPlace (i j : Nat) : Nat := 32 * (i % 32) + j % 32

/-- The state of a group: the words and anchors of its tiles. -/
structure Group where
  first : Nat
  dim : Nat
  tiles : List (List W64)
  anchors : List Nat
  deriving DecidableEq, Repr

/-- Read a group. -/
def Core.group (k : Core) (first dim : Nat) : Group :=
  let ns := (List.range ((dim / 32) * (dim / 32))).map fun i => first + i
  { first := first, dim := dim, tiles := ns.map k.tileWords, anchors := ns.map fun n => (k.tileAt (Fin.ofNat 32 n)).anchor.toNat }

/-- Row i of the state, each element with its anchor. -/
def Group.row (g : Group) (i : Nat) : List (W64 × Nat) :=
  ((List.range (g.dim / 32)).map fun b =>
    let t := g.dim / 32 * (i / 32) + b
    (((g.tiles.getD t []).drop (32 * (i % 32))).take 32).map fun w => (w, g.anchors.getD t 0)).flatten

/-- rowsum of R208: none is POISON. -/
def rowsum (row : List (W64 × Nat)) (f : List Int) : Option Num :=
  let ps := row.zip f
  let infs := ps.filterMap fun p =>
    let q := accQ p.1.1
    if (q = accMax ∨ q = -accMax) ∧ p.2 ≠ 0 then some (decide (q * p.2 < 0)) else none
  if row.any fun w => accPoison w.1 then none
  else if infs.contains true && infs.contains false then none
  else match infs with
    | n :: _ => some (.inf n)
    | [] =>
      let v : Int := (ps.map fun p =>
        if accQ p.1.1 = accMax ∨ accQ p.1.1 = -accMax then 0 else accQ p.1.1 * p.2 * ((2 ^ p.1.2 : Nat) : Int)).sum
      some (.fin (decide (v < 0)) v.natAbs (-180))

/-- v 2^sh, rounded to an integer. -/
def shiftInt (v sh : Int) : Int := if 0 ≤ sh then v * ((2 ^ sh.toNat : Nat) : Int) else shiftRne v (-sh).toNat

/-- What a token does to a row (R208): poisoned, or w; and whether a clamp of the row sets SAT. -/
def tokenRow (a0 : Nat) (row : List (W64 × Nat)) (kf : List Int) (v : Nat) (af bf : Int) : Option Int × Bool :=
  let vs := accOfNum a0 (fmtFp32.decode v)
  match rowsum row kf with
  | none => (none, vs.2.1)
  | some x =>
    let uu : Int × Bool := match x with
      | .inf n => (if n then -accMax else accMax, false)
      | y => let r := accOfNum a0 y; (accQ r.1, r.2.1)
    let w := accClamp (shiftRne (bf * (accQ vs.1 - shiftRne (af * uu.1) 29)) 29)
    (some w.1, vs.2.1 || uu.2 || w.2)

/-- An element after a token (R208): its word, SAT, POIS. -/
def tokenElem (a0 : Nat) (x : W64 × Nat) (w : Option Int) (af kfj : Int) : W64 × Bool × Bool :=
  let q := accQ x.1
  match w with
  | none => (accWord true q, false, true)
  | some wi =>
    if q = accMax ∨ q = -accMax then (x.1, false, false)
    else
      let t := accClamp (shiftRne (af * q) 29 + shiftInt (wi * kfj) ((a0 : Int) - (x.2 : Int) - 29))
      (accWord (accPoison x.1) t.1, t.2, false)

/-- The rows of the state after a token (R208): each element with SAT and POIS, and whether a clamp of the row sets SAT. -/
def Group.update (g : Group) (ks vs : List Nat) (al be : Nat) : List (List (W64 × Bool × Bool) × Bool) :=
  let nan (x : Nat) : Bool := (fmtFp32.decode x).isNan
  let rows := (List.range g.dim).map g.row
  if ks.any nan || vs.any nan || nan al || nan be then
    rows.map fun r => (r.map fun x => (accWord true (accQ x.1), false, true), false)
  else
    let a0 := g.anchors.headD 0
    let kf := ks.map q2
    rows.zipIdx.map fun r =>
      let w := tokenRow a0 r.1 kf (vs.getD r.2 0) (q2 al) (q2 be)
      ((r.1.zip kf).map fun p => tokenElem a0 p.1 w.1 (q2 al) p.2, w.2)

/-- The tiles of a group from its rows: words, SAT, POIS. -/
def tilesOf (dim : Nat) (rows : List (List (W64 × Bool × Bool) × Bool)) : List (List W64 × Bool × Bool) :=
  let per := dim / 32
  (List.range (per * per)).map fun t =>
    let band := (rows.drop (32 * (t / per))).take 32
    let els := (band.map fun r => (r.1.drop (32 * (t % per))).take 32).flatten
    (els.map (·.1), els.any (·.2.1) || band.any (·.2), els.any (·.2.2))

/-- The output row of R208. -/
def Group.output (g : Group) (qs : List Nat) : List Nat :=
  if qs.any fun x => (fmtFp32.decode x).isNan then List.replicate g.dim 0x7FC00000
  else
    let qf := qs.map q2
    (List.range g.dim).map fun i =>
      match rowsum (g.row i) qf with
      | none => 0x7FC00000
      | some x => fmtFp32.encode .rne x

/-- The FP32 patterns of a row of the URS. -/
def Core.ursRow (k : Core) (a n : Nat) : List Nat := chunks 4 n (getBytes k.urs a (4 * n))

/-- One token (R208). -/
def Core.token (k : Core) (d : TokenDesc) (first dim t : Nat) : Core :=
  let g := k.group first dim
  let al := (k.ursRow (d.alpha + 4 * t) 1).headD 0
  let be := (k.ursRow (d.beta + 4 * t) 1).headD 0
  let ts := tilesOf dim (g.update (k.ursRow (d.row 0 t) dim) (k.ursRow (d.row 1 t) dim) al be)
  let qs := k.ursRow (d.row 2 t) dim
  let k1 := ts.zipIdx.foldl (fun u p =>
    let n : Fin 32 := Fin.ofNat 32 (first + p.2)
    u.putTile n (u.tileAt n).anchor p.1.1 p.1.2.1 p.1.2.2) k
  if d.out then k1.writeUrs (d.row 3 t) (((k1.group first dim).output qs).map (leBytes 4)).flatten else k1

/-- The dimension d of a group. -/
def dimOf (d : Fin 4) : Nat := 32 * (d.val + 1)

/-- MDELTA fails at token t (R209): at token 0 nothing is written and the entry is not started, its group released (R24;
notes/assumptions/93.md); later its index stands, and the group stays busy until the cut. -/
def State.failDelta (s : State) (c : CoreId) (ns : List Nat) (t : Nat) (f : EFault) : State :=
  if t = 0 then (s.modCore c fun k => k.setBusy ns false).failCmd c .m f else s.faultCmd c .m (.tokens t) f

/-- MDELTA from token t on (R207 to R209): its checks, then one token, or for start none. An input that cannot be read at token 0 leaves the
entry not started (notes/assumptions/93.md). -/
def State.delta (s : State) (first : Fin 32) (d : Fin 4) (c : Fin 64) (off : BitVec 22) (t : Nat) (start : Bool) : State :=
  let k := s.cur
  let dim := dimOf d
  let ns := groupTiles first d
  let bs := getBytes k.spad off.toNat 64
  let desc := parseToken bs
  let fail := s.failDelta s.core ns t
  let pre := (k.spadFault off.toNat 64).or (k.tokenFault bs dim (c.val + 1))
  let inputs := if start then none else (k.badRange (desc.inputs dim t)).or (k.badRange (ns.map tileRange))
  s.onTiles ns pre ((k.tokenInvalid desc dim (c.val + 1) t ns).or inputs) fail (if t = 0 then .elems 0 else .tokens t) fun s =>
    if start then (s.modCur fun k => k.setBusy ns true).holdEntry s.core .m (.tokens 0)
    else
      let busy := 4 * ns.length + 8 + (if t = 0 then 4 else 0)
      let s1 := (s.modCur fun k => (k.setBusy ns true).token desc first.val dim t).chargeEng s.core .m busy busy 0
      let s2 := s1.progress s.core
      if c.val ≤ t then (s2.modCur fun k => k.setBusy ns false).ergDone 0 0 0
      else s2.holdEntry s.core .m (.tokens (t + 1))

/-- MDELTA (R207, R208): the checks, and BUSY on the group. -/
def execMdelta (_y : Sync) (first : Fin 32) (d : Fin 4) (c : Fin 64) (off : BitVec 22) (s : State) :
    Host.Outcome State Fault Refusal := .next (s.delta first d c off 0 true)

/-- A token of MDELTA (R208, R209). -/
def execMdeltaToken (s : State) : Host.Outcome State Fault Refusal :=
  .next (match s.cur.mEng.phase, s.cur.mEng.head with
    | .running (.tokens t), some h =>
      match decodeCmd .m h.word.toNat with
      | .ok (.mdelta _ first d c off) => s.delta first d c off t false
      | _ => s
    | _, _ => s)

/-- A core with the views as its M entry found them at its start (R78). -/
def Core.withViews (k : Core) (vs : Vector View 8) : Core := { k with serir := { k.serir with views := vs } }

/-- MQUERY (R210), its operands under the views at its start (R78). -/
def execMquery (_y : Sync) (first : Fin 32) (d : Fin 4) (dst q : Opd) (s : State) : Host.Outcome State Fault Refusal :=
  let k := s.cur.withViews s.cur.mEng.views
  let dim := dimOf d
  let ns := groupTiles first d
  let us := [dstUse dst .fp32 dim false, srcUse q .fp32 dim]
  let post := (k.invalidFault (ns.map tileRange ++ (us.map k.readRange).flatten)).or
    ((k.badRange (ns.map tileRange)).or (k.ursFault false us 0 dim))
  .next (s.onTiles ns ((k.useFault .m us).or (k.coverFault us)) post s.failErg (.elems 0) fun t =>
    let o := (t.cur.group first.val dim).output ((t.cur.withViews t.cur.mEng.views).patterns q 4 0 dim)
    (t.modCur fun k => ((k.withViews k.mEng.views).putElems dst 4 0 (o.map some)).withViews k.serir.views).ergDone (ns.length + 6) (ns.length + 6) 0)

/-! ## Fills -/

/-- The engine of core c that stalls for tile n, none where none does. -/
def Core.stalledFor (k : Core) (n : Fin 32) : Option Eng := [Eng.m, Eng.v].find? fun e => (k.eng e).awaits.contains n.val

/-- A fill of tile n goes on under a stop only for a short command that stalls for it (R25, R202). -/
def Core.fillStopped (k : Core) (n : Fin 32) : Bool :=
  k.stop.isSome && (match k.stalledFor n with | some e => !k.mustFinish e | none => true)

/-- The fill of tile n of core c (R202, R206): one that fails raises 0x0B in the engine that stalls for it. -/
def execTileFill (c : CoreId) (n : Fin 32) (s : State) : Host.Outcome State Fault Refusal :=
  .next (if (s.coreAt c).unit.isNone || (s.coreAt c).fillStopped n || (s.coreAt c).tiles[n].present then s
    else match s.fillSlot c n with
      | .ok t => t
      | .error f =>
        let t := s.modCore c fun k => k.modTile n fun x => { x with filling := false }
        let x := slotFault f (s.coreAt c).tiles[n].spilla
        match (s.coreAt c).stalledFor n with
        | none => t
        | some e =>
          match ((s.coreAt c).eng e).phase with
          | .running (.nest i _ _) => t.failNest c i x
          | .running (.tokens i) => t.failDelta c (t.coreAt c).deltaGroup i x
          | _ => t.failCmd c e x)

end Sys2Proof.Machine
end

