-- ==== Sys2Proof/Machine/Image.lean ====
section
/-! DEFINITION. Kernel images (spec/10_work_unit.md R246), the wait graph (spec/01_stream.md R31), operating-point tables
(spec/10_work_unit.md R257), and their reading at a first placement (R247). -/

namespace Sys2Proof.Machine

open Sys2Proof

/-! ## Operating points -/

/-- One entry of the table (R257, R277); none where it is refused. -/
def parseOp (vars : Nat) (bs : List Byte) : Option OpEntry :=
  let f := fieldNat bs
  let lo := lowestDiv (Fin.ofNat 8 (f 1 1))
  let divOk := (List.range 4).all fun i => decide (lo ≤ f (2 + i) 1) && decide (f (2 + i) 1 ≤ 16)
  if f 0 1 < 3 && vars.testBit (f 0 1) && f 1 1 < 8 && divOk && f 7 1 == 0 && decide (1 ≤ f 8 2) && decide (f 8 2 ≤ 512)
      && zeroBytes bs 10 6 then
    some { variant := Fin.ofNat 3 (f 0 1), vlevel := Fin.ofNat 8 (f 1 1),
           fdiv := { c := Fin.ofNat 32 (f 2 1), m := Fin.ofNat 32 (f 3 1), v := Fin.ofNat 32 (f 4 1), w := Fin.ofNat 32 (f 5 1) },
           caps := (bitsOf (f 6 1) 4 4 + 1, bitsOf (f 6 1) 0 4 + 1), cores := f 8 2 }
  else none

/-- The eight entries of a table; none where one is refused. -/
def parseOps (vars : Nat) (bs : List Byte) : Option (List OpEntry) :=
  (List.range 8).mapM fun i => parseOp vars ((bs.drop (16 * i)).take 16)

/-! ## The image -/

/-- What reading an image gives: the value, or a refusal with the cause of a failed read, 0 for a failed check (R247). -/
abbrev ImgRes (α : Type) := Except (BitVec 8) α

/-- A failed check. -/
def imgBad {α : Type} : ImgRes α := .error 0

/-- n bytes of the image at an offset, as bytes. -/
def State.imgRead (s : State) (ctx : Nat) (image : A80) (len off n : Nat) : ImgRes (List Byte) :=
  if len < off + n then imgBad
  else if n = 0 then .ok []
  else match s.devRead ctx (image + BitVec.ofNat 80 off) n with
    | .ok b => .ok b
    | .error f => .error f.1.cause

/-- n bytes of the image at an offset, as cells. -/
def State.imgCells (s : State) (ctx : Nat) (image : A80) (len off n : Nat) : ImgRes Cells :=
  if len < off + n then imgBad
  else if n = 0 then .ok []
  else match s.readRange ctx (image + BitVec.ofNat 80 off) n with
    | .ok b => .ok b
    | .error f => .error f.1.cause

/-- The places that items of each kind may name, and the bytes of one (R246). -/
def itemSpan (kind : Nat) : Nat × Nat :=
  match kind with
  | 1 => (32, 8)
  | 2 => (16, 16)
  | 3 => (1536, 256)
  | 4 => (4194304, 1)
  | 5 => (32, 8192)
  | _ => (0, 0)

/-- One live item (R246); its initial data, where continuation 0 gives some, lies within the image and is readable. -/
def State.parseItem (s : State) (ctx : Nat) (image : A80) (len num : Nat) (bs : List Byte) : ImgRes LiveItem :=
  let f := fieldNat bs
  let kind := f 0 1
  let (lim, size) := itemSpan kind
  let hasData := num == 0 && (kind == 3 || kind == 4)
  if kind = 0 || 5 < kind || !zeroBytes bs 1 3 || lim < f 4 4 + f 8 4 || (!hasData && f 12 4 != 0) then imgBad
  else
    let item : LiveItem := { kind := kind, first := f 4 4, count := f 8 4, data := f 12 4 }
    if hasData then
      match s.imgCells ctx image len (f 12 4) (size * f 8 4) with
      | .ok _ => .ok item
      | .error c => .error c
    else .ok item

/-- The continuation-table entries (R246). -/
def State.parseConts (s : State) (ctx : Nat) (image : A80) (len tab : Nat) : Nat → Nat → ImgRes (List ContEntry)
  | 0, _ => .ok []
  | n + 1, i => do
    let e ← s.imgRead ctx image len (tab + 32 * i) 32
    let f := fieldNat e
    if !zeroBytes e 2 2 || !zeroBytes e 10 2 || !zeroBytes e 24 8 || len < f 4 4 then imgBad
    else
      let items ← (List.range (f 8 2)).mapM fun j => do
        let b ← s.imgRead ctx image len (f 4 4 + 16 * j) 16
        s.parseItem ctx image len (f 0 2) b
      let rest ← s.parseConts ctx image len tab n (i + 1)
      .ok ({ num := f 0 2, items := items, resume := (List.range 3).map fun v => (f (12 + 4 * v) 2, f (14 + 4 * v) 2) } :: rest)

/-- The view that a VVIEW command sets (R178). -/
def viewOf (t : VType) (base : BitVec 11) (len : BitVec 6) (count : BitVec 11) (k : MxKind) : View :=
  { set := true, type := t, kind := k, base := base, len := len, count := count }

/-- The engine of a ring code (R50). -/
def engOfCode (n : Nat) : Eng :=
  match n with
  | 0 => .m
  | 1 => .v
  | 2 => .c0
  | _ => .c1

/-- One load-list entry (R246): refused as RINGSET (R139) or VVIEW (R59) would be. -/
def parseLoad (bs : List Byte) : Option LoadEntry :=
  let f := fieldNat bs
  if !zeroBytes bs 8 8 then none
  else if f 0 1 = 1 then
    let size := ringBytesOf (f 5 1)
    if f 1 1 < 4 && f 2 3 < 2 ^ 22 && f 5 1 ≤ 8 && f 6 2 == 0 && f 2 3 % size == 0 && f 2 3 + size ≤ 2 ^ 22 then
      some (.ring (engOfCode (f 1 1)) (BitVec.ofNat 22 (f 2 3)) (Fin.ofNat 9 (f 5 1)))
    else none
  else if f 0 1 = 2 then
    if f 1 1 < 8 && f 7 1 == 0 && bitsOf (f 2 5) 33 3 == f 1 1 then
      match decodeCmd .v (0x36 * 2 ^ 40 + f 2 5) with
      | .ok (.vview _ t w base len count k) => some (.view w (viewOf t base len count k))
      | _ => none
    else none
  else none

/-- The load list. -/
def State.parseLoads (s : State) (ctx : Nat) (image : A80) (len tab n : Nat) : ImgRes (List LoadEntry) :=
  (List.range n).mapM fun i => do
    let b ← s.imgRead ctx image len (tab + 16 * i) 16
    match parseLoad b with
    | some e => .ok e
    | none => imgBad

/-! ## The wait graph -/

/-- Streams that an edge of R31 leads to from stream i. -/
def waitEdges (wm sm : List W64) (init : List (BitVec 16)) (i : Nat) : List Nat :=
  (List.range 6).filter fun t => t != i &&
    (List.range 64).any fun n =>
      (wm.getD i 0).getLsbD n &&
        (((48 ≤ n || init.getD n 0 == 0) && (sm.getD t 0).getLsbD n)
          || ((48 ≤ n || init.getD n 0 != 0) && (wm.getD t 0).getLsbD n))

/-- Streams reachable in up to k steps. -/
def reachable (edges : List (List Nat)) : Nat → List Nat → List Nat
  | 0, l => l
  | k + 1, l => reachable edges k ((List.range 6).filter fun t => l.contains t || l.any fun x => (edges.getD x []).contains t)

/-- The wait graph has a cycle (R31). -/
def waitCycle (wm sm : List W64) (init : List (BitVec 16)) : Bool :=
  let edges := (List.range 6).map (waitEdges wm sm init)
  (List.range 6).any fun i => (reachable edges 6 (edges.getD i [])).contains i

/-! ## Reading -/

/-- The initial data of an item of continuation 0 (R246, R248). -/
def State.itemData (s : State) (ctx : Nat) (image : A80) (len : Nat) (i : LiveItem) : ImgRes (Nat × Nat × Nat × Cells) :=
  match s.imgCells ctx image len i.data ((itemSpan i.kind).2 * i.count) with
  | .ok d => .ok (i.kind, i.first, (itemSpan i.kind).2 * i.count, d)
  | .error c => .error c

/-- The initial data of continuation 0. -/
def State.inputOf (s : State) (ctx : Nat) (image : A80) (len : Nat) (cs : List ContEntry) :
    ImgRes (List (Nat × Nat × Nat × Cells)) :=
  match cs.find? fun e => e.num == 0 with
  | some e => (e.items.filter fun i => i.kind == 3 || i.kind == 4).mapM (s.itemData ctx image len)
  | none => .ok []

/-- The image of a launch, or its refusal (R246, R247). -/
def State.readImage (s : State) (ctx : Nat) (image : A80) : ImgRes Image :=
  match s.devRead ctx image 256 with
  | .error f => .error f.1.cause
  | .ok h => do
    let f := fieldNat h
    let len := f 0xE8 4
    let words := f 0xD8 4 / 4
    let pairs := (List.range 3).map fun v => (f (0xC8 + 4 * v) 2, f (0xCA + 4 * v) 2)
    let wm := (List.range 6).map fun i => BitVec.ofNat 64 (f (0x08 + 8 * i) 8)
    let sm := (List.range 6).map fun i => BitVec.ofNat 64 (f (0x38 + 8 * i) 8)
    let init := (List.range 48).map fun i => BitVec.ofNat 16 (f (0x68 + 2 * i) 2)
    if f 0 4 != 0x4E374B49 || f 4 2 != 1 || 32 < f 6 1 || 8 ≤ f 7 1 || f 7 1 % 2 == 0 || f 0xD8 4 % 4 != 0
        || 131072 < f 0xD8 4 || f 0xE0 2 == 0 || len < 256 || len % 4 != 0 || len < f 0xD4 4 + f 0xD8 4 || !zeroBytes h 0xEC 20
        || len < f 0xE4 4 || waitCycle wm sm init then imgBad
    else
      let conts ← s.parseConts ctx image len (f 0xDC 4) (f 0xE0 2) 0
      let loads ← s.parseLoads ctx image len (f 0xE4 4) (f 0xE2 2)
      let code ← s.imgCells ctx image len (f 0xD4 4) (f 0xD8 4)
      let input ← s.inputOf ctx image len conts
      let inCode (v : Nat) (p : Nat × Nat) : Bool := !(f 7 1).testBit v || (decide (p.1 < words) && decide (p.2 < words))
      if !(conts.any fun e => e.num == 0) || !(pairs.zipIdx.all fun p => inCode p.2 p.1)
          || !(conts.all fun e => e.resume.zipIdx.all fun p => inCode p.2 p.1) then imgBad
      else
        .ok { tiles := f 6 1, vars := f 7 1, wmask := Vector.ofFn fun i => wm.getD i.val 0,
              smask := Vector.ofFn fun i => sm.getD i.val 0, init := Vector.ofFn fun i => init.getD i.val 0, entries := pairs,
              code := code, conts := conts, loads := loads, input := input }

/-- The operating points of a launch, or their refusal (R247, R257). -/
def State.readOps (s : State) (l : Launch) (vars : Nat) : ImgRes (List OpEntry) :=
  match s.devRead l.ctx l.task.optab 128 with
  | .error f => .error f.1.cause
  | .ok bs => match parseOps vars bs with
    | some es => .ok es
    | none => imgBad

/-- What die d holds of a launch's image and table. -/
def Launch.imageOn (l : Launch) (d : DieId) : Option (Image × List OpEntry) := (l.images.find? fun x => x.1 == d).map (·.2)

/-- The image and the table of a launch for die d (R247): read at its first placement there, and held from then on; or the
status and the cause with which they are refused. -/
def State.launchImage (s : State) (l : Launch) (d : DieId) : Except (BitVec 8 × BitVec 8) (Image × List OpEntry) :=
  match l.imageOn d with
  | some x => .ok x
  | none => match s.readImage l.ctx l.task.image with
    | .error c => .error (0x03, c)
    | .ok m => match s.readOps l m.vars with
      | .error c => .error (0x08, c)
      | .ok es => .ok (m, es)

/-- Die d holds the image and the table of a launch. -/
def Launch.hold (l : Launch) (d : DieId) (m : Image) (es : List OpEntry) : Launch :=
  if (l.imageOn d).isSome then l else { l with images := l.images ++ [(d, m, es)] }

/-- The operating point of a launch at a level, for a unit on die d. -/
def Launch.opEntry (l : Launch) (d : DieId) (lvl : Fin 8) : Option OpEntry := (l.imageOn d).bind fun x => x.2[lvl.val]?

/-- The image names a bank semaphore in a mask (R283, R313). -/
def Image.usesBank (m : Image) : Bool := (m.wmask.toList ++ m.smask.toList).any fun w => (w >>> 48) != 0

end Sys2Proof.Machine
end

