-- ==== Sys2Proof/Machine/PowerOps.lean ====
section
/-! DEFINITION. Power as the device holds it (spec/19_power.md R347, R353-R367): the level, predicted power and the lowering of
grant levels, floors broken and restored, the choice of a grade, retirements. -/

namespace Sys2Proof.Machine

open Sys2Proof

/-! ## The level -/

/-- The curve's value at a tick, in milliwatts (R347). -/
def curveAt (t : Nat) : List (Nat × Nat) → Nat
  | [] => 3000000
  | [(_, p)] => p
  | (t0, p0) :: (t1, p1) :: r =>
    if t ≤ t0 then p0
    else if t < t1 then
      (if p0 ≤ p1 then p0 + (p1 - p0) * (t - t0) / (t1 - t0)
       else p0 - ((p0 - p1) * (t - t0) + (t1 - t0) - 1) / (t1 - t0))
    else curveAt t ((t1, p1) :: r)

/-- The power of a point above 3,000 W acts as 3,000 W (R347). -/
def Curve.value (c : Curve) (t : Nat) : Nat := curveAt t (c.points.map fun p => (p.1, min p.2 3000000))

/-- The orphan cap is in force (R350, R370): after a curve without successor until a curve is accepted, after missing heartbeats
until Barchan writes them again and a curve is accepted. -/
def Power.orphan (p : Power) : Bool := p.orphanBeat || p.orphanCurve

/-- Lpkg in milliwatts (R353). -/
def State.packageLevel (s : State) : Nat :=
  let p := s.power
  let a := match p.curve with | some c => min p.pmax (c.value s.tick.toNat) | none => p.pmax
  if p.orphan then min a Config.orphanCap else a

/-! ## Predicted power -/

/-- A launch runs: some unit has started and it is not marked. -/
def Launch.isRunning (l : Launch) : Bool := !l.units.isEmpty && l.mark.isNone

/-- The running launches. -/
def State.runningLaunches (s : State) : List Launch := s.launches.filter Launch.isRunning

/-- The key of R354, as a list compared in order: RANK, ECLASS, deadline descending, identifier descending. -/
def Launch.keyBefore (x y : Launch) : Bool :=
  let dl (l : Launch) : Nat := if l.task.deadline = 0 then 2 ^ 64 - 1 else l.task.deadline.toNat
  if x.task.rank ≠ y.task.rank then decide (x.task.rank < y.task.rank)
  else if x.task.eclass ≠ y.task.eclass then decide (x.task.eclass < y.task.eclass)
  else if dl x ≠ dl y then decide (dl y < dl x)
  else decide (y.id < x.id)

/-- The predicted power of a scope's launches at their levels (R354), in milliwatts. -/
def State.predictedSum (s : State) (slow : Bool) (scope : Nat) (xs : List (Launch × Nat)) : Nat :=
  Config.overheadPower scope + (xs.map fun p => Config.predictedPower s.power.periods p.1.id p.2 slow).sum

/-- The floor of a context is intact (R357). -/
def Ctx.intact (c : Ctx) : Bool := c.admitted && !c.broken

/-- A level of launch x may be lowered: its context stays at or above its intact floor (R354). -/
def State.mayLower (s : State) (slow : Bool) (xs : List (Launch × Nat)) (x : Launch) (lvl : Nat) : Bool :=
  match s.ctx x.ctx with
  | none => true
  | some c =>
    let f := s.effectiveFloor c * 1000
    !c.intact || f = 0 ||
      decide (f ≤ ((xs.filter fun p => p.1.ctx == x.ctx).map fun p =>
        Config.predictedPower s.power.periods p.1.id (if p.1.id = x.id then lvl else p.2) slow).sum)

/-- Lower launch x while its scope is above the limit (R354). -/
def State.lowerOne (s : State) (slow : Bool) (scope limit : Nat) (inScope : Launch → Bool) (x : Launch) :
    Nat → List (Launch × Nat) → List (Launch × Nat)
  | 0, xs => xs
  | fuel + 1, xs =>
    let lvl := match xs.find? fun p => p.1.id == x.id with | some p => p.2 | none => 0
    if decide (limit < s.predictedSum slow scope (xs.filter fun p => inScope p.1)) && decide (0 < lvl)
        && s.mayLower slow xs x (lvl - 1) then
      s.lowerOne slow scope limit inScope x fuel (xs.map fun p => if p.1.id = x.id then (p.1, lvl - 1) else p)
    else xs

/-- Lower the launches of a scope to its limit, in ascending key (R354). -/
def State.lowerScope (s : State) (slow : Bool) (scope limit : Nat) (inScope : Launch → Bool) (xs : List (Launch × Nat)) :
    List (Launch × Nat) :=
  ((sortBy Launch.keyBefore (xs.map (·.1))).filter inScope).foldl (fun ys x => s.lowerOne slow scope limit inScope x 8 ys) xs

/-- Every running launch at level 7. -/
def State.ceilLevels (s : State) : List (Launch × Nat) := s.runningLaunches.map fun l => (l, 7)

/-- Lower launch x as far as its context's intact floor allows (R363). -/
def State.lowest (s : State) (slow : Bool) (x : Launch) : Nat → List (Launch × Nat) → List (Launch × Nat)
  | 0, xs => xs
  | fuel + 1, xs =>
    let lvl := match xs.find? fun p => p.1.id == x.id with | some p => p.2 | none => 0
    if decide (0 < lvl) && s.mayLower slow xs x (lvl - 1) then
      s.lowest slow x fuel (xs.map fun p => if p.1.id = x.id then (p.1, lvl - 1) else p)
    else xs

/-- Every running launch at level 0, those of intact floors at the lowest levels that keep them (R362, R363). -/
def State.leastLevels (s : State) (slow : Bool) : List (Launch × Nat) :=
  (sortBy Launch.keyBefore s.runningLaunches).foldl (fun ys x => s.lowest slow x 8 ys) s.ceilLevels

/-- E0 (R362). -/
def State.e0 (s : State) : Nat := s.predictedSum false 0 (s.leastLevels false)

/-- Eslow (R362). -/
def State.eSlow (s : State) : Nat := s.predictedSum true 0 (s.leastLevels true)

/-- The partitions. -/
def State.partitions (s : State) : List (Ctx × Partition) := s.ctxs.filterMap fun c => c.part.map fun p => (c, p)

/-- A launch belongs to a partition. -/
def State.launchIn (s : State) (p : Nat) (l : Launch) : Bool := s.partitionOf l.ctx == some p

/-- The levels of R354: from the ceiling (under slow that of R363), each partition to Lp, then the package to Lpkg. -/
def State.scheduledLevels (s : State) : List (Launch × Nat) :=
  let parts := s.partitions.foldl (fun xs p =>
    match s.partitionLimit p.2 with
    | some lim => s.lowerScope s.slow (p.1.num + 1) lim (s.launchIn p.1.num) xs
    | none => xs) (if s.slow then s.leastLevels true else s.ceilLevels)
  s.lowerScope s.slow 0 s.power.level (fun _ => true) parts

/-! ## Floors -/

/-- Admitted effective floors that are not broken, in milliwatts. -/
def State.keptFloors (s : State) (p : Ctx → Bool) : Nat :=
  ((s.ctxs.filter fun c => c.intact && p c).map fun c => s.effectiveFloor c * 1000).sum

/-- The room of the package (R358). -/
def State.room (s : State) : Nat := s.power.level - gatedFloor

/-- PRANK of the partition of a context. -/
def State.prankOf (s : State) (x : Nat) : Nat :=
  match (s.partitionOf x).bind s.ctx with
  | some c => match c.part with | some p => p.prank.val | none => 0
  | none => 0

/-- Kept floors exceed the room of the partition of context x. -/
def State.partitionOver (s : State) (x extra : Nat) : Bool :=
  match s.partitionOf x with
  | none => false
  | some p => match (s.ctx p).bind (·.part) with
    | some part => match s.partitionLimit part with
      | some lim => decide (lim < s.keptFloors (fun c => s.partitionOf c.num == some p) + extra)
      | none => false
    | none => false

/-- A context has a live core in its grant (R359). -/
def State.hasLiveCore (s : State) (c : Ctx) : Bool :=
  allCores.any fun k => c.cores.getLsbD k.val && (s.island (islandOf k)).state != .failed

/-- The order in which floors are broken (R358). -/
def State.breakBefore (s : State) (x y : Ctx) : Bool :=
  if s.prankOf x.num ≠ s.prankOf y.num then decide (s.prankOf x.num < s.prankOf y.num)
  else if x.depth ≠ y.depth then decide (y.depth < x.depth)
  else decide (y.num < x.num)

/-- Break or restore the floor of a context, with its notice (R358): to its ring, or to the host for a partition. -/
def State.markFloor (s : State) (c : Ctx) (broken : Bool) : State :=
  (s.modCtx c.num fun x => { x with broken := broken }).notice c.num (if broken then 1 else 2)
    (BitVec.ofNat 64 (s.effectiveFloor c)) 0

/-- The room of a limit has grown: from a to b, none without a limit. -/
def roomGrew (a b : Option Nat) : Bool :=
  match a, b with
  | some x, some y => decide (x < y)
  | some _, none => true
  | none, _ => false

/-- The limit of the partition of context x has grown since floors were last evaluated (R358). -/
def State.limitGrew (s : State) (x : Nat) : Bool :=
  match (s.partitionOf x).bind s.ctx with
  | some c => match c.part with | some p => roomGrew p.seenLimit (s.partitionLimit p) | none => false
  | none => false

/-- Note the limits at which floors have been evaluated. -/
def State.noteLimits (s : State) : State :=
  { s with ctxs := s.ctxs.map fun c => { c with part := c.part.map fun p => { p with seenLimit := s.partitionLimit p } } }

/-- Break floors until they fit, then, where the room has grown, restore those that were broken before and fit whole (R358, R359); old:
the level at the last evaluation. -/
def State.refloor (s : State) (old : Nat) : State :=
  let order := sortBy s.breakBefore (s.ctxs.filter fun c => c.admitted && s.effectiveFloor c != 0)
  let s1 := order.foldl (fun t c =>
    match t.ctx c.num with
    | some x =>
      if x.intact && (decide (t.room < t.keptFloors fun _ => true) || t.partitionOver c.num 0 || !t.hasLiveCore x) then
        t.markFloor x true
      else t
    | none => t) s
  order.reverse.foldl (fun t c =>
    match t.ctx c.num with
    | some x =>
      let f := t.effectiveFloor x * 1000
      if x.admitted && x.broken && c.broken && (decide (old < s.power.level) || s.limitGrew c.num) && t.hasLiveCore x && decide (t.keptFloors (fun _ => true) + f ≤ t.room)
          && !t.partitionOver c.num f then t.markFloor x false
      else t
    | none => t) s1 |>.noteLimits

/-! ## Grades -/

/-- The weight of a grade (R351). -/
def Grade.code : Grade → Nat
  | .normal => 0
  | .slow => 1
  | .park => 2
  | .shed => 3
  | .floor => 4

/-- The rank of a die in park's order (R364): dies that hold units of an intact floor last, then the highest PRANK of its
units, then the higher number first. -/
def State.dieKey (s : State) (d : DieId) : Nat :=
  let us := (dieCores d).filterMap s.resident
  let kept := us.any fun u => match s.ctx u.ctx with | some c => c.intact && s.effectiveFloor c != 0 | none => false
  (if kept then 1024 else 0) + 16 * us.foldl (fun m u => max m (s.prankOf u.ctx)) 0 + (7 - d.val)

/-- The dies to park, in order (R364). -/
def State.parkList (s : State) : List DieId :=
  sortBy (fun a b => decide (s.dieKey a < s.dieKey b)) ((List.finRange 8).filter fun d => !(s.die d).parked)

/-- Enter a grade that is not lighter (R362): in park the dies that are not parked are ordered anew (R364); from any grade, shed (R367); the bound of slow runs anew for a lower level (R371). -/
def State.enterGrade (s : State) (g : Grade) : State :=
  if g = .slow ∧ s.power.grade = .slow then { s with power := { s.power with since := s.tick } }
  else if g = .park ∧ s.power.grade = .park then
    { s with power := { s.power with parkOrder := s.power.parkOrder.filter (fun d => (s.die d).parked) ++ s.parkList } }
  else if g.code ≤ s.power.grade.code && g != .shed then s
  else
    State.noteAllCaps { s with power := { s.power with grade := g, since := s.tick, lift := none,
                                                       parkOrder := if g = .park then s.parkList else s.power.parkOrder } }

/-- Choose the grade for a new level: below 190 W shed (R358, R367), else where it is below the present power (R362). -/
def State.chooseGrade (s : State) : State :=
  let l := s.power.level
  if l < gatedFloor then s.enterGrade .shed
  else if s.power.measured ≤ l then s
  else if s.e0 ≤ l then s
  else if s.eSlow ≤ l then s.enterGrade .slow
  else s.enterGrade .park

/-- The margin of a lift (R366). -/
def liftMargin : Nat := 90000

/-- The predicted power of the next lighter state, none where the grade does not lift so (R366). -/
def State.lighterPower (s : State) : Option Nat :=
  match s.power.grade with
  | .park => some s.eSlow
  | .slow => some s.e0
  | _ => none

/-- Note since when the lift condition has held (R366). -/
def State.noteLift (s : State) : State :=
  let holds := match s.lighterPower with | some p => decide (p + liftMargin ≤ s.power.level) | none => false
  { s with power := { s.power with lift := if holds then some (s.power.lift.getD s.tick) else none } }

/-- Bring Lpkg up to date: floors follow it, a fall chooses a grade, and the time for which a lift has been due begins or ends (R358,
R361, R366). -/
def State.relevel (s : State) : State :=
  let l := s.packageLevel
  let fell := decide (l < s.power.level)
  let t := ({ s with power := { s.power with level := l } } : State).refloor s.power.level
  (if fell then t.chooseGrade else t).noteLift

/-- A retirement lowers PMAX by some watts (R359). -/
def State.retire (s : State) (watts : Nat) : State :=
  ({ s with power := { s.power with pmax := s.power.pmax - watts * 1000 } } : State).relevel

/-- Retire a memory channel (R359, R374). -/
def State.retireChan (s : State) (c : Fin 9 × Fin 32) : State :=
  if s.memctl.retired.contains c then s
  else ({ s with memctl := { s.memctl with retired := s.memctl.retired ++ [c] } } : State).retire 10

/-! ## Rows of memory -/

/-- The channel of a bank: banks are numbered so that bank mod 288 is 32 x stack + channel (notes/assumptions/27.md). -/
def bankChannel (bank : Nat) : Fin 9 × Fin 32 := (Fin.ofNat 9 (bank % 288 / 32), Fin.ofNat 32 bank)

/-- Spares of a bank that have been taken (R379, R380). -/
def MemCtl.taken (m : MemCtl) (bank : Nat) : Nat :=
  (m.spared.filter fun p => p.1 == bank).length + (m.retiredSpares.filter fun p => p.1 == bank).length
    + (m.copying.filter fun p => p.1 == bank).length

/-- CAM entries of a controller that are in use or promised (R379). -/
def MemCtl.camUsed (m : MemCtl) (c : Fin 9 × Fin 32) : Nat :=
  (m.spared.filter fun p => bankChannel p.1 == c).length
    + (m.copying.filter fun p => bankChannel p.1 == c && !(m.spared.any fun q => q.1 == p.1 && q.2.1 == p.2.1)).length

/-- A row is due for sparing (R379, R380), be it served by a spare already: a copy starts, or the bank or CAM is exhausted, which Barchan reports, and the
channel is retired. -/
def State.spareRow (s : State) (bank row : Nat) : State :=
  let m := s.memctl
  let c := bankChannel bank
  let redirected := m.spared.any fun p => p.1 == bank && p.2.1 == row
  if m.copying.any fun p => p.1 == bank && p.2.1 == row then s
  else if 32 ≤ m.taken bank then
    (({ s with memctl := { m with exhausted := insertAsc m.exhausted bank } } : State).reply (.report 1 bank)).retireChan c
  else if !redirected && 1024 ≤ m.camUsed c then (s.reply (.report 2 (32 * c.1.val + c.2.val))).retireChan c
  else { s with memctl := { m with copying := m.copying ++ [(bank, row, m.taken bank)] } }

end Sys2Proof.Machine
end

