-- ==== Sys2Proof/Machine/Physical.lean ====
section
/-! DEFINITION. Physical inputs: time passes (spec/03_core_state.md R74; spec/10_work_unit.md R255; spec/17_die_sched.md R306,
R321), stored bits go bad (spec/05_sequencers.md R110;
spec/20_package.md R379, R380), temperatures, Barchan (spec/19_power.md R353, R369); a stream with nothing to run. -/

namespace Sys2Proof.Machine

open Sys2Proof

/-! ## Nothing to run -/

/-- The current stream has no instruction: its word is bad (R75, 0x0B QUAL 3) or illegal (R40), or it does nothing. -/
def State.noInstr (s : State) : State :=
  match s.stream with
  | .seq q =>
    let pc := (s.cur.seq q).pc
    if !s.cur.seqRuns q then s
    else if s.cur.badWord pc then s.trapSeq 0x0B 3 (pc.zeroExtend 64)
    else s.illegal
  | .eng _ => s

/-! ## Time -/

/-- A sequencer is held by something other than its own work (R321). -/
def Seq.held (q : Seq) : Bool :=
  match q.stall with
  | .popEmpty | .pushFull | .ringFull _ | .ringBusy _ | .seed | .sem _ _ | .barrier | .tick _ | .counter | .workQueue _ | .cont
    | .segment => true
  | .none | .interlock | .order | .revoking => false

/-- A unit is runnable: one of its sequencers is not halted and not held (R321). -/
def Core.runnable (k : Core) : Bool :=
  k.stop.isNone && ((!k.a.halted && !k.a.held && k.handled.isNone) || (!k.x.halted && !k.x.held))

/-- A unit has a memory, window or fabric request outstanding (R321): a load or store, a copy, a tile that is filled. -/
def Core.requesting (k : Core) : Bool :=
  let copies (t : Stream) : Bool := match t.phase with | .running _ => true | _ => !t.chunks.isEmpty
  !k.a.out.isEmpty || !k.x.out.isEmpty || copies k.c0Eng || copies k.c1Eng || k.tiles.toList.any (·.filling)

/-- An energy account (R360): unlimited where it was never written. -/
def Ctx.account (c : Ctx) (n : Nat) : BitVec 48 :=
  match c.energy.find? fun p => p.1 == n with
  | some p => p.2
  | none => BitVec.allOnes 48

/-- The phase of a launch holds energy budget (R308, R360). -/
def State.hasEnergy (s : State) (l : Launch) : Bool :=
  l.task.ccp = 255 || (match s.ctx l.ctx with | some c => c.account l.task.ccp.val != 0 | none => true)

/-- WC of the task queue of context x on die d counts in a cycle in which no bank refuses one of its engines (R321); under slow and
park no watchdog counts (R371). -/
def State.watched (s : State) (d : DieId) (x : Nat) : Bool :=
  let ks := ((dieCores d).map s.coreAt).filter fun k => match k.unit with | some u => u.ctx == x | none => false
  let active := match (s.partitionOf x).bind s.ctx with
    | some c => match c.part with | some p => p.pthrot.getLsbD 7 | none => false
    | none => false
  let wdog : BitVec 16 := match s.ctx x with | some c => c.wdog | none => 0
  wdog != 0 && !(s.die d).parked && s.power.grade != .slow && s.power.grade != .park && !active && ks.any Core.runnable && !ks.any Core.requesting &&
    ks.all fun k => match k.unit with
      | some u => match s.launch u.launch with | some l => s.hasEnergy l | none => true
      | none => true

/-- Cores of die d that hold a unit of context x or are reserved for one (R306). -/
def State.chargedCores (s : State) (d : DieId) (x : Nat) : Nat :=
  ((dieCores d).filter fun c =>
    (match s.resident c with | some u => u.ctx == x | none => false)
      || (s.die d).reserved.any fun p => p.1 == c.val && (match s.launch p.2 with | some l => l.ctx == x | none => false)).length

/-- The reference cycles for which a bank refuses an engine of context x on die d. -/
def State.refusedOn (s : State) (d : DieId) (x : Nat) : Nat :=
  (dieCores d).foldl (fun m c => match s.resident c with | some u => if u.ctx = x then max m (s.coreAt c).refused else m | none => m) 0

/-- The cycles of the next n in which WC of context x on die d rises (R321). -/
def State.counted (s : State) (d : DieId) (x n : Nat) : Nat := if s.watched d x then n - s.refusedOn d x else 0

/-- The task queues of a die after n reference cycles (R306, R321). -/
def State.ageQueues (s : State) (n : Nat) (d : DieId) : State :=
  s.modDie d fun y => { y with queues := y.queues.map fun q =>
    { q with deficit := q.deficit - BitVec.ofNat 64 (s.chargedCores d q.ctx * n), wc := q.wc + s.counted d q.ctx n } }

/-- The limit of a task queue in reference cycles (R321). -/
def State.watchdogLimit (s : State) (x : Nat) : Nat := match s.ctx x with | some c => c.wdog.toNat * 24000 | none => 0

/-- The watchdog of context x on die d has expired and no drain serves it yet (R321, R322). -/
def State.expired (s : State) (d : DieId) (x : Nat) : Bool :=
  s.watchdogLimit x != 0 && ((s.die d).queues.any fun q => q.ctx == x && decide (s.watchdogLimit x ≤ q.wc))
    && (s.die d).drains.all fun r => !r.ctxs.contains x

/-- The cycle of the next n in which WC of a queue reaches its limit, none where it does not. -/
def State.reachIn (s : State) (n : Nat) (d : DieId) (q : TaskQueue) : Option Nat :=
  let lim := s.watchdogLimit q.ctx
  if decide (q.wc < lim) && decide (lim ≤ q.wc + s.counted d q.ctx n) then some (s.refusedOn d q.ctx + (lim - q.wc)) else none

/-- The watchdogs that expire within n cycles: the cycle, the die and the context. -/
def State.expiries (s : State) (n : Nat) : List (Nat × DieId × Nat) :=
  ((List.finRange 8).map fun d => (s.die d).queues.filterMap fun q => (s.reachIn n d q).map fun k => (k, d, q.ctx)).flatten

/-- The cycle of the next n in which BUDG of a unit goes below 0 while a reason of the grace is pending (R255), none where it does
not; where it is below 0 already, the next. -/
def Core.graceEnds (n : Nat) (k : Core) : Option Nat :=
  match k.unit with
  | some u =>
    let j := (k.sys.budg.toInt + 1).toNat
    if graceRuns u.reasons && k.stop.isNone && decide (max 1 j ≤ n) then some (max 1 j) else none
  | none => none

/-- The graces that end within n cycles. -/
def State.graceEndings (s : State) (n : Nat) : List (Nat × CoreId) :=
  allCores.filterMap fun c => ((s.coreAt c).graceEnds n).map fun k => (k, c)

/-- A unit after n reference cycles (R255, R310). -/
def Core.age (n : Nat) (k : Core) : Core :=
  match k.unit with
  | none => k
  | some u =>
    { k with unit := some { u with resident := u.resident + n },
             refused := k.refused - n
             sys := { k.sys with budg := if graceRuns u.reasons then chargeBudget 32 k.sys.budg n else k.sys.budg } }

/-- The part of a pending correction that k nanoseconds make, at most 100 ppm (R408), with what is left. -/
def Fabric.slewBy (f : Fabric) (k : Nat) : Int × Fabric :=
  let total := f.slewRem + k
  let m : Int := min f.slew.natAbs (total / 10000)
  let d : Int := if f.slew < 0 then -m else m
  (d, { f with slew := f.slew - d, slewRem := if f.slew = 0 then 0 else total % 10000 })

/-- n reference cycles pass in which no watchdog expires before their end: 2.4 GHz, five twelfths of a nanosecond each; TICK is
corrected slowly (R408). -/
def State.pass (s : State) (n : Nat) : State :=
  let t := s.sub + 5 * n
  let s1 := (List.finRange 8).foldl (fun u d => u.ageQueues n d) s
  let r := s1.fabric.slewBy (t / 12)
  { s1 with tick := s1.tick + BitVec.ofInt 64 ((t / 12 : Nat) + r.1), sub := t % 12, cycle := s1.cycle + n,
            cores := s1.cores.map (Core.age n), fabric := r.2 }

/-- What comes about within n cycles because a count reaches its limit: the cycle and the event (R255, R321). -/
def State.limits (s : State) (n : Nat) : List (Nat × Instr) :=
  (s.expiries n).map (fun y => (y.1, .watchdogExpiry y.2.1 y.2.2)) ++ (s.graceEndings n).map fun y => (y.1, .graceExpiry y.2)

/-- n reference cycles pass. Where watchdogs or graces end among them, time stops at the first such cycle: those events come next,
then the cycles that are left (R255, R321). -/
def State.elapse (s : State) (n : Nat) : State :=
  match s.limits n with
  | [] => s.pass n
  | x :: r =>
    let k := r.foldl (fun m y => min m y.1) x.1
    let now := ((x :: r).filter fun y => y.1 == k).map fun y => Act.event y.2
    let t := s.pass k
    { t with agenda := now ++ ((if k = n then [] else [.elapse (n - k)]) ++ t.agenda) }

/-! ## Errors in stored bits -/

/-- An error in a line that a CRED has written, before its signal is applied (R221): 0x0B is raised at the entry, which keeps its
writes and applies its signal. -/
def State.credErrors (s : State) (a : Nat) : State :=
  allCores.foldl (fun t c => [Eng.c0, Eng.c1].foldl (fun u e =>
    match ((u.coreAt c).eng e).credLines.find? fun l => l.1 == a / 128 * 128 with
    | some l =>
      (u.modCore c fun k => k.modEng e fun x => { x with credLines := [] }).raise c (.eng e) 0x0B 0
        (infoOf (l.2 + BitVec.ofNat 80 (a % 128)))
    | none => u) t) s

/-- A byte of memory becomes uncorrectable, for a program where that copy of it is current (R378); its row, where the bank is one of its channel, is due for sparing (R110, R379). -/
def State.damageMem (s : State) (a bank row : Nat) : State :=
  let own := if lpShadow ≤ a && s.inShadow (a - lpShadow) then a - lpShadow else a
  let t := if s.inShadow a then s else ({ s with memBad := insertAsc s.memBad own } : State).credErrors own
  if channelOf a = some (bankChannel bank) then t.spareRow bank row else t

/-- A byte of a scratchpad becomes uncorrectable. -/
def State.damageSpad (s : State) (c : CoreId) (o : Nat) : State :=
  s.modCore c fun k => { k with spadBad := insertAsc k.spadBad (o % 2 ^ 22) }

/-- A byte of a URS becomes uncorrectable. -/
def State.damageRow (s : State) (c : CoreId) (b : Nat) : State :=
  s.modCore c fun k => { k with ursBad := insertAsc k.ursBad (b % 393216) }

/-- A byte of the SOF becomes uncorrectable (R183). -/
def State.damageSof (s : State) (c : CoreId) (b : Nat) : State :=
  s.modCore c fun k => { k with sofBad := insertAsc k.sofBad (b % 4096) }

/-- A byte of the latch becomes uncorrectable (R183). -/
def State.damageLatch (s : State) (c : CoreId) (b : Nat) : State :=
  s.modCore c fun k => { k with latchBad := insertAsc k.latchBad (b % 256) }

/-- A byte of a sequence store becomes uncorrectable. -/
def State.damageCode (s : State) (c : CoreId) (a : Nat) : State :=
  s.modCore c fun k => { k with codeBad := insertAsc k.codeBad (a % 131072) }

/-- The ticks of 24 hours. -/
def dayTicks : Nat := 86400000000000

/-- A row takes a corrected error: the second within 24 hours makes it due for sparing (R379). -/
def State.correctedError (s : State) (bank row : Nat) : State :=
  let m := s.memctl
  let recent := m.corrected.any fun p => p.1 == bank && p.2.1 == row && decide (s.tick.toNat < p.2.2.toNat + dayTicks)
  let t := { s with memctl := { m with corrected :=
    (m.corrected.filter fun p => !(p.1 == bank && p.2.1 == row)) ++ [(bank, row, s.tick)] } }
  if recent then t.spareRow bank row else t

/-- An error in the spare that a copy fills: it is retired, and the copy starts again into the next (R380). -/
def State.damageSpare (s : State) (bank row : Nat) : State :=
  match s.memctl.copying.find? fun p => p.1 == bank && p.2.1 == row with
  | some p =>
    ({ s with memctl := { s.memctl with
        copying := s.memctl.copying.filter fun q => q != p,
        retiredSpares := s.memctl.retiredSpares ++ [(bank, p.2.2)] } } : State).spareRow bank row
  | none => s

/-! ## Heat and Barchan -/

/-- The junction temperature of a die passes 105 °C, or falls below 100 °C (R353). -/
def State.temperature (s : State) (d : DieId) (h : Bool) : State := s.modDie d fun y => { y with hot := h }

/-- Barchan hangs or is being updated, or works again (R369). -/
def State.barchanState (s : State) (h : Bool) : State := { s with power := { s.power with hung := h } }

end Sys2Proof.Machine
end

