-- ==== Sys2Proof/Machine/Copy.lean ====
section
/-! DEFINITION. What Wadi's commands share (spec/08_copy.md R213-R222, R233; spec/22_fabric.md R401, R405, R406): the spaces and
checks of runs, reading and writing them, overlapping copies, requests to remote nodes and their answers. -/

namespace Sys2Proof.Machine

open Sys2Proof

/-! ## Runs -/

/-- The copy stream that exec acts for. -/
def State.copyEng (s : State) : Eng :=
  match s.stream with
  | .eng .c1 => .c1
  | _ => .c0

/-- A piece of a run (R215-R217): the run's first address, the offset of the piece in it, its bytes, its transfer position, FAB,
the permission it needs (R294). -/
structure Run where
  start : A80
  off : Nat
  n : Nat
  pos : Nat
  fab : Bool
  need : Perm
  deriving DecidableEq, Repr

/-- The first address of a piece. -/
def Run.va (r : Run) : A80 := r.start + BitVec.ofNat 80 r.off

/-- A fault of a run at a transfer position. -/
abbrev RunFault := Nat × EFault

/-- A fault at an address. -/
def addrAt (pos : Nat) (code : BitVec 8) (qual : BitVec 4) (va : A80) : RunFault := (pos, ⟨code, qual, infoOf va⟩)

/-- The core that a window address names: the own core, or one of the cluster that holds a unit of the same launch (R214). -/
def State.windowCore (s : State) (c : CoreId) (va : A80) : Option CoreId :=
  if inLocal va then some c
  else
    let o := coreOf (islandOf c) (Fin.ofNat 8 (va.toNat / 2 ^ 22))
    match s.resident c, s.resident o with
    | some u, some v => if u.launch = v.launch then some o else none
    | _, _ => none

/-- A window piece (R214, R215). -/
def State.windowPart (s : State) (c : CoreId) (r : Run) : List Part × Option RunFault :=
  match s.windowCore c r.start with
  | none => ([], some (addrAt r.pos 0x05 0 r.va))
  | some o =>
    let a := r.start.toNat % 2 ^ 22 + r.off
    let m := min r.n (2 ^ 22 - a)
    ((if m = 0 then [] else [{ place := .spad o, addr := a, len := m, va := r.va, pos := r.pos }]),
     if m < r.n then some (addrAt (r.pos + m) 0x05 0 (r.va + BitVec.ofNat 80 m)) else none)

/-- A page of a run in memory or in a fabric window (R214, R215). -/
def State.pagePart (s : State) (ctx : Nat) (r : Run) (va : A80) (n pos : Nat) : Except RunFault Part :=
  if inLocal va || inCluster va then .error (addrAt pos 0x05 0 va)
  else match s.fabricWindow ctx va, r.fab with
    | some (node, part, exp, perm, off), true =>
      if Perm.within r.need perm then .ok { place := .remote node part exp, addr := off, len := n, va := va, pos := pos }
      else .error (addrAt pos 0x05 0 va)
    | some _, false => .error (addrAt pos 0x05 0 va)
    | none, true => .error (addrAt pos (if va = r.start then 0x04 else 0x05) 0 va)
    | none, false =>
      match s.translate ctx va r.need with
      | .ok pa => .ok { place := .phys, addr := pa, len := n, va := va, pos := pos }
      | .error f => .error (addrAt pos f.cause f.qual va)

/-- The pages of a run, up to the first that faults. -/
def State.pageParts (s : State) (ctx : Nat) (r : Run) : List (A80 × Nat) → Nat → List Part × Option RunFault
  | [], _ => ([], none)
  | (va, n) :: rest, pos =>
    match s.pagePart ctx r va n pos with
    | .error f => ([], some f)
    | .ok p =>
      let (ps, f) := s.pageParts ctx r rest (pos + n)
      (p :: ps, f)

/-- The parts of a piece of a run, and the first fault of its addresses. -/
def State.runParts (s : State) (c : CoreId) (r : Run) : List Part × Option RunFault :=
  if inLocal r.start || inCluster r.start then s.windowPart c r
  else s.pageParts (s.ctxOf c) r (pagesOf r.va r.n) r.pos

/-- The lowest live barrier word that meets bytes of memory. -/
def State.firstLive (s : State) (pa n : Nat) : Option Nat := s.live.find? fun w => decide (pa < w + 8) && decide (w < pa + n)

/-- The faults of a part, in the table order of R221: a live barrier word (a destination), uncorrectable data. DESIGN CHOICE
(notes/assumptions/102.md): a byte of a CRED destination line before the run has the position of the run's first byte, one behind it
its distance from there. -/
def State.partFaults (s : State) (p : Part) (dest reads : Bool) : List RunFault :=
  match p.place with
  | .phys =>
    let live := if dest then (s.firstLive p.addr p.len).map fun w =>
        addrAt (p.pos + (w - p.addr)) 0x06 0 (p.va + BitVec.ofInt 80 ((w : Int) - p.addr))
      else none
    -- ECC of every source byte, and of every line of a CRED destination
    let first := if dest then p.addr / 128 * 128 else p.addr
    let past := if dest then (p.addr + p.len + 127) / 128 * 128 else p.addr + p.len
    let bad := (if reads then s.firstUnc first (past - first) else s.firstRetired p.addr p.len).map fun b =>
      addrAt (p.pos + (b - p.addr)) 0x0B 0 (p.va + BitVec.ofInt 80 ((b : Int) - p.addr))
    live.toList ++ bad.toList
  | .spad o =>
    if reads then ((firstBad (s.coreAt o).spadBad p.addr p.len).map fun b =>
      (p.pos + (b - p.addr), (⟨0x0B, 1, BitVec.ofNat 64 b⟩ : EFault))).toList
    else []
  | .remote _ _ _ => []

/-- The fault at the lowest position; the first of those at one position. -/
def lowestFault (l : List RunFault) : Option RunFault :=
  l.foldl (fun m f => match m with
    | some x => if f.1 < x.1 then some f else some x
    | none => some f) none

/-- The parts of runs, and their lowest fault. -/
def State.checkRuns (s : State) (c : CoreId) (dest reads : Bool) (rs : List Run) :
    List (List Part) × Option RunFault :=
  let xs := rs.map fun r => s.runParts c r
  (xs.map (·.1),
   lowestFault ((xs.map fun x => x.2.toList ++ (x.1.map fun p => s.partFaults p dest reads).flatten).flatten))

/-- The fault of a copy (R221): the lowest position, the source first. -/
def firstOf (a b : Option RunFault) : Option EFault :=
  match a, b with
  | some x, some y => some (if y.1 < x.1 then y.2 else x.2)
  | some x, none => some x.2
  | none, some y => some y.2
  | none, none => none

/-- BUDT of a run (R233): a side in a window of scratchpads charges nothing. -/
def Run.bytes (r : Run) : Nat :=
  if inLocal r.start || inCluster r.start then 0 else 64 * ceilDiv (r.va.toNat % 64 + r.n) 64

/-- BUDT of runs. -/
def runBytes (rs : List Run) : Nat := (rs.map Run.bytes).sum

/-! ## Reading and writing -/

/-- Write the bytes of a run to its local parts. -/
def State.putParts (s : State) : List Part → List Byte → State
  | [], _ => s
  | p :: r, bs => (s.putPart p (bs.take p.len)).putParts r (bs.drop p.len)

/-- Write a run: local parts take the bytes, or the reduction with what they hold. -/
def State.writeRun (s : State) (k : RedKind) (ps : List Part) (bs : List Byte) : State :=
  s.putParts ps (k.apply (ps.map s.partBytes).flatten bs)

/-- Write several runs in transfer order. -/
def State.writeRuns (s : State) (k : RedKind) : List (List Part × List Byte) → State
  | [] => s
  | (ps, bs) :: r => (s.writeRun k ps bs).writeRuns k r

/-! ## Overlap -/

/-- Two parts share a byte. -/
def Part.meets (p q : Part) : Bool := p.place == q.place && decide (p.addr < q.addr + q.len) && decide (q.addr < p.addr + p.len)

/-- Some source byte is a destination byte. -/
def overlaps (src dst : List Part) : Bool := src.any fun p => dst.any fun q => p.meets q

/-- The units of z bytes of parts, in transfer order. -/
def unitsOf (z : Nat) (ps : List Part) : List Part :=
  (ps.map fun p => (List.range (p.len / z)).map fun i => { p with addr := p.addr + z * i, len := z }).flatten

/-- The bytes of a local part, each with its place. -/
def State.placed_ (s : State) (p : Part) : List (Option CoreId × Nat × Byte) :=
  match p.place with
  | .remote _ _ _ => []
  | _ => (s.partBytes p).zipIdx.map fun b => (p.home, p.addr + b.2, b.1)

/-- s with bytes put at their places. -/
def State.overlay (s : State) (l : List (Option CoreId × Nat × Byte)) : State :=
  l.foldl (fun t x => match x.1 with
    | some o => t.modCore o fun k => { k with spad := putByte k.spad x.2.1 x.2.2 }
    | none => { t with mem := putByte t.mem x.2.1 x.2.2 }) s

/-- The bytes of source runs, those that an earlier chunk of the copy may have overwritten as they were before it (R220). -/
def Overlap.older (o : Overlap) (srcs : List Run) (bytes : List (List Byte)) : List (List Byte) :=
  (srcs.zip bytes).map fun x => x.2.zipIdx.map fun b =>
    match o.before.find? fun y => y.1 == x.1.pos + b.2 with
    | some y => y.2
    | none => b.1

/-- A copy that reads every unit just before it is written (R220): source units, destination units, and what is known of a remote
source; the state it leaves and the bytes it read. -/
def State.copySlowly (s : State) (k : RedKind) : List ((Part × Part) × List Byte) → State × List Byte
  | [] => (s, [])
  | ((p, q), b) :: r =>
    let v := match p.place with | .remote _ _ _ => b | _ => s.partBytes p
    let t := (s.writeRun k [q] v).copySlowly k r
    (t.1, v ++ t.2)

/-- Bytes in units of z. -/
def cutUnits (z : Nat) : Nat → List Byte → List (List Byte)
  | 0, _ => []
  | n + 1, bs => if bs.isEmpty then [] else bs.take z :: cutUnits z n (bs.drop z)

/-- The units of a copy of runs (R220). -/
def slowUnits (k : RedKind) (src dst : List (List Part)) (bytes : List (List Byte)) : List ((Part × Part) × List Byte) :=
  let z := match k with | some (_, ty) => redSize ty | none => 1
  ((unitsOf z src.flatten).zip (unitsOf z dst.flatten)).zip (cutUnits z bytes.flatten.length bytes.flatten)

/-- The number of a place for the choices of R220. -/
def Part.code (p : Part) : Nat := match p.place with | .spad o => o.val + 1 | _ => 0

/-- For each byte of a destination run, that of the snapshot or that of the slow copy (R220): one choice for each aligned 8 bytes. -/
def pickBytes (seed : Nat) : List Part → List Byte → List Byte → List Byte
  | [], _, _ => []
  | p :: r, b, sl =>
    (((b.take p.len).zip (sl.take p.len)).zipIdx.map fun x =>
      if Config.overlapChoice seed p.code ((p.addr + x.2) / 8) then x.1.2 else x.1.1) ++ pickBytes seed r (b.drop p.len) (sl.drop p.len)

/-- The same for every run. -/
def pickRuns (seed : Nat) : List (List Part) → List (List Byte) → List Byte → List (List Byte)
  | ps :: r, b :: bs, sl => pickBytes seed ps b (sl.take b.length) :: pickRuns seed r bs (sl.drop b.length)
  | _, _, _ => []

/-- The physical ranges of parts. -/
def physRanges (ps : List Part) : List (Nat × Nat) := (ps.filter fun p => p.place == .phys).map fun p => (p.addr, p.len)

/-- The bytes that a copy writes, from those of its source runs (R218-R220): where it overlaps, each aligned 8 bytes takes those of
the snapshot or those of the copy byte by byte; plain: the bytes are those of the source runs in order; overlap: a copy of several
chunks that overlaps. -/
def State.choose (s : State) (k : RedKind) (plain : Bool) (overlap : Option Overlap) (srcs : List Run) (src dst : List (List Part))
    (bytes : List (List Byte)) : State × List (List Byte) :=
  match overlap with
  | some o =>
    let old := o.older srcs bytes
    (s, pickRuns o.seed dst old ((s.overlay o.slow).copySlowly k (slowUnits k src dst bytes)).2)
  | none =>
    if plain && overlaps src.flatten dst.flatten then
      ({ s with fresh := s.fresh + 1 }, pickRuns s.fresh dst bytes (s.copySlowly k (slowUnits k src dst bytes)).2)
    else (s, bytes)

/-- Perform the local writes of a copy in transfer order (R218, R219). -/
def State.performRuns (s0 : State) (k : RedKind) (dst : List (List Part)) (bytes : List (List Byte)) : State :=
  let s := s0.settleEntries (physRanges dst.flatten)
  (s.writeRuns k (dst.zip bytes)).fireAll s.mem

/-- What writing byte by byte has left after these runs too (R220). -/
def State.slower (s : State) (k : RedKind) (o : Overlap) (src dst : List (List Part)) (bytes : List (List Byte)) : Overlap :=
  let t := ((s.overlay o.slow).copySlowly k (slowUnits k src dst bytes)).1
  { o with slow := o.slow ++ dst.flatten.flatMap t.placed_ }

/-! ## Remote parts -/

/-- Send a request of a copy stream for a chunk (R401, R405); to a lost node it fails at once (R411). -/
def State.sendChunk (s : State) (c : CoreId) (e : Eng) (chunk piece : Nat) (va : A80) (node part : Nat) (exp : Fin 16) (off : Nat) (read : Bool)
    (req : Nat → RemoteOp) : State :=
  if s.fabric.lost.contains node then
    s.modCore c fun k => k.modEng e fun t => { t with fails := t.fails ++ [{ chunk := chunk, va := va, cause := 0x0B }] }
  else
    let id := s.fabric.nextId
    let w : RemoteWait := { id := id, core := c, stream := .eng e, access := chunk, piece := piece, node := node, req := req id,
                            part := part, exp := exp, offset := off, port := none, since := s.tick }
    ({ s with fabric := s.fabric.request w } : State).modCore c fun k =>
      k.modEng e fun t => { t with chunks := t.chunks ++ [{ id := id, chunk := chunk, va := va, read := read }] }

/-- Ask for the remote parts of sources (R403); each part has a number; base: the number of the first chunk. -/
def State.askParts (s : State) (c : CoreId) (e : Eng) (base : Nat) (parts : List Part) : State :=
  parts.zipIdx.foldl (fun t p => match p.1.place with
    | .remote node part exp => t.sendChunk c e (base + p.1.pos / 4096) p.2 p.1.va node part exp p.1.addr true fun _ => .copyRead p.1.len
    | _ => t) s

/-- Some part is remote. -/
def anyRemote (ps : List Part) : Bool := ps.any fun p => match p.place with | .remote _ _ _ => true | _ => false

/-- The bytes of a source part: a remote one from the data that has arrived. -/
def State.sourceBytes (s : State) (c : CoreId) (data : List (Nat × List Byte)) (p : Part) (i : Nat) : List Byte :=
  match p.place with
  | .remote _ _ _ => match data.find? fun d => d.1 == i with | some d => d.2 | none => List.replicate p.len 0
  | _ => s.readPart c p

/-- The bytes of source runs, run by run; remote parts are numbered through the runs. -/
def State.gather (s : State) (c : CoreId) (data : List (Nat × List Byte)) : List (List Part) → Nat → List (List Byte)
  | [], _ => []
  | ps :: r, i => (ps.zipIdx.map fun p => s.sourceBytes c data p.1 (i + p.2)).flatten :: s.gather c data r (i + ps.length)

/-- The remote parts of a destination run with their bytes, cut at chunk boundaries (R405). -/
def remotePieces : List Part → List Byte → List (Nat × Part × List Byte)
  | [], _ => []
  | p :: r, bs =>
    let mine := bs.take p.len
    let first := min p.len (4096 - p.pos % 4096)
    (match p.place with
     | .remote _ _ _ =>
       (p.pos / 4096, { p with len := first }, mine.take first) ::
         (List.range (ceilDiv (p.len - first) 4096)).map fun i =>
           let o := first + 4096 * i
           (p.pos / 4096 + 1 + i,
            { p with addr := p.addr + o, len := min 4096 (p.len - o), va := p.va + BitVec.ofNat 80 o, pos := p.pos + o },
            (mine.drop o).take 4096)
     | _ => []) ++ remotePieces r (bs.drop p.len)

/-- The node of a remote part. -/
def Part.node (p : Part) : Nat := match p.place with | .remote n _ _ => n | _ => 0

/-- A piece of a reducing chunk. -/
def redPiece (p : Part) (bs : List Byte) : RedPiece :=
  match p.place with
  | .remote _ part exp => { part := part, export_ := exp, offset := p.addr, bytes := bs }
  | _ => { part := 0, export_ := 0, offset := 0, bytes := bs }

/-- Distinct pairs of chunk and node, in order. -/
def chunkNodes (l : List (Nat × Part × List Byte)) : List (Nat × Nat) :=
  l.foldl (fun m x => if m.contains (x.1, x.2.1.node) then m else m ++ [(x.1, x.2.1.node)]) []

/-- Send the remote parts of the destinations (R405, R406); base: the number of the first chunk. -/
def State.sendWrites (s : State) (c : CoreId) (e : Eng) (k : RedKind) (base : Nat) (l : List (Nat × Part × List Byte)) : State :=
  match k with
  | none => l.foldl (fun t x => match x.2.1.place with
      | .remote node part exp => t.sendChunk c e (base + x.1) 0 x.2.1.va node part exp x.2.1.addr false fun _ => .copyWrite x.2.2
      | _ => t) s
  | some (op, ty) =>
    let ident := s.redIdent c e
    (chunkNodes l).foldl (fun t g =>
      let mine := l.filter fun x => x.1 == g.1 && x.2.1.node == g.2
      let va := match mine with | x :: _ => x.2.1.va | [] => 0
      t.sendChunk c e (base + g.1) 0 va g.2 0 0 0 false fun id =>
        .reduce { ident := ident, id := id, chunk := base + g.1, op := op, ty := ty,
                  pieces := mine.map fun x => redPiece x.2.1 x.2.2 }) s

/-- Forget the remote data and failures of a stream's command. -/
def State.clearRemote (s : State) (c : CoreId) (e : Eng) : State :=
  s.modCore c fun k => k.modEng e fun t => { t with data := [], fails := [] }

/-- The failure at the lowest chunk (R405). -/
def lowestFail (l : List FailedChunk) : Option FailedChunk :=
  l.foldl (fun m f => match m with
    | some x => if f.chunk < x.chunk then some f else some x
    | none => some f) none

/-! ## One move -/

/-- What a move came to: a fault, sources asked for, remote writes on their way, or done. -/
inductive Moved where
  | fault (f : EFault)
  | asking
  | sent
  | done
  deriving DecidableEq, Repr

/-- A move: its runs, the bytes of the destinations from those of the sources, whether those are the same run by run, the
reduction, the number of its first chunk. -/
structure Move where
  srcs : List Run
  dsts : List Run
  make : List (List Byte) → List (List Byte)
  plain : Bool
  red : RedKind
  base : Nat
  overlap : Option Overlap

/-- A write by a copy: what R382 counts, and the progress event of R321. -/
def State.noteWrites (s : State) (c : CoreId) (m : Move) : State :=
  let far := m.dsts.any fun r => inCluster r.start || (r.fab && !inLocal r.start)
  (if m.red.isSome || far then s.irreversible c else s).progress c

/-- Parts with their bytes, cut at each aligned 8 bytes. -/
def octetBytes : List Part → List Byte → List (Part × List Byte)
  | [], _ => []
  | p :: r, bs => ((octets [p]).map fun o => (o, (bs.drop (o.addr - p.addr)).take o.len)) ++ octetBytes r (bs.drop p.len)

/-- The local octets of destination runs with their bytes. -/
def localOctets (dp : List (List Part)) (bytes : List (List Byte)) : List (Part × List Byte) :=
  ((dp.zip bytes).flatMap fun p => octetBytes p.1 p.2).filter fun o => o.1.len != 0 && !anyRemote [o.1]

/-- The octet writes of a copy (R242): direct where the bytes of its sources are read as they are written. -/
def planOctets (k : RedKind) (direct : Bool) (sp : List Part) (dp : List (List Part)) (bytes : List (List Byte)) : List OctetWrite :=
  (localOctets dp bytes).map fun o =>
    { dst := o.1, srcs := if direct then slicesAt sp o.1.pos o.1.len else [], bytes := o.2, red := k }

/-- Octet writes of the stream that these parts meet are performed first: an entry sees its stream's earlier writes (R213). -/
def State.makeWay (s : State) (c : CoreId) (e : Eng) (sp dp : List Part) : State :=
  if ((s.coreAt c).eng e).todo.any fun o => overlaps [o.dst] (sp ++ dp) || overlaps o.srcs dp then s.performTodo c e fun _ => true
  else s

/-- The local writes of a copy: performed now, or octet by octet later (R242). -/
def State.writeLocal (s : State) (c : CoreId) (e : Eng) (m : Move) (sp dp : List (List Part)) (bytes : List (List Byte)) : State :=
  if ((s.coreAt c).eng e).lag then
    let direct := m.plain && m.overlap.isNone && !overlaps sp.flatten dp.flatten && !anyRemote sp.flatten
    s.modCore c fun k => k.modEng e fun t => { t with todo := t.todo ++ planOctets m.red direct sp.flatten dp bytes }
  else ((s.spendSources c sp.flatten).noteDests c dp.flatten).performRuns m.red dp bytes

/-- The bytes of a move are known (R218-R221, R405): write the local parts, send the remote ones. -/
def State.moveBytes (s : State) (c : CoreId) (e : Eng) (m : Move) (sp dp : List (List Part)) (bytes : List (List Byte)) :
    State × Moved :=
  let s0 := match m.overlap with
    | some o => (s.clearRemote c e).modCore c fun k => k.modEng e fun t => { t with overlap := some (s.slower m.red o sp dp bytes) }
    | none => s.clearRemote c e
  let r := s0.choose m.red m.plain m.overlap m.srcs sp dp bytes
  let s1 := (r.1.writeLocal c e m sp dp r.2).noteWrites c m
  let s2 := s1.sendWrites c e m.red m.base ((dp.zip r.2).map fun p => remotePieces p.1 p.2).flatten
  match ((s2.coreAt c).eng e).chunks.isEmpty, lowestFail ((s2.coreAt c).eng e).fails with
  | true, some f => (s2.clearRemote c e, .fault ⟨f.cause, 0, infoOf f.va⟩)
  | true, none => (s2, .done)
  | false, _ => (s2, .sent)

/-- Move bytes (R218-R221, R405): check every run, fetch remote sources, write the local parts, send the remote ones. -/
def State.move (s0 : State) (c : CoreId) (e : Eng) (m : Move) : State × Moved :=
  let (sp, sf) := s0.checkRuns c false true m.srcs
  let (dp, df) := s0.checkRuns c true m.red.isSome m.dsts
  let s := s0.makeWay c e sp.flatten dp.flatten
  match firstOf sf df with
  | some f => (s.clearRemote c e, .fault f)
  | none =>
    let t := (s.coreAt c).eng e
    if anyRemote sp.flatten && t.data.isEmpty then
      let s1 := s.askParts c e m.base sp.flatten
      match ((s1.coreAt c).eng e).chunks.isEmpty, lowestFail ((s1.coreAt c).eng e).fails with
      | true, some f => (s1.clearRemote c e, .fault ⟨f.cause, 0, infoOf f.va⟩)
      | _, _ => (s1, .asking)
    else s.moveBytes c e m sp dp (m.make (s.gather c t.data sp 0))

/-- A short command after its move (R221, R222, R405): it fails, waits for its sources, or its work is done; a copy into the own
scratchpad joins the refetch list (R381). Waiting, it keeps its descriptor (R217). -/
def finishMove (c : CoreId) (e : Eng) (desc : List Byte) (own : Bool) (busy bytes : Nat) (r : State × Moved) : State :=
  match r.2 with
  | .fault f => r.1.failCmd c e f
  | .asking => r.1.modCore c fun k => k.modEng e fun t => { t with tmpl := desc }
  | _ => (if own then r.1.modCore c fun k => k.noteRefetch e else r.1).workDone c e busy busy bytes 1

end Sys2Proof.Machine
end

