-- ==== Sys2Proof/Machine/Wadi.lean ====
section
/-! DEFINITION. Wadi's commands (spec/08_copy.md R212-R233): transfers, nests, planar packing, chains. -/

namespace Sys2Proof.Machine

open Sys2Proof

/-! ## Descriptors -/

/-- What a transfer does at its destination (R218, R223). -/
inductive CopyKind where
  | copy
  | reduce (op : RedOp) (ty : RedType)
  | fill (pat : List Byte)
  deriving DecidableEq, Repr

/-- A copy descriptor (R216). -/
structure CopyDesc where
  src : A80
  dst : A80
  sfab : Bool
  dfab : Bool
  len : Nat
  cnt1 : Nat
  cnt2 : Nat
  ss1 : Int
  ds1 : Int
  ss2 : Int
  ds2 : Int
  kind : CopyKind
  deriving DecidableEq, Repr

/-- The fields of a descriptor. -/
def parseCopy (bs : List Byte) (kind : CopyKind) : CopyDesc :=
  let f := fieldNat bs
  { src := BitVec.ofNat 80 (f 0 10), dst := BitVec.ofNat 80 (f 0x10 10), sfab := (f 10 1).testBit 0, dfab := (f 0x1A 1).testBit 0,
    len := f 0x0C 3, cnt1 := f 0x1C 2, cnt2 := f 0x1E 2, ss1 := sextInt 64 (f 0x20 8), ds1 := sextInt 64 (f 0x28 8),
    ss2 := sextInt 64 (f 0x30 8), ds2 := sextInt 64 (f 0x38 8), kind := kind }

/-- The reserved parts that every transfer has are zero (R216). -/
def copyReserved (bs : List Byte) : Bool :=
  let f := fieldNat bs
  f 0x0A 1 < 2 && zeroBytes bs 0x0B 1 && zeroBytes bs 0x0F 1 && f 0x1A 1 < 2 && zeroBytes bs 0x1B 1

/-- The source side of a fill is reserved (R218). -/
def fillReserved (bs : List Byte) : Bool := zeroBytes bs 0x08 4 && zeroBytes bs 0x20 8 && zeroBytes bs 0x30 8

/-- The destination side of a prefetch or flush is reserved (R218). -/
def sourceOnly (bs : List Byte) : Bool := zeroBytes bs 0x10 12 && zeroBytes bs 0x28 8 && zeroBytes bs 0x38 8

/-- The bytes that a copy moves (R217). -/
def CopyDesc.size (d : CopyDesc) : Nat := d.len * d.cnt1 * d.cnt2

/-- Alignment of a reducing copy (R218). -/
def CopyDesc.aligned (d : CopyDesc) : Bool :=
  match d.kind with
  | .reduce _ ty =>
    let z := redSize ty
    d.src.toNat % z == 0 && d.dst.toNat % z == 0 && d.len % z == 0 && [d.ss1, d.ds1, d.ss2, d.ds2].all fun x => x % (z : Int) == 0
  | _ => true

/-- The checks of a descriptor, in order (R217). -/
def Core.copyFault (k : Core) (e : Eng) (rsv : Bool) (d : CopyDesc) (limit : Nat) : Option EFault :=
  if !rsv then some (k.badCmd e 1)
  else if d.size = 0 || limit < d.size then some (k.badCmd e 2)
  else if !d.aligned then some (k.badCmd e 3)
  else none

/-- The pieces of runs at positions lo to hi - 1, on one side (R217). -/
def CopyDesc.side (d : CopyDesc) (base : A80) (s1 s2 : Int) (fab : Bool) (need : Perm) (lo hi : Nat) : List Run :=
  if d.len = 0 || hi ≤ lo then []
  else (List.range ((hi - 1) / d.len - lo / d.len + 1)).map fun j =>
    let r := lo / d.len + j
    let a := max lo (r * d.len)
    let b := min hi ((r + 1) * d.len)
    { start := base + BitVec.ofInt 80 ((r % d.cnt1 : Nat) * s1 + (r / d.cnt1 : Nat) * s2), off := a - r * d.len, n := b - a, pos := a,
      fab := fab, need := need }

/-- The source runs of positions lo to hi - 1: a fill has none. -/
def CopyDesc.srcRuns (d : CopyDesc) (lo hi : Nat) : List Run :=
  match d.kind with
  | .fill _ => []
  | _ => d.side d.src d.ss1 d.ss2 d.sfab 1 lo hi

/-- The destination runs of positions lo to hi - 1. -/
def CopyDesc.dstRuns (d : CopyDesc) (lo hi : Nat) : List Run := d.side d.dst d.ds1 d.ds2 d.dfab (match d.kind with | .reduce _ _ => 3 | _ => 2) lo hi

/-- The bytes of a fill for a run (R218): byte p mod 8 of the pattern. -/
def fillBytes (pat : List Byte) (r : Run) : List Byte := (List.range r.n).map fun i => pat.getD ((r.pos + i) % 8) 0

/-- The reduction of a transfer. -/
def CopyDesc.red (d : CopyDesc) : RedKind :=
  match d.kind with
  | .reduce op ty => some (op, ty)
  | _ => none

/-- The move of positions lo to hi - 1 of a transfer, its chunks numbered from base on. -/
def CopyDesc.toMove (d : CopyDesc) (lo hi base : Nat) : Move :=
  let dsts := d.dstRuns lo hi
  { srcs := d.srcRuns lo hi, dsts := dsts,
    make := (match d.kind with
      | .fill pat => fun _ => dsts.map (fillBytes pat)
      | _ => id),
    plain := (match d.kind with | .fill _ => false | _ => true), red := d.red, base := base, overlap := none }

/-- BUDT of positions lo to hi - 1 (R233). -/
def CopyDesc.charge (d : CopyDesc) (lo hi : Nat) : Nat := runBytes (d.srcRuns lo hi) + runBytes (d.dstRuns lo hi)

/-- The 64 bytes of a descriptor, or the error of reading them. -/
def Core.descriptor (k : Core) (off : BitVec 22) : Except EFault (List Byte) :=
  match k.spadFault off.toNat 64 with
  | some f => .error f
  | none => .ok (getBytes k.spad off.toNat 64)

/-- Act on a descriptor, read when the entry starts (R217): one that waits for remote data has kept it. -/
def State.withDesc (s : State) (c : CoreId) (e : Eng) (off : BitVec 22) (go : List Byte → State) : State :=
  match ((s.coreAt c).eng e).tmpl with
  | [] =>
    match (s.coreAt c).descriptor off with
    | .error f => s.failCmd c e f
    | .ok bs => go bs
  | bs => go bs

/-! ## Copy, reduce, fill, prefetch, flush -/

/-- CCOPY, CRED, CFILL (R218-R222). -/
def State.transfer (s : State) (c : CoreId) (e : Eng) (desc : List Byte) (rsv : Bool) (d : CopyDesc) (factor : Nat) : State :=
  match (s.coreAt c).copyFault e rsv d 65536 with
  | some f => s.failCmd c e f
  | none => finishMove c e desc (inLocal d.dst) (8 + factor * ceilDiv d.size 64) (d.charge 0 d.size)
      (s.move c e (d.toMove 0 d.size 0))

/-- CCOPY (R218). -/
def execCcopy (_y : Sync) (off : BitVec 22) (s : State) : Host.Outcome State Fault Refusal :=
  .next (s.withDesc s.core s.copyEng off fun bs =>
    s.transfer s.core s.copyEng bs (copyReserved bs) (parseCopy bs .copy) 1)

/-- The lines of memory that the destination of a transfer touches (R221). -/
def State.destLines (s : State) (c : CoreId) (d : CopyDesc) : List (Nat × A80) :=
  ((d.dstRuns 0 d.size).flatMap fun r => (s.runParts c r).1).flatMap fun p =>
    if p.place = .phys then
      (List.range ((p.addr + p.len + 127) / 128 - p.addr / 128)).map fun i =>
        let l := 128 * (p.addr / 128 + i)
        (l, p.va + BitVec.ofInt 80 ((l : Int) - p.addr))
    else []

/-- CRED (R218, R219); until its signal is applied, an error in a line it has written is its own (R221). -/
def execCred (_y : Sync) (off : BitVec 22) (op : RedOp) (ty : RedType) (s : State) : Host.Outcome State Fault Refusal :=
  .next (s.withDesc s.core s.copyEng off fun bs =>
    let d := parseCopy bs (.reduce op ty)
    match s.cur.copyFault s.copyEng (copyReserved bs) d 65536 with
    | some f => s.failCmd s.core s.copyEng f
    | none =>
      let t := s.transfer s.core s.copyEng bs (copyReserved bs) d 2
      match (t.cur.eng s.copyEng).phase with
      | .done _ _ _ _ => t.modCur fun k => k.modEng s.copyEng fun x => { x with credLines := s.destLines s.core d }
      | _ => t)

/-- CFILL (R218). -/
def execCfill (_y : Sync) (off : BitVec 22) (s : State) : Host.Outcome State Fault Refusal :=
  .next (s.withDesc s.core s.copyEng off fun bs =>
    s.transfer s.core s.copyEng bs (copyReserved bs && fillReserved bs) (parseCopy bs (.fill (bs.take 8))) 1)

/-- The limit of CPREF and CFLUSH (R218). -/
def prefLimit : Nat := 16777216

/-- CPREF (R218): it changes no value, and its addresses raise nothing. -/
def execCpref (_y : Sync) (off : BitVec 22) (s : State) : Host.Outcome State Fault Refusal :=
  .next (s.withDesc s.core s.copyEng off fun bs =>
    let d := parseCopy bs .copy
    match s.cur.copyFault s.copyEng (copyReserved bs && sourceOnly bs) d prefLimit with
    | some f => s.failCmd s.core s.copyEng f
    | none =>
      let busy := 8 + ceilDiv d.size 4096
      s.workDone s.core s.copyEng busy busy 0 1)

/-- CFLUSH (R218): it changes no value; its runs take the faults of their addresses. -/
def execCflush (_y : Sync) (off : BitVec 22) (s : State) : Host.Outcome State Fault Refusal :=
  .next (s.withDesc s.core s.copyEng off fun bs =>
    let d := parseCopy bs .copy
    match (s.cur.copyFault s.copyEng (copyReserved bs && sourceOnly bs) d prefLimit).or
        (lowestFault (((d.srcRuns 0 d.size).map fun r => (s.runParts s.core r).2.toList).flatten) |>.map (·.2)) with
    | some f => s.failCmd s.core s.copyEng f
    | none =>
      let busy := 8 + ceilDiv d.size 4096
      s.workDone s.core s.copyEng busy busy 0 1)

/-! ## Nests -/

/-- A level of a copy nest (R223). -/
structure CopyLevel where
  count : Nat
  sstr : Int
  dstr : Int
  sig : Bool
  deriving DecidableEq, Repr

/-- The levels of a copy nest descriptor. -/
def copyLevels (bs : List Byte) : List CopyLevel :=
  (List.range 6).map fun l =>
    let f := fieldNat bs
    let o := 0x40 + 32 * l
    { count := f o 2, sstr := sextInt 64 (f (o + 4) 8), dstr := sextInt 64 (f (o + 12) 8), sig := (f (o + 20) 1).testBit 0 }

/-- The event semaphore of a copy nest, where events are enabled. -/
def copyEvent (bs : List Byte) : Option (Fin 64) :=
  if (fieldNat bs 1 1).testBit 7 then some (Fin.ofNat 64 (fieldNat bs 1 1)) else none

/-- The reserved parts of a copy nest are zero (R223). -/
def copyNestReserved (bs : List Byte) : Bool :=
  let f := fieldNat bs
  f 0 1 < 64 && !(f 1 1).testBit 6 && zeroBytes bs 2 62 &&
    (List.range 6).all fun l => zeroBytes bs (0x42 + 32 * l) 2 && f (0x54 + 32 * l) 1 < 2 && zeroBytes bs (0x55 + 32 * l) 11

/-- What a copy nest's KIND names (R223). -/
def copyKind (bs tmpl : List Byte) : CopyKind :=
  let k := fieldNat bs 0 1
  match k % 4 with
  | 0 => .copy
  | 1 => .reduce (redOpOf (bitsOf k 2 2)) (redTypeOf (bitsOf k 4 2))
  | _ => .fill (tmpl.take 8)

/-- The checks of CNEST, in order (R224). -/
def Core.copyNestFault (k : Core) (e : Eng) (bs : List Byte) : Option EFault :=
  let kind := fieldNat bs 0 1
  let smask := match k.unit with | some u => u.smask | none => Vector.replicate 6 0
  if !copyNestReserved bs then some (k.badCmd e 1)
  else if kind % 4 = 3 || bitsOf kind 2 2 = 3 || bitsOf kind 4 2 = 3 || (copyLevels bs).any fun l => l.count == 0 then
    some (k.badCmd e 2)
  else match copyEvent bs with
    | some n => if declares smask (streamIndex (.eng e)) n then none else some ⟨0x05, 2, BitVec.ofNat 64 n.val⟩
    | none => none

/-- The nest sets of a copy stream. -/
def Core.copyNest (k : Core) (e : Eng) : CopyNest := if e = .c1 then k.nest1 else k.nest0

/-- Replace the nest sets of a copy stream. -/
def Core.setNest (k : Core) (e : Eng) (n : CopyNest) : Core := if e = .c1 then { k with nest1 := n } else { k with nest0 := n }

/-- CNEST (R224). -/
def execCnest (_y : Sync) (off : BitVec 22) (s : State) : Host.Outcome State Fault Refusal :=
  let e := s.copyEng
  .next (match s.cur.spadFault off.toNat 256 with
    | some f => s.failCmd s.core e f
    | none =>
      let bs := getBytes s.cur.spad off.toNat 256
      let put (n : NestSet) : State := s.modCur fun k => k.setNest e { k.copyNest e with shadow := n }
      match s.cur.copyNestFault e bs with
      | some f => (put { bytes := bs, valid := false }).failCmd s.core e f
      | none => (put { bytes := bs, valid := true }).workDone s.core e 4 4 0 1)

/-- The template of CGO under its nest (R225) and its check, with the bytes it was read from. -/
def Core.template (k : Core) (e : Eng) (off : BitVec 22) (nest : List Byte) : Except EFault (CopyDesc × List Byte) :=
  match k.descriptor off with
  | .error f => .error f
  | .ok bs =>
    let d := parseCopy bs (copyKind nest bs)
    let rsv := copyReserved bs && (match d.kind with | .fill _ => fillReserved bs | _ => true)
    match k.copyFault e rsv d (2 ^ 35) with
    | some f => .error f
    | none => .ok (d, bs)

/-- The template of the CGO that runs (R225, R226): the one it has read, else the one in the scratchpad, which it reads now. -/
def Core.templateKept (k : Core) (e : Eng) (off : BitVec 22) (nest : List Byte) : Except EFault (CopyDesc × List Byte) :=
  match (k.eng e).tmpl with
  | [] => k.template e off nest
  | bs => .ok (parseCopy bs (copyKind nest bs), bs)

/-- The nest that the CGO at the head of a copy stream runs: the active set, or that of the refetch list (R383). -/
def Core.nestRun (k : Core) (e : Eng) : Option (List Byte) :=
  if k.refetching e then
    match k.seg.rerun with
    | i :: _ => if i.nest = [] then none else some i.nest
    | [] => none
  else (k.copyNest e).active.get

/-- A CGO begins its nest with the template it has read. -/
def State.beginNest (s : State) (c : CoreId) (e : Eng) (tmpl : List Byte) : State :=
  (s.modCore c fun k => k.modEng e fun t => { t with tmpl := tmpl }).holdEntry c e (.nest [0, 0, 0, 0, 0, 0] 0 false)

/-- CGO (R225): the template is checked, the sets are swapped; without a valid active set it is done. A rerun of the refetch list
takes its nest from the list (R383). -/
def execCgo (_y : Sync) (off : BitVec 22) (s : State) : Host.Outcome State Fault Refusal :=
  let e := s.copyEng
  let n := s.cur.copyNest e
  let again := s.cur.refetching e
  let t := if again then s else s.modCur fun k => k.setNest e { active := n.shadow, shadow := n.active.drop }
  .next (match t.cur.nestRun e with
    | none => t.workDone s.core e 4 4 0 1
    | some bs =>
      match s.cur.template e off bs with
      | .error f => s.failCmd s.core e f
      | .ok d => t.beginNest s.core e d.2)

/-- The next index vector of a copy nest, level 0 fastest (notes/assumptions/29.md). -/
def nextCopy : List Nat → List Nat → List Nat
  | [i], _ => [i + 1]
  | i :: is, c :: cs => if i + 1 < c then (i + 1) :: is else 0 :: nextCopy is cs
  | is, _ => is

/-- Every copy of a nest is done. -/
def copiesOver (counts idx : List Nat) : Bool := decide (counts.getLastD 1 ≤ idx.getLastD 0)

/-- The number of an index vector in odometer order. -/
def linearIndex : List Nat → List Nat → Nat
  | i :: is, c :: cs => i + c * linearIndex is cs
  | _, _ => 0

/-- The copy of an index vector (R225). -/
def CopyDesc.at_ (d : CopyDesc) (ls : List CopyLevel) (idx : List Nat) : CopyDesc :=
  let sum (f : CopyLevel → Int) : Int := (ls.zipIdx.map fun l => (idx.getD l.2 0 : Int) * f l.1).sum
  { d with src := d.src + BitVec.ofInt 80 (sum (·.sstr)), dst := d.dst + BitVec.ofInt 80 (sum (·.dstr)) }

/-- A copy posts the event (R225). -/
def copyPosts (ls : List CopyLevel) (idx : List Nat) : Bool :=
  ls.zipIdx.any fun l => l.1.sig && (ls.take (l.2 + 1)).zipIdx.all fun m => idx.getD m.2 0 + 1 == m.1.count

/-- CGO goes on behind a copy: at the next index, or done when every chunk has its answer (R222). -/
def State.copyOn (s : State) (c : CoreId) (e : Eng) (own : Bool) (counts idx : List Nat) : State :=
  if copiesOver counts idx && ((s.coreAt c).eng e).chunks.isEmpty then
    (if own then s.modCore c fun k => k.noteRefetch e else s).workDone c e 0 0 0 1
  else s.holdEntry c e (.nest idx 0 false)

/-- The event of a nest's copy (R225), which releases its writes: a post that overflows stays pending. -/
def State.copyEventPost (s0 : State) (c : CoreId) (e : Eng) (own : Bool) (n : Fin 64) (counts idx : List Nat) : State :=
  let s := s0.flushEng c e
  match s.postSem c n 1 with
  | some t => t.copyOn c e own counts idx
  | none => s.faultMid c e (.nest idx 0 true) 0x07 0 (BitVec.ofNat 64 n.val)

/-- The index vector of a copy's number in odometer order. -/
def copyIndex : Nat → List Nat → List Nat
  | n, [_] => [n]
  | n, c :: cs => n % c :: copyIndex (n / c) cs
  | _, [] => []

/-- The place of a nest's chunk by its number (R226). -/
def chunkAt (nest : List Byte) (d : CopyDesc) (n : Nat) : Prog :=
  let per := ceilDiv d.size 4096
  .nest (copyIndex (n / per) ((copyLevels nest).map (·.count))) (n % per) false

/-- A chunk of CGO has been performed: charged (R225, R233). -/
def State.chargeChunk (s : State) (c : CoreId) (e : Eng) (nest : List Byte) (d : CopyDesc) (idx : List Nat) (chunk : Nat) : State :=
  let ls := copyLevels nest
  let lo := 4096 * chunk
  let hi := min d.size (lo + 4096)
  let factor := match d.kind with | .reduce _ _ => 2 | _ => 1
  let busy := factor * ceilDiv (hi - lo) 64 + (if chunk = 0 then 8 else 0) + (if chunk = 0 && idx.all (· == 0) then 4 else 0)
  (s.chargeEng c e busy busy ((d.at_ ls idx).charge lo hi)).progress c

/-- CGO goes on behind a chunk (R225): the event of a copy waits until its last chunk has been performed. -/
def State.chunkOn (s : State) (c : CoreId) (e : Eng) (nest : List Byte) (d : CopyDesc) (idx : List Nat) (chunk : Nat) : State :=
  let ls := copyLevels nest
  let counts := ls.map (·.count)
  let own := inLocal d.dst
  if 4096 * (chunk + 1) < d.size then s.holdEntry c e (.nest idx (chunk + 1) false)
  else
    let next := nextCopy idx counts
    match copyEvent nest with
    | some n =>
      if copyPosts ls idx && !(s.coreAt c).refetching e then
        if ((s.coreAt c).eng e).chunks.isEmpty then s.copyEventPost c e own n counts next else s.holdEntry c e (.nest next 0 true)
      else s.copyOn c e own counts next
    | none => s.copyOn c e own counts next

/-- The copy of a nest as it starts, where its later chunks read bytes that its earlier ones write (R220). -/
def State.overlapOf (s : State) (c : CoreId) (x : CopyDesc) : Option Overlap :=
  let parts (rs : List Run) : List Part := rs.flatMap fun r => (s.runParts c r).1
  let sp := parts (x.srcRuns 0 x.size)
  let dp := parts (x.dstRuns 0 x.size)
  if 4096 < x.size && overlaps sp dp then
    let written (o : Option CoreId) (a : Nat) : Bool := dp.any fun p => p.home == o && decide (p.addr ≤ a) && decide (a < p.addr + p.len)
    some { seed := s.fresh, slow := [], before := sp.flatMap fun p => ((s.placed_ p).zipIdx.filter fun b => written b.1.1 b.1.2.1).map fun b =>
      (p.pos + b.2, b.1.2.2) }
  else none

/-- The destination of the CGO at the head of a copy stream begins in the local window. -/
def Core.ownCopy (k : Core) (e : Eng) (off : BitVec 22) (nest : List Byte) : Bool :=
  match k.templateKept e off nest with
  | .ok d => inLocal d.1.dst
  | .error _ => false

/-- One chunk of CGO, or its pending event, which comes before the template is read (R225, R226). -/
def State.chunkStep (s0 : State) (c : CoreId) (e : Eng) (off : BitVec 22) (nest : List Byte) (idx : List Nat) (chunk : Nat)
    (event : Bool) : State :=
  let k := s0.coreAt c
  let ls := copyLevels nest
  let counts := ls.map (·.count)
  if event then
    match copyEvent nest with
    | some n => s0.copyEventPost c e (k.ownCopy e off nest) n counts idx
    | none => s0.copyOn c e (k.ownCopy e off nest) counts idx
  else if copiesOver counts idx then s0.copyOn c e (k.ownCopy e off nest) counts idx
  else match k.templateKept e off nest with
    | .error f => s0.faultCmd c e (.nest idx chunk event) f
    | .ok (d, bs) =>
      let x := d.at_ ls idx
      let lo := 4096 * chunk
      let hi := min d.size (lo + 4096)
      let start := if chunk = 0 && (s0.overlapOf c x).isSome then s0.flushEng c e else s0
      let overlap := match d.kind with
        | .fill _ => none
        | _ => if chunk = 0 then start.overlapOf c x else (k.eng e).overlap
      let s := if chunk = 0 && overlap.isSome then { start with fresh := start.fresh + 1 } else start
      let m := { x.toMove lo hi (linearIndex idx counts * ceilDiv d.size 4096) with overlap := overlap }
      let r := (s.modCore c fun k => k.modEng e fun t => { t with tmpl := bs, overlap := overlap }).move c e m
      match r.2 with
      | .fault f => if (k.eng e).chunks.isEmpty then r.1.faultCmd c e (.nest idx chunk event) f else r.1
      | .asking => r.1
      | .sent => r.1.chunkOn c e nest d idx chunk
      | .done => (r.1.chargeChunk c e nest d idx chunk).chunkOn c e nest d idx chunk

/-- A chunk of CGO (R225). One that writes to other nodes does not wait for the answers to the chunks before it (R405, R411). -/
def execCgoChunk (s : State) : Host.Outcome State Fault Refusal :=
  let e := s.copyEng
  let t := s.cur.eng e
  .next (match t.phase, t.head, s.cur.nestRun e with
    | .running (.nest idx chunk event), some h, some bs =>
      if !t.chunks.isEmpty && !t.sendsMore then s
      else s.chunkStep s.core e (BitVec.ofNat 22 h.word.toNat) bs idx chunk event
    | .running (.nest _ _ _), some _, none => s.workDone s.core e 4 4 0 1
    | _, _, _ => s)

/-! ## Planar packing -/

/-- A pack descriptor (R227). -/
structure PackDesc where
  mat : A80
  mfab : Bool
  mtype : Nat
  mx : MxKind
  rows : Nat
  cols : Nat
  pitch : Nat
  blk : Nat
  trans : Bool
  scl : A80
  sfab : Bool
  dstrk : Nat
  dstrr : Nat
  sclPitch : Nat
  deriving DecidableEq, Repr

/-- The fields of a pack descriptor. -/
def parsePack (bs : List Byte) : PackDesc :=
  let f := fieldNat bs
  { mat := BitVec.ofNat 80 (f 0 10), mfab := (f 10 1).testBit 0, mtype := f 11 1 % 16, mx := kindOf (bitsOf (f 11 1) 4 2),
    rows := f 12 2, cols := f 14 2, pitch := f 16 8, blk := f 0x18 4 % 2 ^ 22, trans := (f 0x1C 1).testBit 0,
    scl := BitVec.ofNat 80 (f 0x20 10), sfab := (f 0x2A 1).testBit 0, dstrk := f 0x2C 4, dstrr := f 0x30 4, sclPitch := f 0x34 8 }

/-- The reserved parts of a pack descriptor are zero (R227); unpack: SCL, SFLAGS and SCLPITCH too (R229). -/
def packReserved (bs : List Byte) (unpack : Bool) : Bool :=
  let f := fieldNat bs
  f 10 1 < 2 && f 11 1 < 64 && f 0x18 4 < 2 ^ 22 && f 0x1C 1 < 2 && zeroBytes bs 0x1D 3 && zeroBytes bs 0x2B 1 && zeroBytes bs 0x3C 4
    && (if unpack then zeroBytes bs 0x20 11 && zeroBytes bs 0x34 8
        else f 0x2A 1 < 2 && (f 11 1 % 16 == 7 || zeroBytes bs 0x20 10))

/-- Bits of an element of the dense matrix (R86, R227). -/
def PackDesc.bits (d : PackDesc) : Nat :=
  match d.mtype with
  | 0 | 3 => 32
  | 1 | 2 | 4 => 16
  | 7 => mxBits d.mx
  | 8 => 4
  | 9 => 2
  | _ => 8

/-- Blocks along the rows and along K (R227). -/
def PackDesc.grid (d : PackDesc) : Nat × Nat := (ceilDiv d.rows 32, ceilDiv d.cols 32)

/-- The blocks in order: rb, then kb. -/
def PackDesc.blocks (d : PackDesc) : List (Nat × Nat) :=
  ((List.range d.grid.1).map fun r => (List.range d.grid.2).map fun k => (r, k)).flatten

/-- The scratchpad offset of a block (R227). -/
def PackDesc.blockAt (d : PackDesc) (b : Nat × Nat) : Nat := d.blk + b.1 * d.dstrr + b.2 * d.dstrk

/-- The checks of a pack descriptor, in order (R217, R221, R227, R229), and its blocks' spans. -/
def Core.packFault (k : Core) (e : Eng) (bs : List Byte) (unpack : Bool) (p : Nat) : Option EFault :=
  let d := parsePack bs
  if !packReserved bs unpack then some (k.badCmd e 1)
  else if d.rows = 0 || d.cols = 0 || 16 < d.grid.1 * d.grid.2 || 9 < d.mtype then some (k.badCmd e 2)
  else if fieldNat bs 0x18 4 % 128 != 0 || d.dstrk % 128 != 0 || d.dstrr % 128 != 0 then some (k.badCmd e 3)
  else if unpack && d.mtype == 7 then some (k.badCmd e 4)
  else d.blocks.findSome? fun b => pastEnd (d.blockAt b) (128 * (p + 1))
where
  /-- A block leaves the scratchpad: TINFO from the first byte outside. -/
  pastEnd (off n : Nat) : Option EFault :=
    if 2 ^ 22 < off + n then some ⟨0x05, 0, infoOf (localVa (max off (2 ^ 22) : Nat))⟩ else none

/-- A dense row segment (R227): the dense row, its first column, its elements. -/
structure Seg where
  row : Nat
  col : Nat
  n : Nat
  deriving DecidableEq, Repr

/-- The dense row segments of a block: one for each row, or with TRANS for each column of it. -/
def PackDesc.segs (d : PackDesc) (b : Nat × Nat) : List Seg :=
  let nr := min 32 (d.rows - 32 * b.1)
  let nk := min 32 (d.cols - 32 * b.2)
  if d.trans then (List.range nk).map fun k => { row := 32 * b.2 + k, col := 32 * b.1, n := nr }
  else (List.range nr).map fun r => { row := 32 * b.1 + r, col := 32 * b.2, n := nk }

/-- The run of a dense row segment, at a position. -/
def PackDesc.segRun (d : PackDesc) (need : Perm) (g : Seg) (pos : Nat) : Run :=
  { start := d.mat + BitVec.ofNat 80 (g.row * d.pitch + g.col * d.bits / 8), off := 0, n := ceilDiv (g.n * d.bits) 8, pos := pos,
    fab := d.mfab, need := need }

/-- The run of a segment's scale byte. -/
def PackDesc.sclRun (d : PackDesc) (g : Seg) (pos : Nat) : Run :=
  { start := d.scl + BitVec.ofNat 80 (g.row * d.sclPitch + g.col / 32), off := 0, n := 1, pos := pos, fab := d.sfab, need := 1 }

/-- Every dense row segment with a position: block by block. DESIGN CHOICE (notes/assumptions/101.md): the spec gives no transfer positions
of segments; segment g of block b stands at 4096 x b + 128 x g, its scale byte 64 behind. -/
def PackDesc.allSegs (d : PackDesc) : List ((Nat × Nat) × Seg × Nat) :=
  (d.blocks.zipIdx.map fun b => (d.segs b.1).zipIdx.map fun g => (b.1, g.1, 4096 * b.2 + 128 * g.2)).flatten

/-- Element i of packed bytes. -/
def packedAt (bits : Nat) (bs : List Byte) (i : Nat) : Nat :=
  if bits < 8 then bitsOf (fieldNat bs (i * bits / 8) 1) (i * bits % 8) bits else fieldNat bs (i * (bits / 8)) (bits / 8)

/-- The value of a dense element (R228). -/
def PackDesc.value (d : PackDesc) (x scale : Nat) : Num :=
  match d.mtype with
  | 0 => fmtFp32.decode x
  | 1 => fmtBf16.decode x
  | 2 => fmtFp16.decode x
  | 6 => .ofInt x
  | 7 => mxValue d.mx x scale
  | _ => .ofInt (sextInt d.bits x)

/-- The values of a block (R228): rows of 32, zero in the padding, from the values of its segments. -/
def PackDesc.blockValues (d : PackDesc) (vals : List (List Num)) : List (List Num) :=
  (List.range 32).map fun m => (List.range 32).map fun k =>
    if d.trans then (vals.getD k []).getD m (.ofInt 0) else (vals.getD m []).getD k (.ofInt 0)

/-- The bytes of a planar block of precision p (R82, R97). -/
def planarBlock (p : Nat) (rows : List (List Num)) : List Byte :=
  let rs := rows.map fun vs => planarRow p vs false
  planeBytes p (rs.map (·.2)) ++ (rs.map fun r => BitVec.ofNat 8 r.1) ++ List.replicate 96 0

/-- The blocks of CPACK from the bytes of the segments, and of their scales (R228). -/
def PackDesc.packAll (d : PackDesc) (p : Nat) (bytes : List (List Byte)) : List (List Byte) :=
  let segs := d.allSegs
  let scales := bytes.drop segs.length
  let vals := segs.zipIdx.map fun g =>
    let bs := bytes.getD g.2 []
    let scale := if d.mtype = 7 then leNat (scales.getD g.2 []) else 0
    (g.1.1, (List.range g.1.2.1.n).map fun i => d.value (packedAt d.bits bs i) scale)
  d.blocks.map fun b => planarBlock p (d.blockValues ((vals.filter fun v => v.1 == b).map (·.2)))

/-- The run of a block in the local window. -/
def PackDesc.blockRun (d : PackDesc) (need : Perm) (p : Nat) (b : (Nat × Nat) × Nat) : Run :=
  { start := localVa (d.blockAt b.1), off := 0, n := 128 * (p + 1), pos := 4096 * b.2, fab := false, need := need }

/-- Busy cycles of CPACK and CUNPACK (R233). -/
def PackDesc.busy (d : PackDesc) (p : Nat) : Nat := 8 + d.blocks.length * (2 * (p + 1) + ceilDiv (1024 * d.bits) 512)

/-- CPACK (R227, R228). -/
def execCpack (_y : Sync) (off : BitVec 22) (p : Fin 16) (s : State) : Host.Outcome State Fault Refusal :=
  let e := s.copyEng
  let prec := p.val + 1
  .next (s.withDesc s.core e off fun bs =>
    match s.cur.packFault e bs false prec with
    | some f => s.failCmd s.core e f
    | none =>
      let d := parsePack bs
      let srcs := (d.allSegs.map fun g => d.segRun 1 g.2.1 g.2.2)
        ++ (if d.mtype = 7 then d.allSegs.map fun g => d.sclRun g.2.1 (g.2.2 + 64) else [])
      finishMove s.core e bs true (d.busy prec) (runBytes srcs)
        (s.move s.core e { srcs := srcs, dsts := d.blocks.zipIdx.map (d.blockRun 2 prec), make := d.packAll prec, plain := false,
                           red := none, base := 0, overlap := none }))

/-- The dense pattern of a planar element (R98): m and the scale of its row. -/
def PackDesc.pattern (d : PackDesc) (p : Nat) (m : Int) (x : Nat) : Nat :=
  let fp (f : Fmt) : Nat :=
    if x = 0xFF then f.encode .rne .nan else f.encode .rne ((Num.ofInt m).scale ((x : Int) - 127 - ((p : Int) - 2)))
  let int (lo hi : Int) : Nat := if x = 0xFF then 0 else wrapNat d.bits (clampInt lo hi m)
  match d.mtype with
  | 0 => fp fmtFp32
  | 1 => fp fmtBf16
  | 2 => fp fmtFp16
  | 6 => int 0 255
  | _ => int (minInt d.bits) (maxInt d.bits)

/-- Element (m, k) of a planar block of precision p (R96), with the scale of its row. -/
def planarAt (p : Nat) (bs : List Byte) (m k : Nat) : Int × Nat :=
  let v := (List.range p).foldl (fun a i => if (fieldNat bs (128 * i + 4 * m) 4).testBit k then a + 2 ^ i else a) 0
  (sextInt p v, fieldNat bs (128 * p + m) 1)

/-- Patterns packed into bytes, over the bytes that are there for a last byte only partly covered (R229). -/
def packPatterns (bits : Nat) (xs : List Nat) (old : Nat) : List Byte :=
  if bits < 8 then
    let n := xs.length * bits
    let v := (xs.zipIdx.map fun x => x.1 * 2 ^ (bits * x.2)).sum
    let keep := if n % 8 = 0 then 0 else old / 2 ^ (n % 8) * 2 ^ n
    leBytes (ceilDiv n 8) (v + keep)
  else (xs.map fun x => leBytes (bits / 8) x).flatten

/-- The byte that a segment covers only in part (R229). -/
def PackDesc.partial_ (d : PackDesc) (g : Seg) (pos : Nat) : Option Run :=
  if g.n * d.bits % 8 = 0 then none
  else some { d.segRun 2 g pos with off := g.n * d.bits / 8, n := 1, pos := pos + g.n * d.bits / 8 }

/-- The byte that an address holds after writes, the newest first. -/
def newestByte (l : List (Nat × List Byte)) (a : Nat) : Option Byte :=
  l.findSome? fun x => if x.1 ≤ a then x.2[a - x.1]? else none

/-- The bytes of one segment of CUNPACK: those of its block, and what the byte that it covers in part holds. -/
def PackDesc.unpackSeg (d : PackDesc) (p : Nat) (bs : List Byte) (g : Seg) (old : Nat) : List Byte :=
  packPatterns d.bits ((List.range g.n).map fun i =>
    let (r, k) := if d.trans then (g.col + i, g.row) else (g.row, g.col + i)
    let e := planarAt p bs (r % 32) (k % 32)
    d.pattern p e.1 e.2) old

/-- The bytes of CUNPACK's segments from those of the blocks, then of the bytes covered in part (R229): such a byte keeps the bits that
an earlier segment of the command has written. -/
def PackDesc.unpackAll (d : PackDesc) (p : Nat) (bytes : List (List Byte)) : List (List Byte) :=
  let nb := d.blocks.length
  let cut := d.allSegs.filter fun g => (d.partial_ g.2.1 g.2.2).isSome
  (d.allSegs.foldl (fun (acc : List (List Byte) × List (Nat × List Byte)) g =>
    let old := match d.partial_ g.2.1 g.2.2 with
      | some r => match newestByte acc.2 r.va.toNat with
        | some b => b.toNat
        | none => leNat (bytes.getD (nb + cut.idxOf g) [])
      | none => 0
    let out := d.unpackSeg p (bytes.getD (d.blocks.idxOf g.1) []) g.2.1 old
    (acc.1 ++ [out], ((d.segRun 2 g.2.1 g.2.2).va.toNat, out) :: acc.2)) ([], [])).1

/-- CUNPACK (R227, R229). -/
def execCunpack (_y : Sync) (off : BitVec 22) (p : Fin 16) (s : State) : Host.Outcome State Fault Refusal :=
  let e := s.copyEng
  let prec := p.val + 1
  .next (s.withDesc s.core e off fun bs =>
    match s.cur.packFault e bs true prec with
    | some f => s.failCmd s.core e f
    | none =>
      let d := parsePack bs
      let dsts := d.allSegs.map fun g => d.segRun 2 g.2.1 g.2.2
      let srcs := d.blocks.zipIdx.map (d.blockRun 1 prec) ++ d.allSegs.filterMap fun g => d.partial_ g.2.1 g.2.2
      finishMove s.core e bs (inLocal d.mat) (d.busy prec) (runBytes dsts)
        (s.move s.core e { srcs := srcs, dsts := dsts, make := d.unpackAll prec, plain := false, red := none, base := 0,
                           overlap := none }))

/-! ## Chains -/

/-- CJUMP (R230, R232). -/
def execCjump (_y : Sync) (off : BitVec 22) (s : State) : Host.Outcome State Fault Refusal :=
  let e := s.copyEng
  .next (s.withDesc s.core e off fun bs =>
    let ca := BitVec.ofNat 80 (fieldNat bs 0 10)
    let ring := (fieldNat bs 10 1).testBit 0
    if 2 ≤ fieldNat bs 10 1 || !zeroBytes bs 11 53 then s.failCmd s.core e (s.cur.badCmd e 1)
    else if ca.toNat % 8 != 0 then s.failCmd s.core e (s.cur.badCmd e 3)
    else
      let t := s.modCur fun k => k.modEng e fun x => { x with chainPc := if ring then none else some ca }
      (if ring then t else t.irreversible s.core).workDone s.core e 2 2 0 1)

/-- A chain fetch (R231): the word at the chain's program counter becomes the head; in memory it charges 8 to BUDT. -/
def State.fetchChain (s : State) (c : CoreId) (e : Eng) (pc : A80) : State :=
  let r : Run := { start := pc, off := 0, n := 8, pos := 0, fab := false, need := 1 }
  let (ps, f) := s.checkRuns c false true [r]
  match f with
  | some x => s.faultHead c e x.2.code x.2.qual x.2.info
  | none =>
    let word := BitVec.ofNat 64 (leNat ((ps.flatten.map s.partBytes).flatten))
    let memory := !(inLocal pc || inCluster pc)
    ((s.modCore c fun k => k.modEng e fun t => { t with head := some { word := word, chain := some pc }, chainPc := some (pc + 8) }
      ).charge c 0 (if memory then 8 else 0)).checkHead c e

/-- CHAIN_FETCH (R231). -/
def execChainFetch (s : State) : Host.Outcome State Fault Refusal :=
  let e := s.copyEng
  let t := s.cur.eng e
  .next (match t.phase, t.head, t.chainPc with
    | .idle, none, some pc => if s.cur.unit.isSome && s.cur.stop.isNone then s.fetchChain s.core e pc else s
    | _, _, _ => s)

end Sys2Proof.Machine
end

