-- ==== Sys2Proof/Machine/Banks.lean ====
section
/-! DEFINITION. The scratchpad's banks (spec/03_core_state.md R81): what the requesters of a scratchpad reach, and a bank that
refuses an engine. -/

namespace Sys2Proof.Machine

open Sys2Proof

/-- Bytes of a scratchpad that a command reaches: an offset and a length. -/
abbrev Span := Nat × Nat

/-- The banks of a span, at most all 32 (R81). -/
def spanBanks (x : Span) : List Nat :=
  if x.2 = 0 then []
  else (List.range (min 32 ((x.1 + x.2 - 1) / 64 - x.1 / 64 + 1))).map fun i => (x.1 / 64 + i) % 32

/-- Two spans share a bank. -/
def shareBank (x y : Span) : Bool := (spanBanks x).any (spanBanks y).contains

/-- The spans of what Serir's started command accesses next: a pass of VLD or VST, a step of VGATH or VSCAT. -/
def Core.serirSpans (k : Core) : List Span :=
  match k.vEng.phase, k.vEng.head with
  | .running p, some h =>
    let done := match p with | .elems n => n | _ => 0
    let line (d : Opd) (off : BitVec 22) : List Span :=
      let n := k.ldBytes d / 4
      [(off.toNat + 4 * done, 4 * (min n (done + 512) - done))]
    let step (t : VType) (m : Bool) (d i : Opd) (z : Fin 16) : List Span :=
      let n := k.countOf d (8 * VType.size t)
      (k.gatherAddrs t m i z done (min n (done + 2048 / VType.size t))).map fun a => (a.2.toNat, VType.size t)
    match decodeCmd .v h.word.toNat with
    | .ok (.vld _ _ d off) => line d off
    | .ok (.vst _ _ d off) => line d off
    | .ok (.vgath _ t m d i z) => step t m d i z
    | .ok (.vscat _ t m d i z) => step t m d i z
    | _ => []
  | _, _ => []

/-- The spans of what Erg's started command accesses next. -/
def Core.ergSpans (k : Core) : List Span :=
  match k.mEng.phase, k.mEng.head with
  | .running p, some h =>
    match decodeCmd .m h.word.toNat with
    | .ok (.mlda _ off _ count) => [(off.toNat, blockSize k.declared.1 * (count.val + 1))]
    | .ok (.mstep _ off _ _) => [(off.toNat, blockSize k.declared.2)]
    | .ok (.mnest _ off) => [(off.toNat, 256)]
    | .ok (.mdelta _ _ _ _ off) => [(off.toNat, 64)]
    | .ok (.mgo _) =>
      match p, k.erg.active.get with
      | .nest idx _ false, some bs =>
        let n := parseNest bs
        let a := n.at_ n.abase (·.astr) idx
        [((n.at_ n.bbase (·.bstr) idx).toNat, blockSize k.declared.2)]
          ++ (if k.erg.nestA != some (BitVec.ofNat 22 a.toNat) then [(a.toNat, blockSize k.declared.1 * n.na)] else [])
      | _, _ => []
    | _ => []
  | _, _ => []

/-- The spans of runs in the scratchpad of core o. -/
def State.runSpans (s : State) (c o : CoreId) (rs : List Run) : List Span :=
  (rs.flatMap fun r => (s.runParts c r).1).filterMap fun p => if p.place = .spad o then some (p.addr, p.len) else none

/-- The spans in the scratchpad of core o of what copy stream e of core c accesses next. -/
def State.copySpans (s : State) (c o : CoreId) (e : Eng) : List Span :=
  let k := s.coreAt c
  match (k.eng e).phase, (k.eng e).head with
  | .running p, some h =>
    let desc (off : BitVec 22) : List Span := if c = o then [(off.toNat, 64)] else []
    let whole (off : BitVec 22) (kind : CopyKind) : List Span :=
      let d := parseCopy (getBytes k.spad off.toNat 64) kind
      desc off ++ s.runSpans c o (d.srcRuns 0 d.size ++ d.dstRuns 0 d.size)
    let pack (off : BitVec 22) (prec : Nat) : List Span :=
      let d := parsePack (getBytes k.spad off.toNat 64)
      desc off ++ (if c = o then d.blocks.map fun b => (d.blockAt b, 128 * (prec + 1)) else [])
        ++ s.runSpans c o (d.allSegs.map fun g => d.segRun 1 g.2.1 g.2.2)
    match decodeCmd e h.word.toNat with
    | .ok (.ccopy _ off) => whole off .copy
    | .ok (.cred _ off op ty) => whole off (.reduce op ty)
    | .ok (.cfill _ off) => whole off (.fill [])
    | .ok (.cpref _ off) => desc off
    | .ok (.cflush _ off) => desc off
    | .ok (.cjump _ off) => desc off
    | .ok (.cnest _ off) => if c = o then [(off.toNat, 256)] else []
    | .ok (.cpack _ off n) => pack off (n.val + 1)
    | .ok (.cunpack _ off n) => pack off (n.val + 1)
    | .ok (.cgo _ off) =>
      match p, k.nestRun e with
      | .nest idx chunk false, some bs =>
        (match k.templateKept e off bs with
         | .ok (d, _) =>
           let x := d.at_ (copyLevels bs) idx
           let hi := min d.size (4096 * chunk + 4096)
           s.runSpans c o (x.srcRuns (4096 * chunk) hi ++ x.dstRuns (4096 * chunk) hi)
         | .error _ => [])
      | _, _ => desc off
    | _ => []
  | _, _ => []

/-- The spans of the command words that the streams of a core fetch from its scratchpad next: ring slots, chain words. -/
def Core.fetchSpans (k : Core) : List Span :=
  engines.flatMap fun e =>
    if (k.eng e).head.isSome then []
    else match (k.eng e).chainPc, (k.eng e).ring with
      | some pc, _ => if inLocal pc then [(pc.toNat % 2 ^ 22, 8)] else []
      | none, some r => if r.used = 0 then [] else [(r.base.toNat + 8 * r.rslot, 8)]
      | none, none => []

/-- The spans of the local-window accesses that the sequencers of a core have under way, on the port of fetches (R124). -/
def Core.localSpans (k : Core) : List Span :=
  (k.a.out ++ k.x.out).flatMap fun x => x.pieces.filterMap fun p => if p.space = .spad then some (p.addr, p.len) else none

/-- The spans that other requesters of the scratchpad of core c reach: fetches, accesses of the sequencers, the copy streams of the cluster, and the other of
Erg and Serir, which a refusal of 8 cycles can put first (R81). -/
def State.rivals (s : State) (c : CoreId) (e : Eng) : List Span :=
  let k := s.coreAt c
  k.fetchSpans ++ k.localSpans ++ ((islandCores (islandOf c)).flatMap fun o => s.copySpans o c .c0 ++ s.copySpans o c .c1)
    ++ (if e = .v then k.ergSpans else k.serirSpans)

/-- The spans of two operands of one command share a bank. -/
def selfRefused : List Span → Bool
  | [] => false
  | x :: r => r.any (shareBank x) || selfRefused r

/-- A bank can refuse engine e of core c in this cycle (R81): another requester reaches a bank that it needs, or Erg needs more than
one chunk of one. Serir's own conflicts are those of its gathers, which count at their step (R174). -/
def State.canRefuse (s : State) (c : CoreId) (e : Eng) : Bool :=
  let mine := match e with
    | .v => (s.coreAt c).serirSpans
    | .m => (s.coreAt c).ergSpans
    | _ => []
  mine.any (fun x => (s.rivals c e).any (shareBank x)) || (e = .m && selfRefused mine)

/-- Serir's and Erg's writes so far stand in their core, for the engine itself sees them (R213, R237). -/
def State.ownWrites (s : State) : State :=
  match s.stream with
  | .eng e => (match (s.cur.eng e).late with | [] => s | _ => s.modCur fun k => k.flushLate e fun _ => true)
  | _ => s

/-- The engine that exec acts for leaves its writes to be performed later, or not (R242). -/
def State.lagging (s : State) (c : CoreId) (e : Eng) (b : Bool) : State := s.modCore c fun k => k.modEng e fun t => { t with lag := b }

/-- After a step of Serir or Erg that released nothing, other streams still see what its core c held before (R184, R242). -/
def State.leaveLate (s s' : State) (c : CoreId) (e : Eng) : State :=
  if ((s'.coreAt c).eng e).late = [] && nothingReleased (s.coreAt c) (s'.coreAt c) e && s.island (islandOf c) == s'.island (islandOf c) && (e == .m || e == .v) then
    let l := lateBytes (s.coreAt c) (s'.coreAt c)
    s'.modCore c fun k => (l.foldl (Core.takeBack (s.coreAt c)) k).modEng e fun t => { t with late := l }
  else s'

/-- One octet of an engine's late writes is performed (R184, R242): the octet of the i-th of them. -/
def State.performOctet (s : State) (c : CoreId) (e : Eng) (i : Nat) : State :=
  let t := (s.coreAt c).eng e
  match t.late[i]?, t.todo[i]? with
  | some b, _ => s.modCore c fun k => k.flushLate e fun x => x.near == b.near && x.addr / 8 == b.addr / 8
  | none, some o => s.performTodo c e fun x => x == o
  | none, none => s

/-- A scratchpad bank refuses an engine that holds a started command, for n of its cycles (R81): STALLV or STALLM rises, and for
that time the watchdog does not count (R321). -/
def State.bankRefusal (s : State) (c : CoreId) (e : Eng) (n : Nat) : State :=
  let up (v : BitVec 48) : BitVec 48 := BitVec.ofNat 48 (min (2 ^ 48 - 1) (v.toNat + n))
  if s.canRefuse c e then
    s.modCore c fun k =>
      let k1 := { k with refused := k.refused + n * (k.eng e).clock }
      match e with
      | .v => { k1 with sys := { k1.sys with stallv := up k1.sys.stallv } }
      | _ => { k1 with sys := { k1.sys with stallm := up k1.sys.stallm } }
  else s

end Sys2Proof.Machine
end

