-- ==== Sys2Proof/Machine/Address.lean ====
section
/-! DEFINITION. Address-register instructions (spec/05_sequencers.md R122). -/

namespace Sys2Proof.Machine

open Sys2Proof

/-- The bits that ASETH takes, at their place (R122). -/
def asethOf (g : W64) : A80 := ((g.extractLsb' 0 16).zeroExtend 80) <<< 64

/-- AADD (R122). -/
def execAadd (d a : AReg) (b : GReg) (s : State) : Host.Outcome State Fault Refusal :=
  .next (s.finishRes ((s.cur.readA s.seqId a).bind fun x => (s.cur.readG s.seqId b).bind fun y =>
    y.2.writeA s.seqId d (x + y.1.signExtend 80)))

/-- AMOV (R122). -/
def execAmov (d a : AReg) (s : State) : Host.Outcome State Fault Refusal :=
  .next (s.finishRes ((s.cur.readA s.seqId a).bind fun x => s.cur.writeA s.seqId d x))

/-- AGET (R122). -/
def execAget (d : GReg) (a : AReg) (s : State) : Host.Outcome State Fault Refusal :=
  .next (s.finishRes ((s.cur.readA s.seqId a).bind fun x => s.cur.writeG s.seqId d (x.extractLsb' 0 64)))

/-- ASETH (R122). -/
def execAseth (d : AReg) (a : GReg) (s : State) : Host.Outcome State Fault Refusal :=
  .next (s.finishRes ((s.cur.readG s.seqId a).bind fun x => x.2.writeA s.seqId d (asethOf x.1)))

/-- AADDI (R122). -/
def execAaddi (d a : AReg) (i : BitVec 16) (s : State) : Host.Outcome State Fault Refusal :=
  .next (s.finishRes ((s.cur.readA s.seqId a).bind fun x => s.cur.writeA s.seqId d (x + i.signExtend 80)))

end Sys2Proof.Machine
end

