-- ==== Sys2Proof/Machine/Unit.lean ====
section
/-! DEFINITION. Work units on a core (spec/10_work_unit.md R246-R248, R255, R258-R263, R267): start, resumption, hard
pre-emption, the drain and the yield at a continuation point, the end; the ungating of an island (spec/14_cluster.md R279,
R283); the stop of spec/01_stream.md R25. -/

namespace Sys2Proof.Machine

open Sys2Proof

/-! ## Hard pre-emption -/

/-- The KIND of a hard pre-emption (R263). -/
def hardKind (r : BitVec 7) : Nat :=
  if hasReason r reasonRevoke then 4
  else if hasReason r reasonPark then 5
  else if hasReason r (reasonStop ||| reasonTenant) then 3
  else if hasReason r reasonBudget then 2
  else 3

/-- Hard pre-emption of one unit, for a cause of its own, 0 for none (R263, R36): its cut is taken at once, or when nothing
holds it back. -/
def State.preemptOne (cause : BitVec 8) (s : State) (c : CoreId) : State :=
  match s.resident c with
  | some u => (s.requestStopFor c (hardKind u.reasons) .save cause).tryCut c
  | none => s

/-- The other cores that are stopped with core c: a launch with PERSIST set is stopped and saved as a whole (R267). -/
def State.mates (s : State) (c : CoreId) : List CoreId :=
  match s.resident c with
  | some u => match s.launch u.launch with
    | some l => if l.task.persist then (s.holding fun v => v.launch == l.id).filter (· != c) else []
    | none => []
  | none => []

/-- Hard pre-emption of the unit on core c for a cause, and of the units that are stopped with it. -/
def State.hardPreemptFor (s : State) (c : CoreId) (cause : BitVec 8) : State :=
  (s.mates c).foldl (State.preemptOne 0) (s.preemptOne cause c)

/-- Hard pre-emption of the unit on core c (R263, R267). -/
def State.hardPreempt (s : State) (c : CoreId) : State := s.hardPreemptFor c 0

/-- Units on some cores are stopped with a KIND, for a cause (R281): the rest of a launch with PERSIST set is hard pre-empted
with them. -/
def State.stopTogether (s : State) (cs : List CoreId) (kind : Nat) (cause : BitVec 8) : State :=
  let others := ((cs.map s.mates).flatten.eraseDups).filter fun c => !cs.contains c
  others.foldl (State.preemptOne 0) (cs.foldl (fun t c => t.requestStopFor c kind .save cause) s)

/-! ## The island -/

/-- The physical address of the bank record of an island (R279): the area of its partition, by position. -/
def State.bankRecord (s : State) (i : IslandId) : Option Nat :=
  s.partitions.findSome? fun p =>
    if p.2.islands.getLsbD i.val then some (p.2.bankArea + 64 * popNat p.2.islands.toNat i.val) else none

/-- The bank counts of a record (R279). -/
def bankOf (bs : List Byte) : Vector (BitVec 16) 16 := Vector.ofFn fun n => BitVec.ofNat 16 (fieldNat bs (2 * n.val) 2)

/-- The bank that an island takes when it is ungated (R279): free where its record is uncorrectable
(notes/assumptions/12.md). -/
def State.restoredBank (s : State) (i : IslandId) : Vector (BitVec 16) 16 :=
  match s.bankRecord i, (s.island i).record with
  | some a, true =>
    if (s.firstUnc a 32).isSome then Vector.ofFn fun n => (Config.freeWord (s.fresh + n.val)).extractLsb' 0 16
    else bankOf (s.physRead a 32)
  | _, _ => Vector.replicate 16 0

/-- The cores of an island after its power has been off. -/
def State.wipeCores (s : State) (i : IslandId) : State :=
  (islandCores i).foldl (fun t c => t.modCore c fun k => { Core.reset with periodBytes := k.periodBytes }) s

/-- Ungate an island (R279): level 0, the bank from its record, nothing else kept. -/
def State.ungate (s : State) (i : IslandId) : State :=
  if (s.island i).state = .gated then
    let bank := s.restoredBank i
    let t := { s with fresh := s.fresh + 16 }
    (t.wipeCores i).modIsland i fun x => { x with state := .on, level := 0, target := 0, bank := bank, waits := [] }
  else s

/-- An island receives a unit of context x (R283): ungated where it must be, its bank zeroed when the context changes. -/
def State.receive (s : State) (i : IslandId) (x : Nat) : State :=
  (s.ungate i).modIsland i fun y =>
    if y.last = some x ∨ y.last = none then { y with last := some x }
    else { y with last := some x, bank := Vector.replicate 16 0 }

/-! ## The state at unit start -/

/-- A load-list entry applied as RINGSET or VVIEW would (R246). -/
def Core.applyLoad (k : Core) : LoadEntry → Core
  | .ring e base log => k.modEng e fun t =>
      { t with ring := some { base := base, log := log, wslot := 0, rslot := 0, used := 0 } }
  | .view w v => { k with serir := { k.serir with views := k.serir.views.set w v } }

/-- The URS rows of pinned tiles that are present (R79). -/
def Core.pinnedRows (k : Core) : List Nat :=
  ((List.finRange 32).filter fun n => k.tiles[n].pinned && k.tiles[n].present).map (·.val)

/-- Byte b of the URS lies in one of the tiles. -/
def inTiles (ts : List Nat) (b : Nat) : Bool := ts.any fun n => decide (tileBase n ≤ b) && decide (b < tileBase n + 8192)

/-- The valid bits of the rows of tiles. -/
def tileRows (ts : List Nat) : BitVec 1536 := ts.foldl (fun v n => setValid v (512 + 32 * n) 32) 0

/-- The system registers of a unit at its start (R74). -/
def State.unitSys (s : State) (l : Launch) (num : Nat) : Sys :=
  let depth := match s.ctx l.ctx with | some c => c.depth.val | none => 0
  { Sys.reset with budi := l.task.ibudi, budt := l.task.ibudt, budg := l.task.ibudg, ctxid := BitVec.ofNat 16 (depth * 4096 + l.ctx),
                   level := l.level, unit := BitVec.ofNat 32 num, launch := BitVec.ofNat 64 l.id }

/-- A core as a unit of a launch finds it before its input data (R248), the tiles allocated; entry points as word indices. -/
def Core.startState (k : Core) (m : Image) (y : Sys) (pcs : Nat × Nat) : Core :=
  let kept := k.pinnedRows
  let k1 := { Core.reset with
    a := { Seq.reset with pc := BitVec.ofNat 17 (4 * pcs.1) }, x := { Seq.reset with pc := BitVec.ofNat 17 (4 * pcs.2) },
    sys := y, code := m.code, urs := k.urs.filter fun c => inTiles kept c.1, ursBad := k.ursBad.filter (inTiles kept),
    valid := k.valid &&& tileRows kept, sems := m.init, tiles := k.tiles, periodBytes := k.periodBytes }
  m.loads.foldl Core.applyLoad k1

/-- Initial data of one item (R79, R248). -/
def Core.putItem (k : Core) (kind first : Nat) (n : Nat) (data : Cells) : Core :=
  if kind = 3 then
    { k with urs := putCells k.urs (256 * first) n data, ursBad := clearBad k.ursBad (256 * first) n,
             valid := setValid k.valid first (n / 256) }
  else { k with spad := putCells k.spad first n data, spadBad := clearBad k.spadBad first n }

/-- The input items of continuation number 0 (R248). -/
def Core.inputData (k : Core) (m : Image) : Core := m.input.foldl (fun k i => k.putItem i.1 i.2.1 i.2.2.1 i.2.2.2) k

/-- The resident unit (R248, R257). -/
def newResident (l : Launch) (num : Nat) (m : Image) (e : OpEntry) (variant : Fin 3) : Resident :=
  { launch := l.id, unit := num, ctx := l.ctx, variant := variant, tiles := m.tiles, wmask := m.wmask, smask := m.smask,
    reasons := 0, draining := false, caps := e.caps, pvar := l.task.pvar, fdiv := e.fdiv, vlevel := e.vlevel, iused := 0,
    tused := 0, resident := 0 }

/-- The launch of a unit that starts or resumes on core c (R249, R317). -/
def Launch.noteStart (l : Launch) (c : CoreId) (num : Nat) (variant : Fin 3) (e : OpEntry) (now : W64) (cycle : Nat) :
    Launch :=
  let lo := if l.level.val < l.gmin.val then l.level else l.gmin
  let hi := if l.gmax.val < l.level.val then l.level else l.gmax
  { l with units := if l.units.any fun r => r.num == num then
                      l.units.map fun r => if r.num = num then { r with state := .running c } else r
                    else l.units ++ [{ num := num, state := .running c }],
           ran := l.ran ||| (1#8 <<< variant.val), gmin := lo, gmax := hi,
           start := if l.task.gang then l.task.startTick else if l.units = [] then now else l.start,
           startCycle := if l.units = [] then cycle else l.startCycle,
           cores := if l.cores = 0 then e.cores else l.cores,
           shares := l.shares.map fun p => if p.1 = dieOf c then (p.1, .running) else p }

/-- WC returns to 0 at a placement (R321). -/
def State.clearWc (s : State) (d : DieId) (x : Nat) : State :=
  s.modDie d fun y => { y with queues := y.queues.map fun q => if q.ctx = x then { q with wc := 0 } else q }

/-- A core is bound to a unit: the launch and the task queue follow, the reservation ends, the island aims at its level. -/
def State.bind (s : State) (c : CoreId) (l : Launch) (num : Nat) (r : Resident) (e : OpEntry) : State :=
  let t := (s.modCore c fun k => { k with unit := some r }).modLaunch l.id fun x => x.noteStart c num r.variant e s.tick s.cycle
  (((t.clearWc (dieOf c) l.ctx).modDie (dieOf c) fun y => { y with reserved := y.reserved.filter fun p => p.1 != c.val }).retarget
    (islandOf c)).noteCaps c

/-- Take the phase checkpoint of unit start and of a resumption after a yield (R381). -/
def Core.firstCheckpoint (k : Core) : Core := { k with check := some (k.checkpoint []) }

/-- The word indices at which a variant starts. -/
def Image.entry (m : Image) (v : Fin 3) : Nat × Nat := m.entries.getD v.val (0, 0)

/-- Start unit num of a launch on core c (R248). -/
def State.startUnit (s : State) (c : CoreId) (l : Launch) (num : Nat) (m : Image) (e : OpEntry) : State :=
  let s1 := (s.receive (islandOf c) l.ctx).allocateTiles c l.ctx
  let s2 := s1.modCore c fun k =>
    ((k.startState m (s1.unitSys l num) (m.entry e.variant)).inputData m).firstCheckpoint
  s2.bind c l num (newResident l num m e e.variant) e

/-! ## Continuation points -/

/-- A live set names item i of a kind (R68). -/
def ContEntry.names (e : ContEntry) (kind i : Nat) : Bool :=
  e.items.any fun x => x.kind == kind && decide (x.first ≤ i) && decide (i < x.first + x.count)

/-- The tiles of a live set. -/
def ContEntry.tiles (e : ContEntry) : List (Fin 32) := (List.finRange 32).filter fun n => e.names 5 n.val

/-- Tile n of core c at a yield that names it (R201): its saved entry, and whether its rows go with the live set. -/
def State.yieldTile (fallback : Bool) (c : CoreId) (p : State × List (Fin 32 × Tile × Bool)) (n : Fin 32) :
    State × List (Fin 32 × Tile × Bool) :=
  let s := p.1
  let t := { (s.coreAt c).tiles[n] with busy := false, filling := false }
  let gone := { t with present := false, dirty := false }
  if t.mustWrite then
    match s.evictSlot c n fallback (s.coreAt c).mEng.seqno with
    | .ok u => (u.modCore c fun k => k.modTile n fun _ => gone, p.2 ++ [(n, gone, false)])
    | .error _ => (s.modCore c fun k => k.modTile n fun _ => Tile.reset t.owner, p.2 ++ [(n, t, true)])
  else if t.pinned then (s.modCore c fun k => k.modTile n fun x => { x with present := false },
    p.2 ++ [(n, { t with present := false }, false)])
  else (s, p.2 ++ [(n, t, true)])

/-- The ranges of a yield save (R262, R264, R266). -/
def Core.yieldRanges (k : Core) (u : Resident) (n : BitVec 16) (e : ContEntry) (ts : List (Fin 32 × Tile × Bool)) :
    List (Nat × Nat × Cells) :=
  let small (off : Nat) (bs : List Byte) : Nat × Nat × Cells := (off, bs.length, cellsOf 0 bs)
  let items (kind off : Nat) (m : Cells) : List (Nat × Nat × Cells) :=
    let size := (itemSpan kind).2
    (e.items.filter fun i => i.kind == kind && i.count != 0).map fun i =>
      (off + size * i.first, size * i.count, takeCells m (size * i.first) (size * i.count))
  [small 0x0100 (k.unitHeader u true n.toNat), small 0x0200 (seqBlock k.a (e.names 1) (e.names 2) true),
   small 0x0600 (seqBlock k.x (e.names 1) (e.names 2) true),
   small 0x0C20 (k.sems.toList.map fun v => leBytes 2 v.toNat).flatten,
   small 0x1000 (k.serir.lanes.toList.map fun v => leBytes 8 v.toNat).flatten]
  ++ ts.map (fun t => small (0x6000 + 16 * t.1.val) t.2.1.pack)
  ++ (ts.filter (·.2.2)).map (fun t => (0x10000 + tileBase t.1.val, 8192, takeCells k.urs (tileBase t.1.val) 8192))
  ++ items 3 0x10000 k.urs ++ items 4 0x80000 k.spad

/-- Where a unit that yields goes: saved with the parts that the device keeps, or lost (R262, R263). -/
def State.yieldSave (s : State) (c : CoreId) (u : Resident) (n : BitVec 16) (e : ContEntry) : State :=
  let (s1, ts) := e.tiles.foldl (State.yieldTile (s.fastForm u) c) (s, [])
  let k := s1.coreAt c
  match s1.writeRanges u.ctx (s1.saveArea u) (k.yieldRanges u n e ts) with
  | .error (t, f) => t.loseUnit c f.1.cause
  | .ok t => t.leaveSaved c u (.saved true k.savePriv)

/-- What a resumption after a yield, or a switch in place, keeps of a unit (R262): the live registers, semaphores, lane
generators, divisors, sequence numbers. -/
structure Kept where
  a : Vector A80 16 × Vector W64 32
  x : Vector A80 16 × Vector W64 32
  sems : Vector (BitVec 16) 48
  lanes : Vector W64 64
  divs : Divs
  seqnos : List (BitVec 48)
  deriving DecidableEq, Repr

/-- A core at the resume words of a continuation point (R262): the state at unit start with the kept items, live URS and
scratchpad contents, tiles in place. -/
def Core.reenter (k : Core) (m : Image) (y : Sys) (pcs : Nat × Nat) (kp : Kept) (items : List (Nat × Nat × Nat × Cells))
    (ts : List (Nat × Cells)) : Core :=
  let k1 := k.startState m y pcs
  let sn (i : Nat) : BitVec 48 := kp.seqnos.getD i 0
  let k2 := { k1 with
    a := { k1.a with g := kp.a.2, a := kp.a.1, seqno := sn 0 }, x := { k1.x with g := kp.x.2, a := kp.x.1, seqno := sn 1 },
    sems := kp.sems, serir := { k1.serir with lanes := kp.lanes }, divReq := kp.divs,
    mEng := { k1.mEng with seqno := sn 2 }, vEng := { k1.vEng with seqno := sn 3 }, c0Eng := { k1.c0Eng with seqno := sn 4 },
    c1Eng := { k1.c1Eng with seqno := sn 5 } }
  let k3 := items.foldl (fun k i => k.putItem i.1 i.2.1 i.2.2.1 i.2.2.2) k2
  ts.foldl (fun k t => k.putItem 3 (512 + 32 * t.1) 8192 t.2) k3

/-- The resume words of a variant (R246). -/
def ContEntry.words (e : ContEntry) (v : Fin 3) : Nat × Nat := e.resume.getD v.val (0, 0)

/-- The live registers of a sequencer, zero in place of the rest (R266). -/
def liveRegs (q : Seq) (e : ContEntry) : Vector A80 16 × Vector W64 32 :=
  (Vector.ofFn fun i => if e.names 2 i.val then q.a[i] else 0, Vector.ofFn fun i => if e.names 1 i.val then q.g[i] else 0)

/-- Sequence numbers of the six streams. -/
def Core.seqnos (k : Core) : List (BitVec 48) := [k.a.seqno, k.x.seqno] ++ engines.map fun e => (k.eng e).seqno

/-- A switch in place at continuation entry e (R261, R262): nothing is saved; pinned tiles stay as at an allocation to the same
context, an unpinned tile that the live set does not name is lost (R201). -/
def State.switchInPlace (s : State) (c : CoreId) (u : Resident) (l : Launch) (m : Image) (op : OpEntry) (e : ContEntry) : State :=
  let s1 := s.modCore c fun k =>
    let keep (n : Fin 32) : Bool := k.tiles[n].pinned || e.names 5 n.val
    let held := ((List.finRange 32).filter fun n => e.names 5 n.val && !k.tiles[n].pinned).map fun n =>
      (n.val, takeCells k.urs (tileBase n.val) 8192)
    let live (kind : Nat) (b : Cells) : List (Nat × Nat × Nat × Cells) :=
      let size := (itemSpan kind).2
      (e.items.filter fun i => i.kind == kind && i.count != 0).map fun i =>
        (kind, i.first, size * i.count, takeCells b (size * i.first) (size * i.count))
    let y := { s.unitSys l u.unit with
      budi := k.sys.budi, budt := k.sys.budt, budg := k.sys.budg, seed := k.sys.seed, stallv := k.sys.stallv,
      stallm := k.sys.stallm, trapvEn := k.sys.trapvEn, trapvAddr := k.sys.trapvAddr, throt := k.sys.throt }
    let kp : Kept := { a := liveRegs k.a e, x := liveRegs k.x e, sems := k.sems, lanes := k.serir.lanes, divs := k.divReq,
                       seqnos := k.seqnos }
    let k1 := { k with tiles := Vector.ofFn fun n => if keep n then k.tiles[n] else Tile.reset (BitVec.ofNat 12 u.ctx) }
    { (k1.reenter m y (e.words op.variant) kp (live 3 k.urs ++ live 4 k.spad) held).firstCheckpoint with unit := k.unit }
  (s1.modCore c fun k => k.modUnit fun r =>
    { r with variant := op.variant, reasons := r.reasons &&& ~~~reasonVariant, draining := false }).modLaunch l.id
    fun x => { x with ran := x.ran ||| (1#8 <<< op.variant.val) }

/-- Act once on the reasons pending at the end of a drain (R261). -/
def State.actOnReasons (s : State) (c : CoreId) (u : Resident) (l : Launch) (n : BitVec 16) : State :=
  match s.launchImage l (dieOf c) with
  | .error f => s.loseUnit c f.2
  | .ok (m, es) =>
    match m.conts.find? fun e => e.num == n.toNat with
    | none => s.loseUnit c 0
    | some e =>
      if u.reasons = reasonVariant then
        match es[l.level.val]? with
        | some op => s.switchInPlace c u l m op e
        | none => s.contGo c
      else s.yieldSave c u n e

/-- Every entry enqueued has completed, and both copy streams are in ring mode (R248, R260). -/
def Core.drained (k : Core) : Bool :=
  k.ringsEmpty && engines.all fun e => (k.eng e).head.isNone && (k.eng e).phase == .idle && (k.eng e).chainPc.isNone

/-- The number of the CONT at which a unit stands. -/
def Core.contNumber (k : Core) : Option (BitVec 16) := k.a.cont.or k.x.cont

/-- The drain of the unit on core c ends (R261): its CONTs complete, and the reasons are acted on, one that their charge raised
among them. One whose grace is over is hard pre-empted (R255). -/
def State.drainComplete (s : State) (c : CoreId) : State :=
  let k := s.coreAt c
  match k.unit, k.contNumber with
  | some u, some n =>
    if u.draining && k.stop.isNone && k.drained && !k.remotePending then
      if k.graceOver then s.hardPreemptFor c 0x09
      else
        let s1 := (s.flushSeq c .a).flushSeq c .x
        let s2 := s1.contGo c
        match s2.launch u.launch, s2.resident c with
        | some l, some v => s2.actOnReasons c v l n
        | _, _ => s
    else s
  | _, _ => s

/-! ## Resumption -/

/-- Budgets are reset at this resumption (R261, R263). -/
def resetsBudgets (h : List Byte) : Bool := hasReason (BitVec.ofNat 7 (fieldNat h 3 1)) (reasonBudget ||| reasonVoluntary)

/-- Restore the system registers that a save keeps over those of the launch, with the budgets as R261 says. -/
def resumedSys (y : Sys) (h : List Byte) : Sys :=
  let z := restoreSys y h
  if resetsBudgets h then { z with budi := y.budi, budt := y.budt, budg := y.budg } else z

/-- The pending wait that a stop record lists for a sequencer (R29). -/
def recordWait (bs : List Byte) (i : Nat) : Option (Fin 64 × WMode) :=
  let w := (bs.drop (0xC0 + 8 * i)).take 8
  if (fieldNat w 2 1).testBit 0 then some (Fin.ofNat 64 (fieldNat w 0 1), wmodeOf (fieldNat w 1 1)) else none
where
  /-- A wait mode from its code (R14). -/
  wmodeOf (n : Nat) : WMode :=
    match n % 4 with
    | 0 => .none
    | 1 => .take
    | 2 => .peek
    | _ => .zero

/-- A sequencer that raised TRAP goes on behind it (R340). -/
def afterTrap (bs : List Byte) (i : Nat) (q : Seq) : Seq :=
  if fieldNat bs (0xF0 + i) 1 = 0x10 then { q with pc := q.pc + 4 } else q

/-- Install the saved ownership table on core c (R201): what the core holds goes as at an allocation to another context. -/
def State.installTiles (s : State) (c : CoreId) (x : Nat) (ts : List (Fin 32 × Tile)) : State :=
  ts.foldl (fun t p => (t.releaseTile c p.1 (BitVec.ofNat 12 x)).modCore c fun k => k.modTile p.1 fun _ => p.2) s

/-- A unit whose save cannot be used is lost (R263): its launch counts it and ends with status 0x04. -/
def State.loseSaved (s : State) (l : Launch) (num : Nat) (cause : BitVec 8) : State :=
  (s.modLaunch l.id fun x => (x.countFault cause).setUnit num .ended).markLaunch l.id 0x04

/-- The area of unit num of a launch (R245). -/
def Launch.area (l : Launch) (num : Nat) : A80 := l.task.savepool + BitVec.ofNat 80 (num * saveSize)

/-- Several ranges of a context's memory as cells numbered from base. -/
def State.readRanges (s : State) (ctx : Nat) (base : A80) : List (Nat × Nat) → Except AFault Cells
  | [] => .ok []
  | (o, n) :: r =>
    match s.readRange ctx (base + BitVec.ofNat 80 o) n with
    | .error f => .error f
    | .ok l => match s.readRanges ctx base r with
      | .error f => .error f
      | .ok m => .ok (putCells m o n l)

/-- The parts of a save area that a hard pre-emption gave contents (R264), without the tile region. -/
def hardParts : List (Nat × Nat) := [(0, 0x8200), (0x10000, 0x60000), (0x80000, 0x400000), (0x4C2000, 0x8200)]

/-- The parts of a save area that a yield at e wrote (R262, R264). -/
def yieldParts (e : ContEntry) : List (Nat × Nat) :=
  let items (kind off : Nat) : List (Nat × Nat) :=
    let size := (itemSpan kind).2
    (e.items.filter fun i => i.kind == kind && i.count != 0).map fun i => (off + size * i.first, size * i.count)
  [(0x100, 0x900), (0xC20, 96), (0x1000, 512), (0x6000, 512)] ++ items 3 0x10000 ++ items 4 0x80000
    ++ e.tiles.map fun n => (0x10000 + tileBase n.val, 8192)

/-- Resume a unit after a hard pre-emption, a park or another stop (R27, R263). -/
def State.resumeHard (s : State) (c : CoreId) (l : Launch) (num : Nat) (m : Image) (op : OpEntry) (pr : SavePriv) : State :=
  match s.devRead l.ctx (l.area num) 256 with
  | .error f => s.loseSaved l num f.1.cause
  | .ok rec =>
    if !stopRecordOk rec then s.loseSaved l num 0
    else match s.readRanges l.ctx (l.area num) hardParts with
      | .error f => s.loseSaved l num f.1.cause
      | .ok cells =>
        let h := getBytes cells 0x100 256
        if !headerRecordOk h || !saveCellsOk cells then s.loseSaved l num 0
        else
        let variant := Fin.ofNat 3 (fieldNat h 6 1 % 4)
        let s1 := (s.receive (islandOf c) l.ctx).installTiles c l.ctx
          ((List.finRange 32).zip (savedTiles cells))
        let s2 := s1.modCore c fun k =>
          let k1 := (k.startState m (resumedSys (s1.unitSys l num) h) (0, 0)).restoreHard cells pr
          let k2 := { k1 with
            a := afterTrap rec 0 k1.a, x := afterTrap rec 1 k1.x, divReq := savedDivs h,
            sys := { k1.sys with tcause := pr.tcause, tinfo := pr.tinfo, tpc := pr.tpc },
            seg := { k1.seg with irreversible := true, phases := 0 } }
          if k2.handled.isSome then
            { k2 with a := { k2.a with stall := match recordWait rec 0 with | some (n, w) => .sem n w | none => .none } }
          else k2
        let r := newResident l num m op variant
        let s3 := s2.bind c l num
          { r with reasons := if variant = op.variant then 0 else reasonVariant } op
        if (s3.coreAt c).handled.isSome then s3
        else s3.resumeStreams c (recordWait rec 0) (recordWait rec 1)

/-- A sequencer's live registers from its block (R266). -/
def savedRegs (bs : List Byte) (e : ContEntry) : Vector A80 16 × Vector W64 32 :=
  (Vector.ofFn fun i => if e.names 2 i.val then BitVec.ofNat 80 (fieldNat bs (0x100 + 16 * i.val) 10) else 0,
   Vector.ofFn fun i => if e.names 1 i.val && i.val != 0 then BitVec.ofNat 64 (fieldNat bs (8 * i.val) 8) else 0)

/-- Resume a unit after a yield (R262). -/
def State.resumeYield (s : State) (c : CoreId) (l : Launch) (num : Nat) (m : Image) (op : OpEntry) (pr : SavePriv) : State :=
  match s.devRead l.ctx (l.area num + 0x100) 256 with
  | .error f => s.loseSaved l num f.1.cause
  | .ok h =>
    match (m.conts.find? fun e => e.num == fieldNat h 4 2).filter fun _ => headerRecordOk h with
    | none => s.loseSaved l num 0
    | some e => match s.readRanges l.ctx (l.area num) (yieldParts e) with
    | .error f => s.loseSaved l num f.1.cause
    | .ok cells =>
      let named := e.tiles.map fun n => (n, Tile.unpack (getBytes cells (0x6000 + 16 * n.val) 16))
      let s1 := ((s.receive (islandOf c) l.ctx).allocateTiles c l.ctx).installTiles c l.ctx named
      let live (kind off : Nat) : List (Nat × Nat × Nat × Cells) :=
        let size := (itemSpan kind).2
        (e.items.filter fun i => i.kind == kind && i.count != 0).map fun i =>
          (kind, i.first, size * i.count, takeCells cells (off + size * i.first) (size * i.count))
      let rows := (named.filter fun t => t.2.present).map fun t => (t.1.val, takeCells cells (0x10000 + tileBase t.1.val) 8192)
      let kp : Kept :=
        { a := savedRegs (getBytes cells 0x200 1024) e, x := savedRegs (getBytes cells 0x600 1024) e,
          sems := Vector.ofFn fun i => BitVec.ofNat 16 (getNat cells (0xC20 + 2 * i.val) 2),
          lanes := Vector.ofFn fun i => BitVec.ofNat 64 (getNat cells (0x1000 + 8 * i.val) 8), divs := savedDivs h,
          seqnos := pr.seqnos }
      let s2 := s1.modCore c fun k =>
        (k.reenter m (resumedSys (s1.unitSys l num) h) (e.words op.variant) kp (live 3 0x10000 ++ live 4 0x80000)
          rows).firstCheckpoint
      s2.bind c l num (newResident l num m op op.variant) op

/-- Start or resume unit num of a launch on core c. -/
def State.putUnit (s : State) (c : CoreId) (l : Launch) (num : Nat) (m : Image) (op : OpEntry) : State :=
  match l.unitState num with
  | none => s.startUnit c l num m op
  | some (.saved true pr) => s.resumeYield c l num m op pr
  | some (.saved false pr) => s.resumeHard c l num m op pr
  | some _ => s

/-! ## The rows -/

/-- UNIT_STOP (R25): the cut is taken when nothing holds it back. -/
def execUnitStop (c : CoreId) (s : State) : Host.Outcome State Fault Refusal := .next (s.tryCut c)

/-- EVENT_WRITE_RETRY (R338): the held records are tried again. -/
def execEventWriteRetry (s : State) : Host.Outcome State Fault Refusal :=
  .next (((s.ctxs.map (·.num)).foldl State.flushRing s).flushHost)

/-- GRACE_EXPIRY (R255): BUDG has gone below 0 while a reason of the grace is pending; the unit raises 0x09 at its cut (R36). -/
def execGraceExpiry (c : CoreId) (s : State) : Host.Outcome State Fault Refusal :=
  .next (if (s.coreAt c).graceOver && (s.coreAt c).stop.isNone then s.hardPreemptFor c 0x09 else s)

/-- CONT_DRAIN_COMPLETE (R261). -/
def execContDrainComplete (c : CoreId) (s : State) : Host.Outcome State Fault Refusal := .next (s.drainComplete c)

/-- The conditions of R248 hold on core c. -/
def Core.canEnd (k : Core) : Bool :=
  k.unit.isSome && k.stop.isNone && k.handled.isNone && k.a.halted && k.x.halted && k.drained && !k.remotePending

/-- The unit on core c ends where it can (R248): writes are performed, deferred causes of remote stores are raised (R404), else
the core is released, and the work queues of its launch may close (R320). -/
def State.tryEnd (s : State) (c : CoreId) : State :=
  if (s.coreAt c).canEnd then
    let t := (s.flushSeq c .a).flushSeq c .x
    if (t.coreAt c).deferredCauses = [] then
      match t.resident c with
      | some u => (t.endUnit c).closeQueues u.launch
      | none => t
    else (t.beginStop c (t.plainStop 1 .trap)).tryCut c
  else s

/-- UNIT_END (R248). -/
def execUnitEnd (c : CoreId) (s : State) : Host.Outcome State Fault Refusal := .next (s.tryEnd c)

end Sys2Proof.Machine
end

