-- ==== Sys2Proof/Machine/Contexts.lean ====
section
/-! DEFINITION. The context instructions (spec/18_contexts.md R324-R341): creation, grants, runs and stops, dispositions,
revocation and its completion. -/

namespace Sys2Proof.Machine

open Sys2Proof

/-! ## Creation -/

/-- The fields of a creation descriptor (R327); none where R329 refuses it. -/
def parseCreate (bs : List Byte) : Option (Nat → Option Nat → Fin 16 → Ctx) :=
  let f := fieldNat bs
  if 1 ≤ f 0x0A 1 && f 0x0A 1 ≤ 64 && f 0x0B 1 ≤ 12 && !(f 0x0E 2).testBit 8 && zeroBytes bs 0x1B 5 && zeroBytes bs 0x2A 6
      && zeroBytes bs 0x3A 6 && f 0 10 % 65536 == 0 && f 0x10 10 % 128 == 0 && f 0x20 10 % 64 == 0 then
    some fun num parent depth =>
      { num := num, parent := parent, depth := depth, running := false, destroying := false, revoking := none,
        root := BitVec.ofNat 80 (f 0 10), weight := Fin.ofNat 128 (f 0x0A 1), evlog := Fin.ofNat 16 (f 0x0B 1),
        wdog := BitVec.ofNat 16 (f 0x0C 2), catches := BitVec.ofNat 16 (f 0x0E 2), pinbase := BitVec.ofNat 80 (f 0x10 10),
        evctr := Fin.ofNat 256 (f 0x1A 1), evq := BitVec.ofNat 80 (f 0x20 10), init := BitVec.ofNat 80 (f 0x30 10),
        ranBefore := false, cores := 0, ranges := [], qcap := 0, floor := 0, privs := 0, pool := 0, counters := [],
        nextEvent := 1, held := [], evLost := 0, completions := 0, admitted := false, broken := false, energy := [],
        part := none }
  else none

/-- The contexts that may exist at once (R324). -/
def maxContexts : Nat := 4096

/-- The lowest number that no context has (R329). -/
def State.freeNumber (s : State) : Nat :=
  ((List.range (s.ctxs.length + 1)).find? fun n => (s.ctx n).isNone).getD s.ctxs.length

/-- Add a context, in ascending number. -/
def State.addCtx (s : State) (c : Ctx) : State :=
  { s with ctxs := (s.ctxs.filter fun x => decide (x.num < c.num)) ++ c :: s.ctxs.filter fun x => decide (c.num < x.num) }

/-- A context instruction completes (R328, R382). -/
def State.ctxDone (s : State) : State := (s.finish 1 0).irreversible s.core

/-- CTXNEW (R329): a descriptor at an address that is no multiple of 64 is refused with code 1. -/
def execCtxnew (d : GReg) (a : AReg) (s : State) : Host.Outcome State Fault Refusal :=
  .next (if !s.privileged 1 then s.noPrivilege
    else s.withRes (s.cur.readA s.seqId a) fun va => s.releasing (s.withDest d
      (if va.toNat % 64 != 0 then (s.putG d (refusedCode 1)).ctxDone
       else match s.readAt s.core s.myCtx va 64 with
        | .error f => s.trapAddr f
        | .ok bs =>
          match parseCreate bs, s.ctx s.myCtx with
          | some make, some me =>
            if me.depth.val = 8 then (s.putG d (refusedCode 2)).ctxDone
            else if maxContexts ≤ s.ctxs.length then (s.putG d (refusedCode 3)).ctxDone
            else
              let n := s.freeNumber
              ((s.addCtx (make n (some me.num) (Fin.ofNat 16 (me.depth.val + 1)))).putG d (BitVec.ofNat 64 n)).ctxDone
          | _, _ => (s.putG d (refusedCode 1)).ctxDone)))

/-! ## The target -/

/-- A number names a context that the rule permits (R328). -/
def State.target (s : State) (v : W64) (ok : Ctx → Bool) : Option Ctx :=
  (s.ctx v.toNat).bind fun c => if ok c then some c else none

/-- A context is under revocation (R328, R341). -/
def Ctx.revoked (c : Ctx) : Bool := c.revoking.isSome || c.destroying

/-- What a source register that is a pop port gives up when the instruction completes (R72). -/
def State.popSource (s : State) (d : GReg) : State :=
  match s.cur.readG s.seqId d with
  | .ok v => s.setCore s.core v.2
  | _ => s

/-- A context instruction on a target named by g[d] (R328): privilege, target, revocation, then the release; g[d] is consumed when
it completes. -/
def State.onTarget (s : State) (d : GReg) (ok : Ctx → Bool) (go : State → Ctx → State) : State :=
  if !s.privileged 1 then s.noPrivilege
  else s.withRes (s.cur.readG s.seqId d) fun v =>
    match s.target v.1 ok with
    | none => s.noPrivilege
    | some c =>
      if c.revoked then s.stallSeq .revoking
      else s.releasing (go s c)

/-- A child of the issuer. -/
def State.isChild (s : State) (c : Ctx) : Bool := c.parent == some s.myCtx

/-- A descendant of the issuer. -/
def State.isDescendant (s : State) (c : Ctx) : Bool := c.num != s.myCtx && s.within c.num s.myCtx

/-! ## Grants -/

/-- A grant descriptor (R330). -/
structure Grant where
  what : BitVec 8
  priv : BitVec 16
  qcap : Nat
  floor : Nat
  budget : Nat
  mbase : Nat
  mperm : BitVec 3
  ctr : Fin 256
  mlen : Nat
  cores : BitVec 512
  deriving DecidableEq, Repr

/-- A field of a grant is selected. -/
def Grant.has (g : Grant) (bit : Nat) : Bool := g.what.getLsbD bit

/-- A grant descriptor (R330); none where a reserved bit is set or a selected field is out of range or misaligned. -/
def parseGrant (revoke : Bool) (bs : List Byte) : Option Grant :=
  let f := fieldNat bs
  let w := f 1 1
  let on (bit : Nat) (ok : Bool) : Bool := !w.testBit bit || ok
  if !w.testBit 7 && (revoke || !w.testBit 6) && (revoke || f 0x1B 1 == 0) && zeroBytes bs 0x1C 4 && zeroBytes bs 0x28 24
      && on 5 (f 2 2 < 8) && on 2 (f 4 2 ≤ 4096) && on 3 (f 8 8 < 2 ^ 48)
      && on 1 (f 0x10 10 % 65536 == 0 && f 0x1A 1 < 8 && f 0x20 8 != 0 && f 0x20 8 % 65536 == 0 && f 0x10 10 + f 0x20 8 ≤ 2 ^ 80)
  then
    some { what := BitVec.ofNat 8 w, priv := BitVec.ofNat 16 (f 2 2), qcap := f 4 2, floor := f 6 2, budget := f 8 8,
           mbase := f 0x10 10, mperm := BitVec.ofNat 3 (f 0x1A 1), ctr := Fin.ofNat 256 (f 0x1B 1), mlen := f 0x20 8,
           cores := BitVec.ofNat 512 (f 0x40 64) }
  else none

/-- Two ranges share an address. -/
def Range.meets (r : Range) (b n : Nat) : Bool := decide (r.base < b + n) && decide (b < r.base + r.len)

/-- A range lies in another. -/
def Range.inside (r : Range) (b n : Nat) : Bool := decide (b ≤ r.base) && decide (r.base + r.len ≤ b + n)

/-- The ranges of x that a granted range replaces: revoked ones that it covers wholly (R331). -/
def keptRanges (rs : List Range) (b n : Nat) : List Range := rs.filter fun r => !(r.revoked && r.inside b n)

/-- The floors that the children of a context hold, and those that a revocation has not yet returned (R331, R337). -/
def State.lentFloor (s : State) (x : Nat) : Nat :=
  ((s.ctxs.filter fun c => c.parent == some x).map fun c =>
    c.floor + (match c.revoking with | some r => r.floor | none => 0)).sum

/-- The status with which a grant is refused, 0 when it is made (R331). -/
def State.grantStatus (s : State) (me x : Ctx) (g : Option Grant) : Nat :=
  match g with
  | none => 1
  | some g =>
    if (g.has 0 && g.cores &&& ~~~me.cores != 0) || (g.has 5 && g.priv &&& ~~~me.privs != 0) || (g.has 2 && me.qcap < g.qcap)
        || (g.has 1 && (keptRanges x.ranges g.mbase g.mlen).any fun r => r.meets g.mbase g.mlen) then 2
    else if g.has 3 && me.pool.toNat < g.budget then 3
    else if g.has 4 && me.floor < g.floor + s.lentFloor me.num then 4
    else if g.has 1 && 64 ≤ (keptRanges x.ranges g.mbase g.mlen).length then 5
    else 0

/-- What a grant gives to x (R331). -/
def Ctx.granted (x : Ctx) (g : Grant) : Ctx :=
  { x with cores := if g.has 0 then x.cores ||| g.cores else x.cores
           privs := if g.has 5 then x.privs ||| g.priv else x.privs
           qcap := if g.has 2 then g.qcap else x.qcap
           ranges := if g.has 1 then
               keptRanges x.ranges g.mbase g.mlen ++ [{ base := g.mbase, len := g.mlen, perm := g.mperm, revoked := false }]
             else x.ranges
           pool := if g.has 3 then x.pool + BitVec.ofNat 48 g.budget else x.pool
           floor := if g.has 4 then x.floor + g.floor else x.floor }

/-- Make a grant from context me to context x. -/
def State.grantTo (s : State) (me x : Nat) (g : Grant) : State :=
  (s.modCtx me fun c => if g.has 3 then { c with pool := c.pool - BitVec.ofNat 48 g.budget } else c).modCtx x fun c => c.granted g

/-- Read a descriptor of 128 bytes in memory, of which byte 0 can be written (R330). -/
def State.withDescriptor (s : State) (va : A80) (go : List Byte → State) : State :=
  match s.devRead s.myCtx va 128 with
  | .error f => s.trapAddr f
  | .ok bs => match s.memPieces s.myCtx va 1 2 with
    | .error f => s.trapAddr f
    | .ok ps => match s.writeBar ps with
      | some f => s.trapAddr f
      | none => go bs

/-- Write STATUS to a descriptor (R331, R336, R337). -/
def State.putStatus (s : State) (x : Nat) (va : A80) (v : Nat) : State :=
  match s.devWrite x va [BitVec.ofNat 8 v] with
  | .ok t => t
  | .error _ => s

/-- CTXGRANT (R331). -/
def execCtxgrant (d : GReg) (a : AReg) (s : State) : Host.Outcome State Fault Refusal :=
  .next (s.onTarget d s.isChild fun t x => t.withRes (t.cur.readA t.seqId a) fun va => t.withDescriptor va fun bs =>
    match t.ctx t.myCtx with
    | none => t
    | some me =>
      let g := if va.toNat % 128 = 0 then parseGrant false bs else none
      let st := t.grantStatus me x g
      let u := match st, g with
        | 0, some g => t.grantTo me.num x.num g
        | _, _ => t
      ((u.putStatus me.num va st).popSource d).ctxDone)

/-! ## Run and stop -/

/-- An event of KIND 5: INIT refused or faulted (R333, R339). DESIGN CHOICE (notes/assumptions/105.md): it goes to the context itself, a
partition's to the host, without a search for a catcher (R338). -/
def State.initEvent (s : State) (x cause : Nat) (info : W64) : State :=
  (s.putEvent x { kind := 5, cause := cause, origin := x, qual := 0, tinfo := info, tpc := 0, launch := 0, unit := 0,
                  tick := s.tick }).1

/-- Submit INIT of context x (R333): the launch identifier, 0 where none was queued. -/
def State.submitInit (s : State) (x : Nat) (init : A80) : State × W64 :=
  if init.toNat % 128 != 0 then (s.initEvent x 0 1, 0)
  else match s.devRead x init 128 with
    | .error f => (s.initEvent x f.1.cause.toNat f.info, 0)
    | .ok bs =>
      let (t, r) := s.submit x bs
      if r.msb then (t.initEvent x 0 (r &&& 0xFF), 0) else (t, r)

/-- Step 1 of CTXRUN (R333): the identifier of an INIT launch, or 0. -/
def State.runCtx (s : State) (x : Ctx) : State × W64 :=
  let t := (s.modCtx x.num fun c => { c with running := true, ranBefore := true }).readyLaunches
  if !x.running && !x.ranBefore && x.init != 0 then t.submitInit x.num x.init else (t, 0)

/-- Unit num of a launch is disposed of (R340): it resumes, or ends by fault; a fatal trap can only end it (R383). -/
def State.disposeUnit (s : State) (l num : Nat) (end_ : Bool) : State :=
  match (s.launch l).bind fun x => x.unitState num with
  | some (.awaiting _ _ fatal pr) =>
    if end_ || fatal then
      ((s.modLaunch l fun x => (x.countFault (pr.tcause.extractLsb' 0 8)).setUnit num .ended).settleLaunch l).closeQueues l
    else s.modLaunch l fun x => x.setUnit num (.saved false pr)
  | _ => s

/-- The units that await a disposition: launch, unit, ring, event number. -/
def State.awaiting (s : State) : List (Nat × Nat × Nat × Option Nat × W64) :=
  (s.launches.map fun l => l.units.filterMap fun r =>
    match r.state with
    | .awaiting ring ev _ _ => some (l.id, r.num, l.ctx, ring, ev)
    | _ => none).flatten

/-- Act on the DISP of one record (R340): a record still held, or of another event, disposes of nothing. -/
def State.disposeOne (s : State) (rec : List Byte) (ev : W64) (l num : Nat) (free : State → State) : State :=
  if fieldNat rec 0x30 8 != ev.toNat || rec.headD 0 == 0 then s
  else match fieldNat rec 2 1 with
    | 1 => free (s.disposeUnit l num false)
    | 2 => free (s.disposeUnit l num true)
    | _ => s

/-- Step 2 of CTXRUN (R333, R340): dispositions at context p for the units whose origin lies in x. -/
def State.dispositions (s : State) (p x : Nat) : State :=
  s.awaiting.foldl (fun t w =>
    let (l, num, origin, ring, ev) := w
    match ring.bind t.ctx with
    | some y =>
      if y.parent == some p && t.within origin x && ev != 0 then
        let va := y.eventPlace ev.toNat
        match t.devRead p va 64 with
        | .ok rec => t.disposeOne rec ev l num fun u => u.putStatus p va 0
        | .error _ => t
      else t
    | none => t) s

/-- CTXRUN (R333). -/
def execCtxrun (d : GReg) (s : State) : Host.Outcome State Fault Refusal :=
  .next (s.onTarget d s.isDescendant fun t x => (((t.runCtx x).1.dispositions t.myCtx x.num).popSource d).ctxDone)

/-- A stop of context x (R334): its subtree's resident units receive the stop reason, or with hard a hard pre-emption. -/
def State.stopCtx (s : State) (x : Nat) (hard : Bool) : State :=
  let t := s.modCtx x fun c => { c with running := false }
  (t.holding fun u => t.within u.ctx x).foldl (fun u c =>
    let v := u.addReason c reasonStop
    if hard then v.hardPreempt c else v) t

/-- CTXSTOP (R334). -/
def execCtxstop (d : GReg) (h : Bool) (s : State) : Host.Outcome State Fault Refusal :=
  .next (s.onTarget d s.isDescendant fun t x => ((t.popSource d).ctxDone).stopCtx x.num h)

/-! ## CTXINFO -/

/-- The value of an item (R335), none out of range. -/
def State.ctxItem (s : State) (c : Ctx) (i : Nat) : Option W64 :=
  match i with
  | 0 => some (if c.revoked then 2 else if c.running then 1 else 0)
  | 1 => some (match c.parent with | some p => BitVec.ofNat 64 p | none => BitVec.ofNat 64 (2 ^ 63))
  | 2 => some (BitVec.ofNat 64 c.depth.val)
  | 3 => some (c.pool.zeroExtend 64)
  | 4 => some (BitVec.ofNat 64 (popNat c.cores.toNat 512))
  | 5 => some (BitVec.ofNat 64 (s.holding fun u => u.ctx == c.num).length)
  | 6 => some (BitVec.ofNat 64 c.held.length)
  | 7 => some (BitVec.ofNat 64 c.floor)
  | 8 => some (c.privs.zeroExtend 64)
  | 9 => some (BitVec.ofNat 64 c.qcap)
  | 10 => some (BitVec.ofNat 64 (s.queuedBy c.num).length)
  | 11 => some (c.evLost.zeroExtend 64)
  | _ => none

/-- CTXINFO (R335): the target may be the issuer itself or any descendant. -/
def execCtxinfo (d a : GReg) (i : BitVec 8) (s : State) : Host.Outcome State Fault Refusal :=
  .next (if 11 < i.toNat then s.illegal
    else s.withRes (s.cur.readG s.seqId a) fun v =>
      match s.target v.1 fun c => s.within c.num s.myCtx with
      | none => s.noPrivilege
      | some c => match s.ctxItem c i.toNat with
        | none => s.illegal
        | some x => s.withDest d ((((s.setCore s.core v.2).putG d x).finish 1 0).irreversible s.core))

/-! ## Revocation -/

/-- The ranges of x after a range is marked revoked in it (R336); none where it lies in no unrevoked range, or would need a
65th. -/
def splitRange (rs : List Range) (b n : Nat) : Option (List Range) :=
  match rs.find? fun r => !r.revoked && decide (r.base ≤ b) && decide (b + n ≤ r.base + r.len) with
  | none => none
  | some r =>
    let before := if r.base < b then [{ r with len := b - r.base }] else []
    let after := if b + n < r.base + r.len then [{ r with base := b + n, len := r.base + r.len - (b + n) }] else []
    let l := (rs.filter fun x => x != r) ++ before ++ [{ r with base := b, len := n, revoked := true }] ++ after
    if 64 < l.length then none else some l

/-- The status with which a revocation is refused, 0xFF when it is accepted (R336). -/
def revokeStatus (x : Ctx) (g : Option Grant) : Nat :=
  match g with
  | none => 1
  | some g => if g.has 1 && (splitRange x.ranges g.mbase g.mlen).isNone then 2 else 0xFF

/-- Reduce the floors of the children of a context, in descending number, by an excess (R336). -/
def cutFloors (cs : List Ctx) : Nat → List Nat → List Ctx
  | _, [] => cs
  | excess, n :: r =>
    let f := match cs.find? fun c => c.num == n with | some c => c.floor | none => 0
    cutFloors (cs.map fun c => if c.num = n then { c with floor := c.floor - min excess f } else c) (excess - min excess f) r

/-- Floors of a subtree after its root's fell, level by level (R336). -/
def fitFloors : Nat → List Ctx → List Nat → List Ctx
  | 0, cs, _ => cs
  | fuel + 1, cs, ps =>
    let one (cs : List Ctx) (p : Nat) : List Ctx :=
      let kids := cs.filter fun c => c.parent == some p
      let lim := match cs.find? fun c => c.num == p with | some c => c.floor | none => 0
      cutFloors cs ((kids.map (·.floor)).sum - lim) (sortBy (fun a b => decide (b < a)) (kids.map (·.num)))
    let next := (ps.map fun p => (cs.filter fun c => c.parent == some p).map (·.num)).flatten
    fitFloors fuel (ps.foldl one cs) next

/-- What a revocation takes from a context of the subtree (R336); root: it is x itself. -/
def Ctx.withdrawn (c : Ctx) (g : Grant) (root : Bool) : Ctx :=
  let all := g.has 6
  { c with
    cores := if all then 0 else if g.has 0 then c.cores &&& ~~~g.cores else c.cores
    qcap := if all then 0 else if g.has 2 then min c.qcap g.qcap else c.qcap
    privs := if all then 0 else if g.has 5 then c.privs &&& ~~~g.priv else c.privs
    pool := if g.has 3 && root && !all then c.pool - BitVec.ofNat 48 (min g.budget c.pool.toNat) else c.pool
    floor := if g.has 4 && root && !all then c.floor - min g.floor c.floor else c.floor
    ranges := if g.has 1 && !all && root then (splitRange c.ranges g.mbase g.mlen).getD c.ranges
      else c.ranges
    destroying := c.destroying || all }

/-- Every unit of the subtree receives the revoke reason (R336). -/
def revokesAll (g : Grant) : Bool := g.has 6 || g.has 1

/-- A unit of the subtree that is resident on core c receives the revoke reason (R336). -/
def revokesUnit (g : Grant) (c : CoreId) : Bool := revokesAll g || (g.has 0 && g.cores.getLsbD c.val)

/-- A launch with a unit that has left its core and can come back. -/
def Launch.hasSaved (l : Launch) : Bool := l.units.any fun r => match r.state with
  | .saved _ _ => true
  | .awaiting _ _ _ _ => true
  | _ => false

/-- A request acts on saved units too (R261): where every unit of a subtree receives the revoke reason, a saved unit never resumes,
and its launch ends with 0x07. -/
def State.revokeSaved (s : State) (sub : List Nat) : State :=
  ((s.launches.filter fun l => sub.contains l.ctx && l.hasSaved).map (·.id)).foldl (fun t id => t.markLaunch id 0x07) s

/-- The watchpoints of revoked contexts are freed (R302). -/
def State.dropWatches (s : State) (sub : List Nat) : State :=
  (List.finRange 8).foldl (fun t d => t.modDie d fun y => { y with watch := y.watch.filter fun w => !sub.contains w.ctx }) s

/-- The withdrawal of a revocation from x (R336, R337), the record of what is to be returned, and the reasons or requests. -/
def State.revokeFrom (s : State) (x : Ctx) (g : Grant) (hard : Bool) (issuer : Option Nat) (status : Option A80) : State :=
  let sub := s.subtree x.num
  let rec_ : Revocation := { issuer := issuer, status := status, ctr := if g.ctr = 255 then none else some g.ctr, all := g.has 6,
                             pool := if g.has 3 && !g.has 6 then min g.budget x.pool.toNat else 0,
                             floor := if g.has 4 && !g.has 6 then min g.floor x.floor else 0 }
  let s1 := sub.foldl (fun t n => t.modCtx n fun c => c.withdrawn g (n == x.num)) s
  let s2 := { s1 with ctxs := fitFloors 9 s1.ctxs [x.num] }
  let s3 := s2.modCtx x.num fun c => { c with revoking := some rec_ }
  let s4 := if g.has 6 then s3.dropWatches sub else s3
  let s5 := if revokesAll g then s4.revokeSaved sub else s4
  (s5.holding fun u => sub.contains u.ctx).foldl (fun t c =>
    if revokesUnit g c then
      let v := t.addReason c reasonRevoke
      if hard then v.hardPreempt c else v
    else t) s5

/-- CTXREVOKE (R336). -/
def execCtxrevoke (d : GReg) (a : AReg) (h : Bool) (s : State) : Host.Outcome State Fault Refusal :=
  .next (s.onTarget d s.isChild fun t x => t.withRes (t.cur.readA t.seqId a) fun va => t.withDescriptor va fun bs =>
    let g := if va.toNat % 128 = 0 then parseGrant true bs else none
    let u := ((t.putStatus t.myCtx va (revokeStatus x g)).popSource d).ctxDone
    match revokeStatus x g, g with
    | 0xFF, some g => u.revokeFrom x g h (some t.myCtx) (some va)
    | _, _ => u)

/-- Every access and every write of a copy that a unit of the subtree has under way and that no other node holds up is performed
(R337, step 2). -/
def State.flushSubtree (s : State) (sub : List Nat) : State :=
  (s.holding fun u => sub.contains u.ctx).foldl (fun t c =>
    (((t.flushSeq c .a).flushSeq c .x).performTodo c .c0 fun _ => true).performTodo c .c1 fun _ => true) s

/-- An affected unit is still on a core, or a unit of the subtree has an access that is not performed (R337, steps 1 and 2). -/
def State.revokePending (s : State) (sub : List Nat) : Bool :=
  (s.holding fun u => sub.contains u.ctx).any fun c =>
    (match s.resident c with | some u => hasReason u.reasons reasonRevoke | none => false) || (s.coreAt c).remotePending
      || engines.any fun e => !((s.coreAt c).eng e).chunks.isEmpty

/-- Launches of the subtree that end at completion (R336): all of them, or those whose PLACE names no granted core. -/
def State.revokedLaunches (s : State) (sub : List Nat) (all : Bool) : List Nat :=
  (s.launches.filter fun l => sub.contains l.ctx &&
    (all || !(allCores.any fun c => s.grants l.ctx c && l.task.place.getLsbD (c.val / 8)))).map (·.id)

/-- Contexts of a subtree cease to exist (R336): their task queues, watchpoints, drains and events not yet written go with them.
The next unit of an island that one of them used last finds the bank zeroed, though a new context have its number (R283): no
context has the number 4,096. -/
def State.removeCtxs (s : State) (sub : List Nat) : State :=
  let keep (rs : List (List Byte)) : List (List Byte) := rs.filter fun r => !sub.contains (recordOrigin r)
  let t : State := { s with ctxs := (s.ctxs.filter fun c => !sub.contains c.num).map fun c => { c with held := keep c.held },
                            host := { s.host with held := keep s.host.held } }
  let u : State := { t with islands := t.islands.map fun i =>
    match i.last with
    | some c => if sub.contains c then { i with last := some maxContexts } else i
    | none => i }
  (List.finRange 8).foldl (fun u d => u.modDie d fun y =>
    { y with queues := y.queues.filter fun q => !sub.contains q.ctx, drains := y.drains.filter fun r => !sub.contains r.part })
    (u.dropWatches sub)

/-- Completion of the revocation of x (R337): launches end, pools and floors return, STATUS becomes 0, the counter rises. -/
def State.completeRevocation (s0 : State) (x : Ctx) (r : Revocation) : State :=
  let sub := s0.subtree x.num
  let s := s0.flushSubtree sub
  if s.revokePending sub then s
  else
    let s1 := (s.revokedLaunches sub r.all).foldl (fun t id => t.markLaunch id 0x07) s
    let back := if r.all then ((s1.ctxs.filter fun c => sub.contains c.num).map fun c => c.pool.toNat).sum else r.pool
    let s2 := if r.all then s1.removeCtxs sub else s1.modCtx x.num fun c => { c with revoking := none }
    match r.issuer with
    | none => s2
    | some p =>
      let s3 := s2.modCtx p fun c => { c with pool := c.pool + BitVec.ofNat 48 back }
      let s4 := match r.status with | some va => s3.putStatus p va 0 | none => s3
      match r.ctr with | some n => s4.countUp p .job n | none => s4

/-- REVOCATION_COMPLETE (R337). -/
def execRevocationComplete (c : Nat) (s : State) : Host.Outcome State Fault Refusal :=
  .next (match s.ctx c with
    | some x => match x.revoking with
      | some r => s.completeRevocation x r
      | none => s
    | none => s)

end Sys2Proof.Machine
end

