-- ==== Sys2Proof/Machine/Islands.lean ====
section
/-! DEFINITION. Islands (spec/14_cluster.md R278-R284): gating, the completion of a rail change, reset, failure. -/

namespace Sys2Proof.Machine

open Sys2Proof

/-- An island holds no resident unit. -/
def State.islandEmpty (s : State) (i : IslandId) : Bool := (islandCores i).all fun c => (s.resident c).isNone

/-- Write the bank record of an island (R279). -/
def State.writeRecord (s : State) (i : IslandId) (bs : List Byte) : State :=
  match s.bankRecord i with
  | some a => (s.physWrite [(a, bs)]).modIsland i fun x => { x with record := true }
  | none => s

/-- The 64 bytes of a bank record (R279). -/
def bankBytes (v : Vector (BitVec 16) 16) : List Byte := (v.toList.map fun n => leBytes 2 n.toNat).flatten ++ leBytes 32 0

/-- Pinned tiles of every core of an island go to their slots (R201). -/
def State.evictIsland (s : State) (i : IslandId) : State := (islandCores i).foldl State.evictAll s

/-- Gate an island (R279): pinned tiles to their slots, the bank to its record, the rail off. -/
def State.gate (s : State) (i : IslandId) : State :=
  if (s.island i).state = .on ∧ s.islandEmpty i then
    let t := s.evictIsland i
    ((t.writeRecord i (bankBytes (t.island i).bank)).wipeCores i).modIsland i fun x =>
      { x with state := .gated, level := 0, target := 0, waits := [] }
  else s

/-- ISLAND_GATING (R279, R282). -/
def execIslandGating (i : IslandId) (s : State) : Host.Outcome State Fault Refusal := .next (s.gate i)

/-- RAIL_CHANGE_COMPLETE (R278): the island runs at the level it aims at. -/
def execRailChangeComplete (i : IslandId) (s : State) : Host.Outcome State Fault Refusal :=
  .next (s.modIsland i fun x => if x.state = .on then { x with level := x.target } else x)

/-! ## Watchdog drains -/

/-- The islands of partition p on die d. -/
def State.partIslandsOf (s : State) (p : Nat) (d : DieId) : List IslandId :=
  match (s.ctx p).bind (·.part) with
  | some y => (List.finRange 64).filter fun i => y.islands.getLsbD i.val && dieOfIsland i == d
  | none => []

/-- An island stands under a watchdog drain of its partition (R322, step 1). -/
def State.draining (s : State) (i : IslandId) : Bool :=
  (s.die (dieOfIsland i)).drains.any fun r => match (s.ctx r.part).bind (·.part) with
    | some y => y.islands.getLsbD i.val
    | none => false

/-- The drains of a die whose islands have all been reset end (R322, step 6): WC of the expired queues is 0, placement resumes. -/
def State.endDrains (s : State) (d : DieId) : State :=
  let past (r : Drain) : Bool := (s.partIslandsOf r.part d).all fun i => (s.island i).state != .resetting
  let done := (s.die d).drains.filter past
  (done.foldl (fun t r => r.ctxs.foldl (fun u x => u.clearWc d x) t) s).modDie d fun y =>
    { y with drains := y.drains.filter fun r => !past r }

/-! ## Resets -/

/-- A reset of an island begins (R281, R282): one that is on closes its clamps, a gated one has its record zeroed. -/
def State.beginReset (s : State) (i : IslandId) : State :=
  match (s.island i).state with
  | .on => s.modIsland i fun y => { y with state := .resetting }
  | .gated => s.writeRecord i (leBytes 64 0)
  | _ => s

/-- The commands RESET_ISLAND that waited for island i are answered (R387). -/
def State.answerResets (s : State) (i : IslandId) (ok : Bool) : State :=
  let mine := s.host.resets.filter (· == i)
  mine.foldl (fun t _ => t.reply (.mailbox ok 0)) { s with host := { s.host with resets := s.host.resets.filter (· != i) } }

/-- The reset of an empty island (R281): everything reads zero, ownership entries as at reset, level 0, the clamps open. -/
def State.finishReset (s : State) (i : IslandId) : State :=
  if (s.island i).state = .resetting ∧ s.islandEmpty i then
    (((((s.evictIsland i).writeRecord i (leBytes 64 0)).wipeCores i).modIsland i fun x =>
      { x with state := .on, level := 0, target := 0, bank := Vector.replicate 16 0, waits := [] }).answerResets i true).endDrains
      (dieOfIsland i)
  else s

/-- ISLAND_RESET_COMPLETE (R281). -/
def execIslandResetComplete (i : IslandId) (s : State) : Host.Outcome State Fault Refusal := .next (s.finishReset i)

/-- Aligned 8-byte parts of a write. -/
def alignedParts : Nat → Nat → List Byte → List (Nat × List Byte)
  | 0, _, _ => []
  | fuel + 1, a, bs =>
    if bs = [] then [] else
      let n := 8 - a % 8
      (a, bs.take n) :: alignedParts fuel (a + n) (bs.drop n)

/-- A store of a failed island (R284): each aligned 8 bytes of it is performed or absent, as a free value says
(notes/assumptions/12.md). -/
def State.maybeStore (s : State) (x : Access) (bs : List Byte) : State :=
  let parts := physParts (x.partsLeft x.pieces.zipIdx bs)
  (parts.map fun p => alignedParts (p.2.length + 1) p.1 p.2).flatten.foldl (fun t w =>
    let (v, u) := t.freeValue
    if v.getLsbD 0 && !u.anyLive w.1 w.2.length then u.physWrite [w] else u) s

/-- An access of a failed island that was not yet performed (R284). -/
def State.maybePerform (s : State) (x : Access) : State :=
  match x.op with
  | .store bs => s.maybeStore x bs
  | .load _ _ | .loadA => s
  | op =>
    let (v, u) := s.freeValue
    match x.pieces with
    | [p] => if v.getLsbD 0 && p.space == .phys then (u.performAtomic op p.addr).1 else u
    | _ => u

/-- The unit on core c is lost with its island (R284): no cut, no save, no post. -/
def State.loseToFailure (s : State) (c : CoreId) : State :=
  match s.resident c with
  | none => s
  | some u =>
    let k := s.coreAt c
    let t := (k.a.out ++ k.x.out).foldl State.maybePerform s
    (((t.modLaunch u.launch fun l => (l.countFault 0x0B).setUnit u.unit .ended).releaseCore c).settleLaunch u.launch).closeQueues
      u.launch

/-- In a grade, the grade is chosen again for the same level (R371). -/
def State.rechoose (s : State) : State := if s.power.grade = .normal then s else s.chooseGrade

/-- The code of a report of a failed island. -/
def reportIsland : Nat := 5

/-- ISLAND_FAILURE (R281, R282, R284, R359, R371): the island is retired and reported to Barchan, its units are lost, what it held is
zero, its bank and bank record too, PMAX falls by 40 W. -/
def execIslandFailure (i : IslandId) (s : State) : Host.Outcome State Fault Refusal :=
  .next (match (s.island i).state with
    | .on | .resetting =>
      let t := (islandCores i).foldl State.loseToFailure s
      ((((((t.writeRecord i (leBytes 64 0)).wipeCores i).modIsland i fun x =>
        { x with state := .failed, level := 0, target := 0, bank := Vector.replicate 16 0, waits := [] }).answerResets i
        false).endDrains (dieOfIsland i)).reply (.report reportIsland i.val)).retire 40 |>.rechoose
    | _ => s)

end Sys2Proof.Machine
end

