-- ==== Sys2Proof/Machine/Mailbox.lean ====
section
/-! DEFINITION. The host (spec/20_package.md R373-R375, R385-R387; spec/15_die_memory.md R289, R290, R299; spec/17_die_sched.md
R307; spec/19_power.md R351, R360; spec/22_fabric.md R398-R400): memory over CXL, mailbox commands, registers, monitors. -/

namespace Sys2Proof.Machine

open Sys2Proof

/-! ## Host memory -/

/-- The host reaches n bytes at a physical address (R386): HBM through its HDM decoder, or host memory. -/
def State.hostReaches (s : State) (pa n : Nat) : Bool :=
  match regionOf pa, regionOf (pa + n - 1) with
  | .hbm _, .hbm _ => s.mapped pa
  | .host, .host => true
  | _, _ => false

/-- The bytes of a host write that take effect: those outside live words (R299) and retired channels (R374). -/
def State.hostParts (s : State) (pa : Nat) (bs : List Byte) : List (Nat × List Byte) :=
  ((s.skipLive pa bs).map fun p =>
    if (s.firstRetired p.1 p.2.length).isNone then [p]
    else (p.2.zipIdx.filter fun b => !s.isRetired (p.1 + b.2)).map fun b => (p.1 + b.2, [b.1])).flatten

/-- The module is up (R388): without power, or after a failed boot, it answers no access and no mailbox command. -/
def State.mailboxUp (s : State) : Bool := s.service == .reduced || s.service == .draining || s.service == .full

/-- The module does not answer a host access: one of its own memory while it is not up (R388). -/
def State.deaf (s : State) (pa : Nat) : Bool := !s.mailboxUp && regionOf pa != .host

/-- A host write to a live word is logged to Barchan (R299). -/
def State.logLive (s : State) (pa n : Nat) : State := if s.anyLive pa n then s.reply (.report 4 pa) else s

/-- HOST_MEMORY_WRITE (R299, R386). -/
def execHostMemoryWrite (addr : Nat) (bytes : List Byte) (s : State) : Host.Outcome State Fault Refusal :=
  if bytes = [] || s.deaf addr then .next s
  else if s.hostReaches addr bytes.length then
    .next ((s.logLive addr bytes.length).physWrite (s.hostParts addr bytes))
  else .fault .hostAddress

/-- HOST_MEMORY_READ (R386): the bytes are replied; uncorrectable data comes back poisoned, which the reply shows as none. -/
def execHostMemoryRead (addr : Nat) (n : Nat) (s : State) : Host.Outcome State Fault Refusal :=
  if n = 0 || s.deaf addr then .next s
  else if s.hostReaches addr n then
    .next (s.reply (.data (if (s.firstUnc addr n).isSome then [] else s.physRead addr n)))
  else .fault .hostAddress

/-! ## The mailbox -/

/-- Success, with a value. -/
def State.success (s : State) (v : W64) : State := s.reply (.mailbox true v)

/-- Invalid Input (R387): nothing else changes. -/
def State.invalid (s : State) : State := s.reply (.mailbox false 0)

/-- A mailbox command. -/
def State.command (s : State) (go : State) : State := if s.mailboxUp then go else s

/-- A command on partition p (R387). -/
def State.onPartition (s : State) (p : Nat) (go : Ctx → State) : State :=
  s.command (match s.ctx p with
    | some c => if c.part.isSome then go c else s.invalid
    | none => s.invalid)

/-- A partition that the host may act on: it is not being revoked (R328). -/
def State.onLivePartition (s : State) (p : Nat) (go : Ctx → State) : State :=
  s.onPartition p fun c => if c.revoked then s.invalid else go c

/-- A physical range of a partition is well formed: whole 64 KiB pages below 2^52 (R325, R373). -/
def physRange (r : Nat × Nat × BitVec 3) : Bool := r.1 % 65536 == 0 && r.2.1 % 65536 == 0 && r.2.1 != 0 && r.1 + r.2.1 ≤ 2 ^ 52

/-- The islands may form a partition (R324, R343, R390): at least one, none retired or of another partition, in reduced service
only those of the serving die. -/
def State.islandsFree (s : State) (is_ : BitVec 64) : Bool :=
  is_ != 0 && (List.finRange 64).all fun i => !is_.getLsbD i.val ||
    ((s.island i).state != .failed && (s.bankRecord i).isNone &&
      (s.service == .full || s.serving == some (dieOfIsland i)))

/-- The cores of a set of islands. -/
def coresOfIslands (is_ : BitVec 64) : BitVec 512 :=
  (List.range 64).foldl (fun (v : BitVec 512) i => if is_.getLsbD i then v ||| (0xFF#512 <<< (8 * i)) else v) 0

/-- A partition just created (R279, R351, R375, R400). -/
def newPartition (p : PartSpec) : Partition :=
  { islands := p.islands, bankArea := p.bankArea, pcap := 0xFFFF, prank := 0, ppower := 0, pthrot := 0, hbmflr := 0, rbcount := 0,
    windows := Vector.replicate 16 ⟨0, 0⟩, exports := Vector.replicate 16 ⟨0, 0⟩, seenLimit := none, powers := [], nextLaunch := 1 }

/-- CREATE_PARTITION (R387): the number is the lowest free one (notes/assumptions/34.md). -/
def execCreatePartition (p : PartSpec) (s : State) : Host.Outcome State Fault Refusal :=
  .next (s.command (match parseCreate p.desc with
    | none => s.invalid
    | some make =>
      if s.islandsFree p.islands && decide (p.ranges.length ≤ 64) && p.ranges.all physRange && decide (p.privs.toNat < 8)
          && decide (p.qcap ≤ 4096) && decide (p.floor < 65536) && p.desc.length == 64 && p.bankArea % 4096 == 0
          && decide (p.pool < 2 ^ 48) && decide (s.ctxs.length < maxContexts) then
        let n := s.freeNumber
        let c := make n none 0
        (s.addCtx { c with
          cores := coresOfIslands p.islands, qcap := p.qcap, floor := p.floor, privs := p.privs, pool := BitVec.ofNat 48 p.pool,
          ranges := p.ranges.map fun r => { base := r.1, len := r.2.1, perm := r.2.2, revoked := false },
          part := some (newPartition p) }).success (BitVec.ofNat 64 n)
      else s.invalid))

/-- The grant descriptor of a destruction (R387). -/
def wholeGrant : Grant :=
  { what := 0x40, priv := 0, qcap := 0, floor := 0, budget := 0, mbase := 0, mperm := 0, ctr := 255, mlen := 0, cores := 0 }

/-- DESTROY_PARTITION (R387): as CTXREVOKE.hard with ALL. -/
def execDestroyPartition (p : Nat) (s : State) : Host.Outcome State Fault Refusal :=
  .next (s.onLivePartition p fun c => (s.revokeFrom c wholeGrant true none none).success 0)

/-- The record of event n in the host ring. -/
def State.hostPlace (s : State) (n : Nat) : Option Nat := s.host.ring.map fun r => r.1 + 64 * ((n - 1) % r.2)

/-- Dispositions at the host for the units of partition p (R387, R333 step 2). -/
def State.hostDispositions (s : State) (p : Nat) : State :=
  s.awaiting.foldl (fun t w =>
    let (l, num, origin, ring, ev) := w
    match ring, t.hostPlace ev.toNat with
    | none, some pa =>
      if t.within origin p && ev != 0 then
        t.disposeOne (t.physRead pa 64) ev l num fun u => u.physWrite [(pa, [0])]
      else t
    | _, _ => t) s

/-- SET_HOST_EVENT_RING (R338, R387): a ring of at least one entry, in memory that the host reaches. -/
def execSetHostEventRing (addr : Nat) (entries : Nat) (s : State) : Host.Outcome State Fault Refusal :=
  .next (s.command (if entries != 0 && addr % 64 == 0 && s.hostReaches addr (64 * entries) then
      (State.flushHost { s with host := { s.host with ring := some (addr, entries) } }).success 0
    else s.invalid))

/-- DISPOSE (R387). -/
def execDispose (p : Nat) (s : State) : Host.Outcome State Fault Refusal :=
  .next (s.onPartition p fun _ => (s.hostDispositions p).success 0)

/-- RESET_ISLAND (R281, R387): resident units are cut with KIND 0x07 and saved; success is reported when the reset is complete,
Invalid Input where the island fails before (notes/assumptions/85.md). -/
def execResetIsland (i : IslandId) (s : State) : Host.Outcome State Fault Refusal :=
  .next (s.command (if (s.island i).state = .failed then s.invalid
    else
      let cs := (islandCores i).filter fun c => (s.resident c).isSome
      let t := s.beginReset i
      if (s.island i).state = .gated then t.success 0
      else
        cs.foldl State.tryCut ({ t with host := { t.host with resets := t.host.resets ++ [i] } }.stopTogether cs 7 0)))

/-- RETIRE_CHANNEL (R359, R374, R387). -/
def execRetireChannel (stack : Fin 9) (ch : Fin 32) (s : State) : Host.Outcome State Fault Refusal :=
  .next (s.command ((s.retireChan (stack, ch)).success 0))

/-- RUN_PARTITION (R333, R387): the reply carries the identifier of the INIT launch, or 0. -/
def execRunPartition (p : Nat) (s : State) : Host.Outcome State Fault Refusal :=
  .next (s.onLivePartition p fun c =>
    let r := s.runCtx c
    (r.1.hostDispositions p).success r.2)

/-- STOP_PARTITION (R334, R387). -/
def execStopPartition (p : Nat) (hard : Bool) (s : State) : Host.Outcome State Fault Refusal :=
  .next (s.onLivePartition p fun _ => (s.stopCtx p hard).success 0)

/-! ## Registers -/

/-- Change the partition part of context p. -/
def State.modPart (s : State) (p : Nat) (f : Partition → Partition) : State := s.modCtx p fun c => { c with part := c.part.map f }

/-- Bytes of direct storage for a number of ways (R290). -/
def waysBytes (n : Nat) : Nat := n * 0x2000000

/-- Write DSWAYS (R289, R290): ways that join read as zero with their tags clear, ways that leave lose their contents and tags. -/
def State.setWays (s : State) (d : DieId) (n : Nat) : State :=
  let old := (s.die d).dsways.val
  let a := dsBase + d.val * 0x20000000 + waysBytes (min old n)
  let b := dsBase + d.val * 0x20000000 + waysBytes (max old n)
  let gone (x : Nat) : Bool := decide (a ≤ x) && decide (x < b)
  ({ s with mem := s.mem.filter fun c => !gone c.1, memBad := s.memBad.filter fun x => !gone x,
            live := s.live.filter fun x => !gone x } : State).modDie d fun y => { y with dsways := Fin.ofNat 32 n }

/-- Write L2LIM (R289): values 17 to 31 are ignored; during bring-up DSWAYS stays at 16 (R289, R390). -/
def State.writeL2lim (s : State) (d : DieId) (v : Nat) : State :=
  if v % 32 ≤ 16 && !s.reducedService then s.setWays d (v % 32) else s

/-- Write DSCHED (R307): a QSHIFT outside 16 to 28 is ignored. -/
def Die.writeDsched (y : Die) (v : Nat) : Die :=
  let q := v % 32
  { y with slice := BitVec.ofNat 16 (v / 65536), qshift := if 16 ≤ q ∧ q ≤ 28 then Fin.ofNat 32 q else y.qshift }

/-- The readable bits of MONCFG (R385). -/
def monMask : BitVec 32 := 0xBFFF1F00

/-- Clear the results of a monitor (R385). -/
def Monitor.clear (m : Monitor) : Monitor := { Monitor.reset with cfg := m.cfg }

/-- Write MONCFG (R385): CLR clears, and reads as 0. -/
def Monitor.write (m : Monitor) (v : BitVec 32) : Monitor :=
  let n := { m with cfg := v &&& monMask }
  if v.getLsbD 30 then n.clear else n

/-- A sample of a monitor that samples (R385). -/
def Monitor.sample (m : Monitor) (v : BitVec 32) : Monitor :=
  let src := bitsOf m.cfg.toNat 24 6
  if m.cfg.getLsbD 31 && 1 ≤ src && src ≤ 7 then
    let b : Fin 32 := Fin.ofNat 32 (min 31 (v.toNat / 2 ^ bitsOf m.cfg.toNat 8 5))
    { m with least := if v.ult m.least then v else m.least, most := if m.most.ult v then v else m.most,
             hist := m.hist.set b (if m.hist[b] = BitVec.allOnes 32 then m.hist[b] else m.hist[b] + 1) }
  else m

/-- Change monitor n of a die. -/
def State.modMonitor (s : State) (d : DieId) (n : Fin 16) (f : Monitor → Monitor) : State :=
  s.modDie d fun y => { y with monitors := y.monitors.set n (f y.monitors[n]) }

/-- Write a phase account (R360). -/
def Ctx.writeAccount (c : Ctx) (n : Nat) (v : BitVec 48) : Ctx :=
  { c with energy := (c.energy.filter fun p => decide (p.1 < n)) ++
      ((if v = BitVec.allOnes 48 then [] else [(n, v)]) ++ c.energy.filter fun p => decide (n < p.1)) }

/-- Write HBMFLR (R375): a sum above 1,600 is ignored. -/
def State.writeHbmflr (s : State) (p : Nat) (v : Nat) : State :=
  let others := ((s.partitions.filter fun x => x.1.num != p).map fun x => x.2.hbmflr.toNat).sum
  if others + v % 65536 ≤ 1600 then s.modPart p fun y => { y with hbmflr := BitVec.ofNat 16 v } else s

/-- Write LPPARK (R375, R377): a write that clears the bit of a stack that is not Active is ignored. -/
def State.writeLppark (s : State) (v : Nat) : State :=
  if (List.finRange 8).any fun d => (s.die d).stack != .active && s.memctl.shadow.getLsbD d.val && !v.testBit d.val then s
  else { s with memctl := { s.memctl with shadow := BitVec.ofNat 8 v } }

/-- Some port is up. -/
def Fabric.anyUp (f : Fabric) : Bool := f.ports.toList.any (·.up)

/-- Write FNODE (R399): ignored while a port is up. -/
def State.writeFnode (s : State) (v : W64) : State :=
  if s.fabric.anyUp then s
  else { s with fabric := { s.fabric with valid := v.getLsbD 18, node := Fin.ofNat 262144 v.toNat,
                                          validSince := if s.fabric.valid then s.fabric.validSince else s.tick } }

/-- The physical extent of an export (R400, R401). -/
def exportSpan (w : Window) : Nat × Nat := (w.a.toNat % 2 ^ 36 * 65536, (bitsOf w.b.toNat 38 26 + 1) * 65536)

/-- Sorted ranges cover the addresses from a to before b. -/
def coverFrom (b : Nat) : List Range → Nat → Bool
  | [], a => decide (b ≤ a)
  | r :: rest, a => coverFrom b rest (if r.base ≤ a ∧ a < r.base + r.len then r.base + r.len else a)

/-- An export lies within the partition's physical ranges (R400); an invalid one reaches nothing. -/
def Ctx.exportInside (c : Ctx) (w : Window) : Bool :=
  !w.b.getLsbD 3 ||
    (let (a, n) := exportSpan w
     coverFrom (a + n) (sortBy (fun x y => decide (x.base < y.base)) (c.ranges.filter fun r => !r.revoked)) a)

/-- The writable bits of FEXPB (R400). -/
def expbMask : W64 := 0xFFFFFFC0000000FF

/-- Write an export register (R400): a write that makes it reach outside the partition's ranges is ignored. -/
def State.writeExport (s : State) (c : Ctx) (n : Fin 16) (f : Window → Window) : State :=
  match c.part with
  | none => s
  | some p =>
    if c.exportInside (f p.exports[n]) then s.modPart c.num fun y => { y with exports := y.exports.set n (f y.exports[n]) } else s

/-- Write an entry of the route table (R398); entries of 0 are not listed. -/
def Fabric.writeRoute (f : Fabric) (n : Nat) (v : BitVec 32) : Fabric :=
  { f with routes := (f.routes.filter fun p => decide (p.1 < n)) ++
      ((if v = 0 then [] else [(n, v)]) ++ f.routes.filter fun p => decide (n < p.1)) }

/-- PKGPWR (R351). -/
def State.pkgpwr (s : State) : Nat :=
  let p := s.power
  let short := (gatedFloor - p.level) / 1000
  short * 2 ^ 48 + p.level / 1000 % 65536 * 2 ^ 32 + p.pmax / 1000 % 65536 * 65536 + p.grade.code

/-- FSTAT (R399). -/
def Fabric.fstat (f : Fabric) : Nat :=
  (if f.sync then 2 ^ 63 else 0) + ((List.finRange 32).foldl (fun m i => if f.ports[i].up then m + 2 ^ i.val else m) 0)

/-- A register of partition p. -/
def State.partReg (s : State) (p : Nat) (f : Partition → Nat) : Option W64 :=
  ((s.ctx p).bind (·.part)).map fun y => BitVec.ofNat 64 (f y)

/-- The value of a register (R289, R307, R351, R360, R375, R385, R398-R400); none where it does not exist. -/
def State.readReg (s : State) : RegRef → Option W64
  | .l2lim d => some (BitVec.ofNat 64 (s.die d).dsways.val)
  | .l2part d => some (BitVec.ofNat 64 (s.die d).tbits.val)
  | .dsched d => some (BitVec.ofNat 64 ((s.die d).slice.toNat * 65536 + (s.die d).qshift.val))
  | .pcap p => s.partReg p (·.pcap.toNat)
  | .prank p => s.partReg p (·.prank.val)
  | .ppower p => s.partReg p (·.ppower.toNat)
  | .pthrot p => s.partReg p (·.pthrot.toNat)
  | .pkgpwr => some (BitVec.ofNat 64 s.pkgpwr)
  | .account c n => (s.ctx c).map fun x => (x.account n.val).zeroExtend 64
  | .hbmflr p => s.partReg p (·.hbmflr.toNat)
  | .lppark => some (s.memctl.shadow.zeroExtend 64)
  | .rbcount p => s.partReg p (·.rbcount.toNat)
  | .moncfg d n => some ((s.die d).monitors[n].cfg.zeroExtend 64)
  | .monmin d n => some ((s.die d).monitors[n].least.zeroExtend 64)
  | .monmax d n => some ((s.die d).monitors[n].most.zeroExtend 64)
  | .monhist d n b => some ((s.die d).monitors[n].hist[b].zeroExtend 64)
  | .fnode => some (BitVec.ofNat 64 ((if s.fabric.valid then 2 ^ 18 else 0) + s.fabric.node.val))
  | .fstat => some (BitVec.ofNat 64 s.fabric.fstat)
  | .fwina p n => s.partReg p fun y => y.windows[n].a.toNat
  | .fwinb p n => s.partReg p fun y => y.windows[n].b.toNat
  | .fexpa p n => s.partReg p fun y => y.exports[n].a.toNat
  | .fexpb p n => s.partReg p fun y => y.exports[n].b.toNat
  | .route n => some ((s.fabric.route n.val).zeroExtend 64)

/-- Change a window of partition p. -/
def State.modWindow (s : State) (p : Nat) (n : Fin 16) (f : Window → Window) : State :=
  s.modPart p fun y => { y with windows := y.windows.set n (f y.windows[n]) }

/-- The write of a register that exists (R6: read-only fields keep their values). -/
def State.writeReg (s : State) (r : RegRef) (v : W64) : State :=
  match r with
  | .l2lim d => s.writeL2lim d v.toNat
  | .l2part d => if v.toNat % 8 ≤ 4 then s.modDie d fun y => { y with tbits := Fin.ofNat 8 v.toNat } else s
  | .dsched d => s.modDie d fun y => y.writeDsched v.toNat
  | .pcap p => (s.modPart p fun y => { y with pcap := v.extractLsb' 0 16 }).relevel
  | .prank p => (s.modPart p fun y => { y with prank := Fin.ofNat 16 v.toNat }).relevel
  | .account c n => s.modCtx c fun x => x.writeAccount n.val (v.extractLsb' 0 48)
  | .hbmflr p => s.writeHbmflr p v.toNat
  | .lppark => s.writeLppark v.toNat
  | .moncfg d n => s.modMonitor d n fun m => m.write (v.extractLsb' 0 32)
  | .fnode => s.writeFnode v
  | .fwina p n => s.modWindow p n fun w => { w with a := v }
  | .fwinb p n => s.modWindow p n fun w => { w with b := v }
  | .fexpa p n => (match s.ctx p with
      | some c => s.writeExport c n fun w => { w with a := v &&& 0xFFFFFFFFF }
      | none => s)
  | .fexpb p n => (match s.ctx p with
      | some c => s.writeExport c n fun w => { w with b := v &&& expbMask }
      | none => s)
  | .route n => ({ s with fabric := s.fabric.writeRoute n.val (v.extractLsb' 0 32) } : State).resend
  | .ppower _ | .pthrot _ | .pkgpwr | .rbcount _ | .monmin _ _ | .monmax _ _ | .monhist _ _ _ | .fstat => s

/-- READ_REGISTER (R387). -/
def execReadRegister (r : RegRef) (s : State) : Host.Outcome State Fault Refusal :=
  .next (s.command (match s.readReg r with
    | some v => s.success v
    | none => s.invalid))

/-- Write a register through the mailbox (R387). -/
def State.registerCommand (s : State) (r : RegRef) (v : W64) : State :=
  s.command (if (s.readReg r).isSome then (s.writeReg r v).success 0 else s.invalid)

/-- WRITE_REGISTER (R387). -/
def execWriteRegister (r : RegRef) (v : W64) (s : State) : Host.Outcome State Fault Refusal := .next (s.registerCommand r v)

/-- L2LIM_WRITE (R289, R290). -/
def execL2limWrite (d : DieId) (v : BitVec 32) (s : State) : Host.Outcome State Fault Refusal :=
  .next (s.registerCommand (.l2lim d) (v.zeroExtend 64))

/-- MONITOR_CLEAR (R385): a write of MONCFG with CLR set and the other fields as they stand. -/
def execMonitorClear (d : DieId) (n : Fin 16) (s : State) : Host.Outcome State Fault Refusal :=
  .next (s.registerCommand (.moncfg d n) (((s.die d).monitors[n].cfg ||| 0x40000000#32).zeroExtend 64))

/-- MONITOR_SAMPLE (R385). -/
def execMonitorSample (d : DieId) (n : Fin 16) (v : BitVec 32) (s : State) : Host.Outcome State Fault Refusal :=
  .next (s.modMonitor d n fun m => m.sample v)

/-- PHASE_ACCOUNT_WRITE (R360). -/
def execPhaseAccountWrite (c : Nat) (n : Fin 256) (v : BitVec 48) (s : State) : Host.Outcome State Fault Refusal :=
  .next (s.registerCommand (.account c n) (v.zeroExtend 64))

/-- FNODE_WRITE (R399). -/
def execFnodeWrite (v : W64) (s : State) : Host.Outcome State Fault Refusal := .next (s.registerCommand .fnode v)

end Sys2Proof.Machine
end

