-- ==== Sys2Proof/Machine/Hash.lean ====
section
/-! DEFINITION. The hash functions that the signatures of R348 name (spec/19_power.md): SHA-256, SHA-384 and SHA-512 of FIPS 180-4, and
what RFC 8017 and FIPS 205 build from them: MGF1 and HMAC (notes/assumptions/98.md). -/

namespace Sys2Proof.Machine

open Sys2Proof

/-- The number whose bytes, most significant first, are given. -/
def beNat (bs : List Byte) : Nat := leNat bs.reverse

/-- The n bytes of v, most significant first. -/
def beBytes (n v : Nat) : List Byte := (leBytes n v).reverse

/-- Round constants 0 to 15. -/
def shaConsts0 : List W64 :=
  [0x428A2F98D728AE22, 0x7137449123EF65CD, 0xB5C0FBCFEC4D3B2F, 0xE9B5DBA58189DBBC,
    0x3956C25BF348B538, 0x59F111F1B605D019, 0x923F82A4AF194F9B, 0xAB1C5ED5DA6D8118,
    0xD807AA98A3030242, 0x12835B0145706FBE, 0x243185BE4EE4B28C, 0x550C7DC3D5FFB4E2,
    0x72BE5D74F27B896F, 0x80DEB1FE3B1696B1, 0x9BDC06A725C71235, 0xC19BF174CF692694]

/-- Round constants 16 to 31. -/
def shaConsts1 : List W64 :=
  [0xE49B69C19EF14AD2, 0xEFBE4786384F25E3, 0x0FC19DC68B8CD5B5, 0x240CA1CC77AC9C65,
    0x2DE92C6F592B0275, 0x4A7484AA6EA6E483, 0x5CB0A9DCBD41FBD4, 0x76F988DA831153B5,
    0x983E5152EE66DFAB, 0xA831C66D2DB43210, 0xB00327C898FB213F, 0xBF597FC7BEEF0EE4,
    0xC6E00BF33DA88FC2, 0xD5A79147930AA725, 0x06CA6351E003826F, 0x142929670A0E6E70]

/-- Round constants 32 to 47. -/
def shaConsts2 : List W64 :=
  [0x27B70A8546D22FFC, 0x2E1B21385C26C926, 0x4D2C6DFC5AC42AED, 0x53380D139D95B3DF,
    0x650A73548BAF63DE, 0x766A0ABB3C77B2A8, 0x81C2C92E47EDAEE6, 0x92722C851482353B,
    0xA2BFE8A14CF10364, 0xA81A664BBC423001, 0xC24B8B70D0F89791, 0xC76C51A30654BE30,
    0xD192E819D6EF5218, 0xD69906245565A910, 0xF40E35855771202A, 0x106AA07032BBD1B8]

/-- Round constants 48 to 63. -/
def shaConsts3 : List W64 :=
  [0x19A4C116B8D2D0C8, 0x1E376C085141AB53, 0x2748774CDF8EEB99, 0x34B0BCB5E19B48A8,
    0x391C0CB3C5C95A63, 0x4ED8AA4AE3418ACB, 0x5B9CCA4F7763E373, 0x682E6FF3D6B2B8A3,
    0x748F82EE5DEFB2FC, 0x78A5636F43172F60, 0x84C87814A1F0AB72, 0x8CC702081A6439EC,
    0x90BEFFFA23631E28, 0xA4506CEBDE82BDE9, 0xBEF9A3F7B2C67915, 0xC67178F2E372532B]

/-- Round constants 64 to 79. -/
def shaConsts4 : List W64 :=
  [0xCA273ECEEA26619C, 0xD186B8C721C0C207, 0xEADA7DD6CDE0EB1E, 0xF57D4F7FEE6ED178,
    0x06F067AA72176FBA, 0x0A637DC5A2C898A6, 0x113F9804BEF90DAE, 0x1B710B35131C471B,
    0x28DB77F523047D84, 0x32CAAB7B40C72493, 0x3C9EBE0A15C9BEBC, 0x431D67C49C100D4C,
    0x4CC5D4BECB3E42B6, 0x597F299CFC657E2A, 0x5FCB6FAB3AD6FAEC, 0x6C44198C4A475817]

/-- The round constants of SHA-512; the upper halves of the first 64 are those of SHA-256. -/
def shaConsts : List W64 := shaConsts0 ++ shaConsts1 ++ shaConsts2 ++ shaConsts3 ++ shaConsts4

/-- The first value of SHA-512; the upper halves are that of SHA-256. -/
def shaFirst : List W64 :=
  [0x6A09E667F3BCC908, 0xBB67AE8584CAA73B, 0x3C6EF372FE94F82B, 0xA54FF53A5F1D36F1,
    0x510E527FADE682D1, 0x9B05688C2B3E6C1F, 0x1F83D9ABFB41BD6B, 0x5BE0CD19137E2179]

/-- The first value of SHA-384. -/
def sha384First : List W64 :=
  [0xCBBB9D5DC1059ED8, 0x629A292A367CD507, 0x9159015A3070DD17, 0x152FECD8F70E5939,
    0x67332667FFC00B31, 0x8EB44A8768581511, 0xDB0C2E0D64F98FA7, 0x47B5481DBEFA4FA4]

/-- The rotations that make a hash of words of w bits: of a, of e, and of the two sums of the schedule, whose last item is a shift. -/
structure ShaForm where
  ofA : Nat × Nat × Nat
  ofE : Nat × Nat × Nat
  low : Nat × Nat × Nat
  high : Nat × Nat × Nat

/-- SHA-256, and SHA-512 with SHA-384. -/
def sha256Form : ShaForm := { ofA := (2, 13, 22), ofE := (6, 11, 25), low := (7, 18, 3), high := (17, 19, 10) }
def sha512Form : ShaForm := { ofA := (28, 34, 39), ofE := (14, 18, 41), low := (1, 8, 7), high := (19, 61, 6) }

/-- Three rotations. -/
def turned {w : Nat} (r : Nat × Nat × Nat) (x : BitVec w) : BitVec w :=
  x.rotateRight r.1 ^^^ x.rotateRight r.2.1 ^^^ x.rotateRight r.2.2

/-- Two rotations and a shift. -/
def shifted {w : Nat} (r : Nat × Nat × Nat) (x : BitVec w) : BitVec w :=
  x.rotateRight r.1 ^^^ x.rotateRight r.2.1 ^^^ (x >>> r.2.2)

/-- One round with constant k: the eight working words and the next 16 words of the schedule. -/
def shaRound {w : Nat} (f : ShaForm) (st : List (BitVec w) × List (BitVec w)) (k : BitVec w) : List (BitVec w) × List (BitVec w) :=
  match st with
  | ([a, b, c, d, e, g, h, i], x :: r) =>
    let t := i + turned f.ofE e + ((e &&& g) ^^^ (~~~e &&& h)) + k + x
    let u := turned f.ofA a + ((a &&& b) ^^^ (a &&& c) ^^^ (b &&& c))
    ([t + u, a, b, c, d + t, e, g, h], r ++ [shifted f.high (r.getD 13 0) + r.getD 8 0 + shifted f.low (r.getD 0 0) + x])
  | _ => st

/-- One block, of 16 words. -/
def shaBlock {w : Nat} (f : ShaForm) (ks v block : List (BitVec w)) : List (BitVec w) :=
  v.zipWith (· + ·) (ks.foldl (shaRound f) (v, block)).1

/-- The message with its padding: a one bit, zeros, and its length in bits in two words of n bytes. -/
def shaPadded (n : Nat) (msg : List Byte) : List Byte :=
  let len := msg.length + 1 + 2 * n
  msg ++ [0x80#8] ++ List.replicate ((len + 16 * n - 1) / (16 * n) * (16 * n) - len) 0#8 ++ beBytes (2 * n) (8 * msg.length)

/-- The n-byte words of a byte string, k of them. -/
def beWords (w n k : Nat) (bs : List Byte) : List (BitVec w) :=
  (List.range k).map fun i => BitVec.ofNat w (beNat ((bs.drop (n * i)).take n))

/-- The next k blocks, of 16 words of n bytes each. -/
def shaBlocks {w : Nat} (f : ShaForm) (ks : List (BitVec w)) (n : Nat) : Nat → List Byte → List (BitVec w) → List (BitVec w)
  | 0, _, v => v
  | k + 1, bs, v => shaBlocks f ks n k (bs.drop (16 * n)) (shaBlock f ks v (beWords w n 16 (bs.take (16 * n))))

/-- The hash of a message in words of w bits, n bytes. -/
def shaOf {w : Nat} (f : ShaForm) (ks : List (BitVec w)) (n : Nat) (first : List (BitVec w)) (msg : List Byte) : List Byte :=
  let bs := shaPadded n msg
  (shaBlocks f ks n (bs.length / (16 * n)) bs first).flatMap fun x => beBytes n x.toNat

/-- SHA-256. -/
def sha256 (msg : List Byte) : List Byte :=
  shaOf sha256Form ((shaConsts.take 64).map (·.extractLsb' 32 32)) 4 (shaFirst.map (·.extractLsb' 32 32)) msg

/-- SHA-512. -/
def sha512 (msg : List Byte) : List Byte := shaOf sha512Form shaConsts 8 shaFirst msg

/-- SHA-384. -/
def sha384 (msg : List Byte) : List Byte := (shaOf sha512Form shaConsts 8 sha384First msg).take 48

/-- MGF1 with a hash of n bytes: len bytes from a seed. -/
def mgf1 (hash : List Byte → List Byte) (n : Nat) (seed : List Byte) (len : Nat) : List Byte :=
  ((List.range ((len + n - 1) / n)).flatMap fun i => hash (seed ++ beBytes 4 i)).take len

/-- Two byte strings, bit by bit exclusive. -/
def xorBytes (a b : List Byte) : List Byte := a.zipWith (· ^^^ ·) b

/-- HMAC with SHA-512, for a key of at most 128 bytes. -/
def hmac512 (key msg : List Byte) : List Byte :=
  let k := key ++ List.replicate (128 - key.length) 0#8
  sha512 (k.map (· ^^^ 0x5C#8) ++ sha512 (k.map (· ^^^ 0x36#8) ++ msg))

end Sys2Proof.Machine
end

