-- ==== Sys2Proof/Machine/Sign.lean ====
section
/-! DEFINITION. The two signature schemes of R348 (spec/19_power.md; R388 and R389 of spec/20_package.md name the same ones):
RSASSA-PSS as RFC 8017 defines it and SLH-DSA as FIPS 205 does (notes/assumptions/98.md). -/

namespace Sys2Proof.Machine

open Sys2Proof

/-! ## RSASSA-PSS: a modulus of 3,072 bits, SHA-384, MGF1 with SHA-384, a salt of 48 bytes -/

/-- b to the e modulo n, for an exponent of at most 3,072 bits. -/
def powMod (n b e : Nat) : Nat :=
  (List.range 3072).foldr (fun i r => let q := r * r % n; if e.testBit i then q * b % n else q) (1 % n)

/-- The hash that the encoded message carries. -/
def pssHash (msg salt : List Byte) : List Byte := sha384 (List.replicate 8 0#8 ++ sha384 msg ++ salt)

/-- A byte string without its first bit: the encoded message has 3,071 bits. -/
def lessTopBit : List Byte → List Byte
  | [] => []
  | b :: r => (b &&& 0x7F#8) :: r

/-- The encoded message: the masked salt behind its padding, the hash, 0xBC. -/
def pssEncode (msg salt : List Byte) : List Byte :=
  let h := pssHash msg salt
  let db := List.replicate 286 0#8 ++ [1#8] ++ salt
  lessTopBit (xorBytes db (mgf1 sha384 48 h 335)) ++ h ++ [0xBC#8]

/-- An encoded message is that of msg, with whatever salt. -/
def pssMatches (msg em : List Byte) : Bool :=
  let h := (em.drop 335).take 48
  let db := lessTopBit (xorBytes (em.take 335) (mgf1 sha384 48 h 335))
  em.drop 383 == [0xBC#8] && em.take 1 == lessTopBit (em.take 1) && zeroBytes db 0 286 && (db.drop 286).take 1 == [1#8]
    && h == pssHash msg (db.drop 287)

/-- A signature verifies under a modulus and an exponent. -/
def rsaVerifies (n e : Nat) (msg sig : List Byte) : Bool :=
  sig.length == 384 && decide (beNat sig < n) && pssMatches msg (beBytes 384 (powMod n (beNat sig) e))

/-- The signature under a modulus and a private exponent, with a salt. -/
def rsaSign (n d : Nat) (salt msg : List Byte) : List Byte := beBytes 384 (powMod n (beNat (pssEncode msg salt)) d)

/-! ## SLH-DSA, parameter set SHA2-192s: n = 24, h = 63, d = 7, h' = 9, a = 14, k = 17, w = 16, m = 39 -/

/-- An address: layer, tree, type, three words. -/
structure Adrs where
  layer : Nat
  tree : Nat
  kind : Nat
  pair : Nat
  second : Nat
  third : Nat

/-- The compressed address. -/
def Adrs.bytes (x : Adrs) : List Byte :=
  beBytes 1 x.layer ++ beBytes 8 x.tree ++ beBytes 1 x.kind ++ beBytes 4 x.pair ++ beBytes 4 x.second ++ beBytes 4 x.third

/-- The functions F and PRF, of one value. -/
def slhF (seed : List Byte) (x : Adrs) (m : List Byte) : List Byte :=
  (sha256 (seed ++ List.replicate 40 0#8 ++ x.bytes ++ m)).take 24

/-- The functions H and T, of several values. -/
def slhH (seed : List Byte) (x : Adrs) (m : List Byte) : List Byte :=
  (sha512 (seed ++ List.replicate 104 0#8 ++ x.bytes ++ m)).take 24

/-- n digits of b bits of a byte string, the most significant first. -/
def baseDigits (b n : Nat) (bs : List Byte) : List Nat :=
  (List.range n).map fun i => beNat bs / 2 ^ (8 * bs.length - b * (i + 1)) % 2 ^ b

/-- n steps of a chain from place i. -/
def wotsChain (seed : List Byte) (x : Adrs) : Nat → Nat → List Byte → List Byte
  | _, 0, m => m
  | i, n + 1, m => wotsChain seed x (i + 1) n (slhF seed { x with third := i } m)

/-- The 51 digits of a 24-byte value: 48 of its own, 3 of their checksum. -/
def wotsDigits (m : List Byte) : List Nat :=
  let ds := baseDigits 4 48 m
  ds ++ baseDigits 4 3 (beBytes 2 (16 * (ds.map (15 - ·)).sum))

/-- The secret value of chain i of the key pair that an address names. -/
def wotsSecret (sk seed : List Byte) (x : Adrs) (i : Nat) : List Byte := slhF seed { x with kind := 5, second := i, third := 0 } sk

/-- The public value from the ends of the chains. -/
def wotsPublic (seed : List Byte) (x : Adrs) (ends : List (List Byte)) : List Byte :=
  slhH seed { x with kind := 1, second := 0, third := 0 } ends.flatten

/-- The public value of a key pair. -/
def wotsKey (sk seed : List Byte) (x : Adrs) : List Byte :=
  wotsPublic seed x ((List.range 51).map fun i => wotsChain seed { x with second := i } 0 15 (wotsSecret sk seed x i))

/-- The one-time signature of a 24-byte value. -/
def wotsSign (sk seed : List Byte) (x : Adrs) (m : List Byte) : List Byte :=
  (wotsDigits m).zipIdx.flatMap fun p => wotsChain seed { x with second := p.2 } 0 p.1 (wotsSecret sk seed x p.2)

/-- The public value that a one-time signature of m leads to. -/
def wotsFrom (seed : List Byte) (x : Adrs) (m sig : List Byte) : List Byte :=
  wotsPublic seed x ((wotsDigits m).zipIdx.map fun p =>
    wotsChain seed { x with second := p.2 } p.1 (15 - p.1) ((sig.drop (24 * p.2)).take 24))

/-- Node i at height z of a tree whose leaves are given; the address names the tree. -/
def treeNode (seed : List Byte) (x : Adrs) (leaf : Nat → List Byte) : Nat → Nat → List Byte
  | 0, i => leaf i
  | z + 1, i => slhH seed { x with second := z + 1, third := i }
      (treeNode seed x leaf z (2 * i) ++ treeNode seed x leaf z (2 * i + 1))

/-- The siblings on the way up from leaf i through n levels. -/
def treePath (seed : List Byte) (x : Adrs) (leaf : Nat → List Byte) (i n : Nat) : List Byte :=
  (List.range n).flatMap fun j => treeNode seed x leaf j (i / 2 ^ j ^^^ 1)

/-- The node n levels above leaf i, from the leaf's value and the siblings. -/
def treeClimb (seed : List Byte) (x : Adrs) (i n : Nat) (path leaf : List Byte) : List Byte :=
  (List.range n).foldl (fun m j =>
    let sib := (path.drop (24 * j)).take 24
    slhH seed { x with second := j + 1, third := i / 2 ^ (j + 1) } (if i / 2 ^ j % 2 = 0 then m ++ sib else sib ++ m)) leaf

/-- The address of a tree of the hypertree, and of a key pair of it. -/
def xmssTree (layer tree : Nat) : Adrs := { layer := layer, tree := tree, kind := 2, pair := 0, second := 0, third := 0 }
def xmssPair (layer tree i : Nat) : Adrs := { xmssTree layer tree with kind := 0, pair := i }

/-- The value of leaf i of a tree of the hypertree. -/
def xmssLeaf (sk seed : List Byte) (layer tree i : Nat) : List Byte := wotsKey sk seed (xmssPair layer tree i)

/-- The root that one layer's signature of m leads to: 51 values, 9 siblings. -/
def xmssFrom (seed : List Byte) (layer tree i : Nat) (m sig : List Byte) : List Byte :=
  treeClimb seed (xmssTree layer tree) i 9 (sig.drop 1224) (wotsFrom seed (xmssPair layer tree i) m (sig.take 1224))

/-- One layer's signature of m by key pair i. -/
def xmssSign (sk seed : List Byte) (layer tree i : Nat) (m : List Byte) : List Byte :=
  wotsSign sk seed (xmssPair layer tree i) m ++ treePath seed (xmssTree layer tree) (xmssLeaf sk seed layer tree) i 9

/-- The tree and the key pair of a layer of the hypertree, from those of layer 0. -/
def htTree (tree layer : Nat) : Nat := tree / 2 ^ (9 * layer)
def htLeaf (tree leaf : Nat) : Nat → Nat
  | 0 => leaf
  | j + 1 => htTree tree j % 512

/-- The root of layer 6 that a hypertree signature of m leads to. -/
def htFrom (seed : List Byte) (tree leaf : Nat) (m sig : List Byte) : List Byte :=
  (List.range 7).foldl (fun v j => xmssFrom seed j (htTree tree j) (htLeaf tree leaf j) v ((sig.drop (1440 * j)).take 1440)) m

/-- The hypertree signature of m: each layer signs the root of the one below. -/
def htSign (sk seed : List Byte) (tree leaf : Nat) (m : List Byte) : List Byte :=
  ((List.range 7).foldl (fun (r : List Byte × List Byte) j =>
    let sig := xmssSign sk seed j (htTree tree j) (htLeaf tree leaf j) r.2
    (r.1 ++ sig, xmssFrom seed j (htTree tree j) (htLeaf tree leaf j) r.2 sig)) ([], m)).1

/-- The address of the FORS trees of a key pair. -/
def forsTree (tree leaf : Nat) : Adrs := { layer := 0, tree := tree, kind := 3, pair := leaf, second := 0, third := 0 }

/-- The secret value of FORS leaf i, and the leaf. -/
def forsSecret (sk seed : List Byte) (x : Adrs) (i : Nat) : List Byte := slhF seed { x with kind := 6, second := 0, third := i } sk
def forsLeaf (sk seed : List Byte) (x : Adrs) (i : Nat) : List Byte := slhF seed { x with third := i } (forsSecret sk seed x i)

/-- The leaf that the digest selects in each of the 17 trees of 2^14 leaves. -/
def forsLeaves (md : List Byte) : List Nat := (baseDigits 14 17 md).zipIdx.map fun p => p.2 * 2 ^ 14 + p.1

/-- The FORS public value that a signature leads to: for each tree, a secret value and 14 siblings. -/
def forsFrom (seed : List Byte) (x : Adrs) (md sig : List Byte) : List Byte :=
  slhH seed { x with kind := 4 } ((forsLeaves md).zipIdx.flatMap fun p =>
    let part := (sig.drop (360 * p.2)).take 360
    treeClimb seed x p.1 14 (part.drop 24) (slhF seed { x with third := p.1 } (part.take 24)))

/-- The FORS signature of a digest. -/
def forsSign (sk seed : List Byte) (x : Adrs) (md : List Byte) : List Byte :=
  (forsLeaves md).flatMap fun i => forsSecret sk seed x i ++ treePath seed x (forsLeaf sk seed x) i 14

/-- What a signature signs in the pure form with an empty context. -/
def slhMessage (msg : List Byte) : List Byte := [0#8, 0#8] ++ msg

/-- The digest of a message: 30 bytes for FORS, then the tree and the key pair. -/
def slhDigest (r seed root msg : List Byte) : List Byte × Nat × Nat :=
  let d := mgf1 sha512 64 (r ++ seed ++ sha512 (r ++ seed ++ root ++ slhMessage msg)) 39
  (d.take 30, beNat ((d.drop 30).take 7) % 2 ^ 54, beNat (d.drop 37) % 512)

/-- A signature verifies under a public key. -/
def slhVerifies (seed root msg sig : List Byte) : Bool :=
  let (md, tree, leaf) := slhDigest (sig.take 24) seed root msg
  sig.length == 16224 && htFrom seed tree leaf (forsFrom seed (forsTree tree leaf) md ((sig.drop 24).take 6120)) (sig.drop 6144) == root

/-- The root of a key: that of the one tree of layer 6. -/
def slhRoot (sk seed : List Byte) : List Byte := treeNode seed (xmssTree 6 0) (xmssLeaf sk seed 6 0) 9 0

/-- The signature under a private key (two secret seeds and the public one), with a random value. -/
def slhSign (sk prf seed rnd msg : List Byte) : List Byte :=
  let r := (hmac512 prf (rnd ++ slhMessage msg)).take 24
  let (md, tree, leaf) := slhDigest r seed (slhRoot sk seed) msg
  let x := forsTree tree leaf
  let sig := forsSign sk seed x md
  r ++ sig ++ htSign sk seed tree leaf (forsFrom seed x md sig)

/-! ## The keys (R348) -/

/-- Both signatures of some content verify against the facility keys. -/
def facilitySigned (content rsa slh : List Byte) : Bool :=
  rsaVerifies Config.facilityModulus Config.facilityExponent.toNat content rsa
    && slhVerifies Config.facilitySeed.toList Config.facilityRoot.toList content slh

/-- The module's RSA signature of some content, with the salt of use n. -/
def moduleRsa (n : Nat) (content : List Byte) : List Byte :=
  rsaSign Config.moduleModulus Config.modulePrivate.toNat (Config.signSalt n).toList content

/-- The module's SLH-DSA signature of some content, with the random value of use n. -/
def moduleSlh (n : Nat) (content : List Byte) : List Byte :=
  slhSign Config.moduleSecret.toList Config.modulePrf.toList Config.moduleSeed.toList (Config.signRandom n).toList content

end Sys2Proof.Machine
end

