-- ==== Sys2Proof/Machine/Bringup.lean ====
section
/-! DEFINITION. Bring-up, attestation, loss of power (spec/20_package.md R388-R392). -/

namespace Sys2Proof.Machine

open Sys2Proof

/-- The DSWAYS of the signed configuration (R391). -/
def configuredWays : Nat := Config.dswaysRaw.val

/-- POWER_ON (R388, R390): after a failed check only the DOE mailbox answers; else the lowest die whose self-test passes serves. -/
def execPowerOn (s : State) : Host.Outcome State Fault Refusal :=
  .next (if s.service != .unpowered then s
    else match Config.bootVerifies, (List.finRange 8).find? Config.selfTest with
      | true, some d => { s with service := .reduced, serving := some d }
      | _, _ => { s with service := .bootFailed })

/-- Retire every channel of a stack (R359, R390). -/
def State.retireStack (s : State) (d : Fin 8) : State :=
  (List.finRange 32).foldl (fun t ch => t.retireChan (Fin.ofNat 9 d.val, ch)) s

/-- TRAINING_COMPLETE (R390, R391): stacks and links that failed are retired, every resident unit receives the tenant reason. -/
def execTrainingComplete (badStacks badLinks : BitVec 8) (s : State) : Host.Outcome State Fault Refusal :=
  .next (if s.service != .reduced then s
    else
      let t := ((List.finRange 8).filter fun d => badStacks.getLsbD d.val).foldl State.retireStack
        { s with service := .draining, failedStacks := badStacks, failedLinks := badLinks }
      (t.holding fun _ => true).foldl (fun u c => u.addReason c reasonTenant) t)

/-- FULL_SERVICE_START (R391): the serving die is empty; DSWAYS is written, the limits lift. -/
def execFullServiceStart (s : State) : Host.Outcome State Fault Refusal :=
  .next (match s.service, s.serving with
    | .draining, some d =>
      if (dieCores d).all fun c => (s.resident c).isNone then
        let t := (List.finRange 8).foldl (fun u e => u.setWays e configuredWays) s
        { t with service := .full }
      else s
    | _, _ => s)

/-- MODULE_POWER_REMOVAL (R388): all device state is lost but the non-volatile store, which holds the last SEQ accepted of each
type of message; host memory is not the device's, and what the package has told stands. -/
def execModulePowerRemoval (s : State) : Host.Outcome State Fault Refusal :=
  let mine (a : Nat) : Bool := regionOf a == .host
  .next { State.reset with
    core := s.core, stream := s.stream, agenda := s.agenda, fresh := s.fresh,
    mem := s.mem.filter fun c => mine c.1, memBad := s.memBad.filter mine,
    power := { Power.reset with lastCurveSeq := s.power.lastCurveSeq, lastCapsSeq := s.power.lastCapsSeq,
                                periods := s.power.periods },
    host := { State.reset.host with replies := s.host.replies } }

/-! ## The capability list -/

/-- A record of the capability list (R392). -/
inductive CapRecord where
  | service (service : Fin 3) (serving : Option DieId) (failedStacks failedLinks : BitVec 8)
  | topology (dies : Nat) (present retired : BitVec 64)
  | memory (stackMask : BitVec 8) (lpBytes dsways largestTbits : Nat) (retired : List (Fin 9 × Fin 32))
  | fabric (present trained : BitVec 32)
  | firmware (rom barchan config security : Nat)
  | power (pmax orphanCap : Nat) (module : W64) (groups : List W64)
  deriving DecidableEq, Repr

/-- ID of a record (R392). -/
def CapRecord.id : CapRecord → Nat
  | .service _ _ _ _ => 1
  | .topology _ _ _ => 2
  | .memory _ _ _ _ _ => 3
  | .fabric _ _ => 4
  | .firmware _ _ _ _ => 5
  | .power _ _ _ _ => 6

/-- SERVICE (R392): 0 reduced, 1 full, 2 reduced because a boot check failed. -/
def Service.code : Service → Fin 3
  | .full => 1
  | .bootFailed => 2
  | _ => 0

/-- A set as bits. -/
def bitsWhere (w : Nat) (p : Nat → Bool) : BitVec w := BitVec.ofNat w ((List.range w).foldl (fun m i => if p i then m + 2 ^ i else m) 0)

/-- The records of the capability list (R392). -/
def State.capabilities (s : State) : List CapRecord :=
  [.service s.service.code s.serving s.failedStacks s.failedLinks,
   .topology 8 (BitVec.allOnes 64) (bitsWhere 64 fun i => (s.island (Fin.ofNat 64 i)).state == .failed),
   .memory (BitVec.allOnes 8) 0x10000000000 configuredWays 4 s.memctl.retired,
   .fabric (BitVec.allOnes 32) (bitsWhere 32 fun i => s.fabric.ports[Fin.ofNat 32 i].up),
   .firmware Config.versions[0] Config.versions[1] Config.versions[2] Config.securityVersions[0],
   .power (s.power.pmax / 1000) (Config.orphanCap / 1000) Config.moduleId Config.groups]

/-- The numbers that a record holds, in the order of R392. -/
def CapRecord.values : CapRecord → List Nat
  | .service v d a b => [v.val, d.elim 8 fun x => x.val, a.toNat, b.toNat]
  | .topology n a b => [n, a.toNat, b.toNat]
  | .memory a n w t l => [a.toNat, n, w, t] ++ l.flatMap fun x => [x.1.val, x.2.val]
  | .fabric a b => [a.toNat, b.toNat]
  | .firmware a b c d => [a, b, c, d]
  | .power a b m g => [a, b, m.toNat] ++ g.map (·.toNat)

/-- LEN of the record with an ID (R392): in 4-byte units, its header among them. -/
def capLen (id : Nat) : Nat := 2 + (Config.capLen id).val

/-- The offset of record i in configuration space (R392): behind the record before it, so NEXT always exceeds a record's own offset. -/
def capOffset (i : Nat) : Nat := Config.capStart.val + ((List.range i).map fun j => 4 * capLen (j + 1) + (Config.capGap j).val).sum

/-- The header of record i of n (R392): ID, VERSION, LEN, NEXT, reserved bytes. -/
def capHeader (n i : Nat) (r : CapRecord) : List Byte :=
  leBytes 2 r.id ++ [Config.capVersion r.id] ++ leBytes 1 (capLen r.id) ++ leBytes 2 (if i + 1 < n then capOffset (i + 1) else 0)
    ++ leBytes 2 0

/-- The bytes of record i of n (R392): LEN units, the header and its contents in a form that the spec does not give. -/
def capBytes (n i : Nat) (r : CapRecord) : List Byte :=
  capHeader n i r ++ (List.range (4 * capLen r.id - 8)).map fun j => Config.capByte r.id r.values j

/-- The DVSEC that leads to the list (R392): Wysemond's vendor identifier, DVSEC ID 0x0A70, the offset of the first record in bytes
0x0C-0x0D; where the identifiers stand is PCI Express's (notes/assumptions/20.md), the other bytes are free. -/
def dvsec : List Byte :=
  (List.range 4).map Config.dvsecByte ++ leBytes 2 Config.vendorId.toNat ++ (List.range 2).map (fun i => Config.dvsecByte (6 + i))
    ++ leBytes 2 0x0A70 ++ (List.range 2).map (fun i => Config.dvsecByte (10 + i)) ++ leBytes 2 (capOffset 0)

/-- The capability list (R392): the offset, the header and the contents of each record. -/
def State.capabilityList (s : State) : List (Nat × List Byte × CapRecord) :=
  s.capabilities.zipIdx.map fun r => (capOffset r.2, capHeader s.capabilities.length r.2 r.1, r.1)

/-! ## Attestation -/

/-- The messages whose responses are signed: CHALLENGE, GET_MEASUREMENTS and KEY_EXCHANGE (notes/assumptions/91.md). -/
def signedResponse (code : Fin 9) : Bool := code == 5 || code == 6 || code == 7

/-- The type of the OpaqueData element that holds the SLH-DSA signature (R389). -/
def slhElement : Nat := 0x0001

/-- The response to an SPDM request (R389): its body, which reports the measurements where they are asked for; a signed one carries
an SLH-DSA signature over the transcript's hash in its OpaqueData, and ends in the RSA signature of the transcript, with SHA-384. -/
def spdmReply (n : Nat) (code : Fin 9) (script : List Byte) : Reply :=
  let body := Config.spdmBody code.val script (if code = 6 then Config.measurements.toList else [])
  if signedResponse code then
    .spdm body [(slhElement, moduleSlh n (sha384 (script ++ body)))] (moduleRsa n (script ++ body))
  else .spdm body [] []

/-- Answer an SPDM request over DOE (R389), from the requests so far; the DOE mailbox answers whenever the module has power
(R388). -/
def State.answerSpdm (s : State) (code : Fin 9) (req : List Byte) : State :=
  if s.service = .unpowered then s
  else
    let script := (code, req) :: (if code = 0 then [] else s.host.spdm)
    let keyed := script.any fun r => r.1 == 7
    let open_ := (code == 8 && keyed) || (code != 0 && s.host.session)
    ({ s with host := { s.host with spdm := script, session := open_ }, fresh := s.fresh + 1 } : State).reply
      (spdmReply s.fresh code (script.reverse.map (·.2)).flatten)

/-- GET_VERSION (R389): a connection begins. -/
def execGetVersion (req : List Byte) (s : State) : Host.Outcome State Fault Refusal := .next (s.answerSpdm 0 req)

/-- GET_CAPABILITIES (R389). -/
def execGetCapabilities (req : List Byte) (s : State) : Host.Outcome State Fault Refusal := .next (s.answerSpdm 1 req)

/-- NEGOTIATE_ALGORITHMS (R389). -/
def execNegotiateAlgorithms (req : List Byte) (s : State) : Host.Outcome State Fault Refusal := .next (s.answerSpdm 2 req)

/-- GET_DIGESTS (R389). -/
def execGetDigests (req : List Byte) (s : State) : Host.Outcome State Fault Refusal := .next (s.answerSpdm 3 req)

/-- GET_CERTIFICATE (R389). -/
def execGetCertificate (req : List Byte) (s : State) : Host.Outcome State Fault Refusal := .next (s.answerSpdm 4 req)

/-- CHALLENGE (R389). -/
def execChallenge (req : List Byte) (s : State) : Host.Outcome State Fault Refusal := .next (s.answerSpdm 5 req)

/-- GET_MEASUREMENTS (R389). -/
def execGetMeasurements (req : List Byte) (s : State) : Host.Outcome State Fault Refusal := .next (s.answerSpdm 6 req)

/-- KEY_EXCHANGE (R389). -/
def execKeyExchange (req : List Byte) (s : State) : Host.Outcome State Fault Refusal := .next (s.answerSpdm 7 req)

/-- FINISH (R389): a session whose keys were exchanged is complete. -/
def execFinish (req : List Byte) (s : State) : Host.Outcome State Fault Refusal := .next (s.answerSpdm 8 req)

end Sys2Proof.Machine
end

