-- ==== Sys2Proof/Machine/Curtail.lean ====
section
/-! DEFINITION. Power (spec/19_power.md R345-R370): Swinu messages, measurement, the scheduler period, the grades; the stacks that
park migrates and row sparing (spec/20_package.md R378-R380). -/

namespace Sys2Proof.Machine

open Sys2Proof

/-! ## Messages -/

/-- The length of a message with a body of n bytes (R346). -/
def swinuLength (n : Nat) : Nat := 64 + n + 384 + 16224

/-- The points of a curve body (R347). -/
def curvePoints (body : List Byte) (n : Nat) : List (Nat × Nat) :=
  (List.range n).map fun i => (fieldNat body (16 + 16 * i) 8, fieldNat body (24 + 16 * i) 4)

/-- Ticks strictly ascending (R347). -/
def ascending : List (Nat × Nat) → Bool
  | a :: b :: r => decide (a.1 < b.1) && ascending (b :: r)
  | _ => true

/-- The first check of R349. -/
def swinuForm (msg : List Byte) : Bool :=
  let f := fieldNat msg
  let n := f 0x28 4
  let body := msg.drop 64
  decide (64 ≤ msg.length) && f 0 4 == 0x53574E55 && f 4 2 == 1 && (f 6 1 == 1 || f 6 1 == 2) && f 7 1 == 0 && zeroBytes msg 0x2C 20
    && decide (f 0x18 8 < f 0x20 8) && msg.length == swinuLength n
    && (if f 6 1 = 1 then
        let k := fieldNat body 0 2
        1 ≤ k && k ≤ 256 && n == 16 + 16 * k && zeroBytes body 2 14 && ((List.range k).all fun i => zeroBytes body (28 + 16 * i) 4)
          && ascending (curvePoints body k)
      else n == 64)

/-- Both signatures of a message verify over its header and body (R348). -/
def signaturesVerify (msg : List Byte) : Bool :=
  let n := 64 + fieldNat msg 0x28 4
  facilitySigned (msg.take n) ((msg.drop n).take 384) (msg.drop (n + 384))

/-- The status with which a message is refused, 0 when it is accepted (R349). -/
def State.swinuStatus (s : State) (msg : List Byte) : Nat :=
  let f := fieldNat msg
  let target := BitVec.ofNat 64 (f 0x10 8)
  let seq := BitVec.ofNat 64 (f 8 8)
  let last := if f 6 1 = 1 then s.power.lastCurveSeq else s.power.lastCapsSeq
  if !swinuForm msg then 1
  else if !(target == Config.moduleId || Config.groups.contains target || target == BitVec.allOnes 64) then 2
  else if !signaturesVerify msg then 3
  else if (match last with | some l => !l.ult seq | none => false) then 4
  else if f 0x20 8 ≤ s.tick.toNat then 5
  else 0

/-- The body of an acknowledgement (R349). -/
def State.ackBody (s : State) (status : Nat) (msg : List Byte) : List Byte :=
  leBytes 1 status ++ leBytes 1 s.power.grade.code ++ leBytes 2 0 ++ leBytes 4 ((gatedFloor - s.power.level) / 1000)
    ++ leBytes 8 (fieldNat msg 8 8) ++ leBytes 4 (s.power.measured / 1000) ++ leBytes 12 0

/-- The header of an acknowledgement (R346): TYPE 3; SEQ, TARGET, VFROM and VTO, for which the spec names no values, are free, but
VTO is greater than VFROM (notes/assumptions/87.md). -/
def ackHeader (n : Nat) : List Byte :=
  let v := min (Config.freeWord (n + 2)).toNat (2 ^ 64 - 2)
  leBytes 4 0x53574E55 ++ leBytes 2 1 ++ leBytes 1 3 ++ leBytes 1 0 ++ leBytes 8 (Config.freeWord n).toNat
    ++ leBytes 8 (Config.freeWord (n + 1)).toNat ++ leBytes 8 v ++ leBytes 8 (v + 1 + (Config.freeWord (n + 3)).toNat % (2 ^ 64 - 1 - v))
    ++ leBytes 4 32 ++ leBytes 20 0

/-- Header and body with the signatures of the module (R346, R348), the n-th that it makes. -/
def signedMessage (n : Nat) (content : List Byte) : List Byte := content ++ moduleRsa n content ++ moduleSlh n content

/-- Send an acknowledgement (R346, R348, R349). -/
def State.acknowledge (s : State) (status : Nat) (msg : List Byte) : State :=
  ({ s with fresh := s.fresh + 5 } : State).reply (.ack (signedMessage (s.fresh + 4) (ackHeader s.fresh ++ s.ackBody status msg)))

/-- An accepted curve (R350): in force at once, or waiting until VFROM; it ends the orphan cap (R350, R370). -/
def Power.acceptCurve (p : Power) (c : Curve) (seq : W64) (now : Nat) : Power :=
  let q := { p with lastCurveSeq := some seq, orphanCurve := false }
  if c.vfrom ≤ now then { q with curve := some c, nextCurve := none } else { q with nextCurve := some c }

/-- Accepted rank caps (R350). -/
def Power.acceptCaps (p : Power) (c : RankCaps) (seq : W64) (now : Nat) : Power :=
  let q := { p with lastCapsSeq := some seq }
  if c.vfrom ≤ now then { q with caps := some c, nextCaps := none } else { q with nextCaps := some c }

/-- The content of an accepted message takes its place. -/
def State.acceptMessage (s : State) (msg : List Byte) : State :=
  let f := fieldNat msg
  let body := (msg.drop 64).take (f 0x28 4)
  let seq := BitVec.ofNat 64 (f 8 8)
  let p := if f 6 1 = 1 then
      s.power.acceptCurve { vfrom := f 0x18 8, vto := f 0x20 8, points := curvePoints body (fieldNat body 0 2) } seq s.tick.toNat
    else
      s.power.acceptCaps { vfrom := f 0x18 8, vto := f 0x20 8, caps := (List.range 16).map fun i =>
        let w := fieldNat body (4 * i) 4
        if w = 0xFFFFFFFF then none else some w } seq s.tick.toNat
  ({ s with power := p } : State).relevel

/-- Barchan takes messages: it runs (R388) and does not hang (R369). -/
def State.barchanUp (s : State) : Bool := s.mailboxUp && !s.power.hung

/-- A complete message arrives (R349, R369): dropped where Barchan does not take it, else checked and acknowledged. -/
def State.receiveMessage (s : State) (msg : List Byte) : State :=
  if !s.barchanUp then s
  else match s.swinuStatus msg with
    | 0 =>
      let t := s.acceptMessage msg
      t.acknowledge (if t.power.level < gatedFloor then 6 else 0) msg
    | st => s.acknowledge st msg

/-- CURVE (R347, R349, R350): a message of another TYPE is for RANK_CAPS. -/
def execCurve (msg : List Byte) (s : State) : Host.Outcome State Fault Refusal :=
  .next (if fieldNat msg 6 1 = 2 then s else s.receiveMessage msg)

/-- RANK_CAPS (R347, R349, R350). -/
def execRankCaps (msg : List Byte) (s : State) : Host.Outcome State Fault Refusal :=
  .next (if fieldNat msg 6 1 = 1 then s else s.receiveMessage msg)

/-- Bytes of a fragment, fragments of a message, open messages (R345). -/
def fragmentBytes : Nat := 1400
def maxFragments : Nat := 18
def maxAssemblies : Nat := 4

/-- A message with all of its fragments, in order. -/
def Assembly.whole (a : Assembly) : Option (List Byte) :=
  ((List.range a.count).mapM fun i => (a.parts.find? fun p => p.1 == i).map (·.2)).map List.flatten

/-- A message under reassembly takes a fragment; one it has, or of another count, is dropped. -/
def Assembly.add (a : Assembly) (idx count : Nat) (bytes : List Byte) : Assembly :=
  if a.count = count && !(a.parts.any fun p => p.1 == idx) then { a with parts := a.parts ++ [(idx, bytes)] } else a

/-- The time after its first fragment for which a message is reassembled (R345). -/
def reassemblyTicks : Nat := 5000000

/-- A message is incomplete 5 ms after its first fragment (R345). -/
def Assembly.old (a : Assembly) (now : W64) : Bool := decide (a.since.toNat + reassemblyTicks ≤ now.toNat)

/-- A fragment is well formed (R345), its bytes from byte 12 on given: a whole header with its reserved bytes zero, a count of 1 to
18 above its index, at most 1,400 bytes of message. -/
def fragmentOk (idx count : Nat) (bytes : List Byte) : Bool :=
  decide (4 ≤ bytes.length) && decide (bytes.length ≤ 4 + fragmentBytes) && decide (1 ≤ count) && decide (count ≤ maxFragments)
    && decide (idx < count) && zeroBytes bytes 0 4

/-- SWINU_FRAGMENT (R345, R369): one that is not well formed is dropped (notes/assumptions/87.md). -/
def execSwinuFragment (id : W64) (index total : BitVec 16) (rest : List Byte) (s : State) : Host.Outcome State Fault Refusal :=
  let idx := index.toNat
  let count := total.toNat
  .next (if !s.barchanUp || !fragmentOk idx count rest then s
    else
      let bytes := rest.drop 4
      let old := s.power.assemblies.filter fun a => !a.old s.tick
      let here := match old.find? fun a => a.id == id with
        | some a => some (a.add idx count bytes)
        | none =>
          if maxAssemblies ≤ old.length then none
          else some { id := id, count := count, since := s.tick, parts := [(idx, bytes)] }
      match here with
      | none => s
      | some a =>
        let others := old.filter fun x => x.id != id
        match a.whole with
        | some msg => State.receiveMessage { s with power := { s.power with assemblies := others } } msg
        | none => { s with power := { s.power with assemblies := others ++ [a] } })

/-- SWINU_REASSEMBLY_TIMEOUT (R345): a message still incomplete 5 ms after its first fragment is discarded. -/
def execSwinuReassemblyTimeout (id : W64) (s : State) : Host.Outcome State Fault Refusal :=
  .next { s with power := { s.power with assemblies := s.power.assemblies.filter fun a => !(a.id == id && a.old s.tick) } }

/-- What waits takes effect at its VFROM (R350). -/
def Power.takeEffect (p : Power) (now : Nat) : Power :=
  let q := match p.nextCurve with
    | some c => if c.vfrom ≤ now then { p with curve := some c, nextCurve := none } else p
    | none => p
  match q.nextCaps with
  | some c => if c.vfrom ≤ now then { q with caps := some c, nextCaps := none } else q
  | none => q

/-- MESSAGE_TAKES_EFFECT (R350). -/
def execMessageTakesEffect (s : State) : Host.Outcome State Fault Refusal :=
  .next (State.relevel { s with power := s.power.takeEffect s.tick.toNat })

/-- What is in force expires at its VTO (R350): the orphan cap follows a curve with no successor, no cap follows rank caps. -/
def Power.expire (p0 : Power) (now : Nat) : Power :=
  let p := p0.takeEffect now
  let q := match p.curve with
    | some c => if c.vto ≤ now then { p with curve := none, orphanCurve := p.orphanCurve || p.nextCurve.isNone } else p
    | none => p
  match q.caps with
  | some c => if c.vto ≤ now then { q with caps := none } else q
  | none => q

/-- MESSAGE_EXPIRY (R350). -/
def execMessageExpiry (s : State) : Host.Outcome State Fault Refusal :=
  .next (State.relevel { s with power := s.power.expire s.tick.toNat })

/-! ## Levels of launches -/

/-- The operating point of a level takes effect on core c (R258). -/
def State.applyLevel (s : State) (c : CoreId) (lvl : Fin 8) (l : Launch) : State :=
  let e := l.opEntry (dieOf c) lvl
  let t := State.noteCaps (c := c) <| s.modCore c fun k =>
    { k with sys := { k.sys with level := lvl },
             unit := k.unit.map fun u => match e with
               | some o => { u with caps := o.caps, fdiv := o.fdiv, vlevel := o.vlevel }
               | none => u }
  let u := t.retarget (islandOf c)
  match s.resident c, e with
  | some r, some o => if o.variant = r.variant then u else u.addReason c reasonVariant
  | _, _ => u

/-- Set the grant level of a launch (R258, R354): in every unit at once. -/
def State.setLevel (s : State) (id : Nat) (lvl : Fin 8) : State :=
  match s.launch id with
  | none => s
  | some l =>
    if l.level = lvl then s
    else
      let t := s.modLaunch id fun x => { x with
        level := lvl, gmin := if lvl.val < x.gmin.val then lvl else x.gmin, gmax := if x.gmax.val < lvl.val then lvl else x.gmax }
      (t.holding fun u => u.launch == id).foldl (fun u c => u.applyLevel c lvl l) t

/-- A launch has a unit on a hot die (R353). -/
def State.isHot (s : State) (l : Launch) : Bool :=
  !(s.holding fun u => u.launch == l.id).all fun c => !(s.die (dieOf c)).hot

/-- The levels of the period (R354), lowered by the thermal limiter (R353). -/
def State.periodLevels (s : State) : List (Launch × Nat) :=
  s.scheduledLevels.map fun p => if s.isHot p.1 then (p.1, min p.2 (p.1.level.val - 1)) else p

/-! ## Throttle registers, power and accounts -/

/-- A scope limit by itself would lower a launch of partition p (R355). -/
def State.wouldLower (s : State) (p scope limit : Nat) (inScope : Launch → Bool) : Bool :=
  (s.lowerScope false scope limit inScope s.ceilLevels).any fun x => s.launchIn p x.1 && decide (x.2 < 7)

/-- A package limit by itself would lower or park partition p (R355, R362). -/
def State.packageWould (s : State) (p limit : Nat) : Bool := s.wouldLower p 0 limit (fun _ => true) || decide (limit < s.e0)

/-- A partition limit by itself would lower it. -/
def State.partWould (s : State) (p : Nat) (limit : Option Nat) : Bool :=
  match limit with
  | some l => s.wouldLower p (p + 1) l (s.launchIn p)
  | none => false

/-- A unit of launch l is parked (R355, R364): it was saved with the park reason, and the die of its share is parked. -/
def State.isParked (s : State) (l : Launch) (r : UnitRec) : Bool :=
  (match r.state with | .saved _ p => p.parked | _ => false) && l.shares.any fun x =>
    (s.die x.1).parked && decide ((l.shareUnits x.1).1 ≤ r.num) && decide (r.num < (l.shareUnits x.1).2)

/-- A unit of partition p is parked. -/
def State.hasParked (s : State) (p : Nat) : Bool := s.launches.any fun l => s.launchIn p l && l.units.any (s.isParked l)

/-- The cap that THROT names (R355): the first limit that by itself would have lowered a launch or parked a unit; floor admission
where none would have. -/
def State.throtCap (s : State) (c : Ctx) (p : Partition) : Nat :=
  let w := s.power
  let rank := match w.caps with | some r => (r.caps.getD p.prank.val none).map (· * 1000) | none => none
  let own := if p.pcap = 0xFFFF then none else some (p.pcap.toNat * 1000)
  if w.current.val != 0 then 4
  else if s.runningLaunches.any fun l => s.launchIn c.num l && s.isHot l then 5
  else if w.pmax < 3000000 && s.packageWould c.num w.pmax then 8
  else if w.orphan && s.packageWould c.num Config.orphanCap then 7
  else if (match w.curve with | some v => s.packageWould c.num (v.value s.tick.toNat) | none => false) then 1
  else if s.partWould c.num rank then 3
  else if s.partWould c.num own then 2
  else 6

/-- PTHROT of a partition at a period (R355): CAP keeps its last value while ACTIVE is 0. -/
def State.newThrot (s : State) (c : Ctx) (p : Partition) : BitVec 8 :=
  let active := (s.runningLaunches.any fun l => s.launchIn c.num l && decide (l.level.val < 7)) || s.hasParked c.num
  if active then BitVec.ofNat 8 (128 + s.throtCap c p) else p.pthrot &&& 0x0F#8

/-- Set PTHROT of every partition, and THROT of its units (R355). -/
def State.setThrots (s : State) : State :=
  s.partitions.foldl (fun t p =>
    let v := s.newThrot p.1 p.2
    let u := t.modPart p.1.num fun y => { y with pthrot := v }
    (u.holding fun r => u.partitionOf r.ctx == some p.1.num).foldl
      (fun w c => w.modCore c fun k => { k with sys := { k.sys with throt := v } }) u) s

/-- BUDT bytes charged by the units of a partition in the period (R352). -/
def State.partBytes_ (s : State) (p : Partition) : Nat :=
  (allCores.map fun c => if p.islands.getLsbD (islandOf c).val then (s.coreAt c).periodBytes else 0).sum

/-- The power of a partition over the period, in milliwatts (R352): that of its islands, and its share of what is common, in
proportion to the BUDT bytes charged; nothing is shared out where none were (notes/assumptions/88.md). -/
def State.partPower (s : State) (p : Partition) : Nat :=
  let total := (s.partitions.map fun x => s.partBytes_ x.2).sum
  (((List.finRange 64).filter fun i => p.islands.getLsbD i.val).map fun i => Config.islandPower s.power.periods i.val).sum
    + (if total = 0 then 0 else Config.sharedPower s.power.periods * s.partBytes_ p / total)

/-- The scheduler periods of 1 ms (R351). -/
def powerPeriods : Nat := 10

/-- PPOWER in watts: the average over 1 ms (R351). -/
def wattsOf (l : List Nat) : BitVec 16 := BitVec.ofNat 16 (l.sum / powerPeriods / 1000)

/-- The power of every partition at the end of a period (R351, R352); the counts of BUDT bytes begin again. -/
def State.setPowers (s : State) : State :=
  let t := s.partitions.foldl (fun t p => t.modPart p.1.num fun y =>
    let l := (s.partPower p.2 :: y.powers).take powerPeriods
    { y with powers := l, ppower := wattsOf l }) s
  { t with cores := t.cores.map fun k => { k with periodBytes := 0 } }

/-- Charge the phase account of a launch, by identifier, context and CCP (R360): a notice when it reaches 0. -/
def State.chargeAccount (s : State) (l : Nat × Nat × Fin 256) : State :=
  match s.ctx l.2.1 with
  | none => s
  | some c =>
    let v := c.account l.2.2.val
    if l.2.2 = 255 || v = BitVec.allOnes 48 || v = 0 then s
    else
      let n := v.toNat - Config.launchEnergy s.power.periods l.1
      let t := s.modCtx l.2.1 fun x => x.writeAccount l.2.2.val (BitVec.ofNat 48 n)
      if n = 0 then t.notice l.2.1 3 (BitVec.ofNat 64 l.2.2.val) 0 else t

/-- The launches whose units have used energy in the period (R360): those with units, and those that ended in it. -/
def State.spenders (s : State) : List (Nat × Nat × Fin 256) :=
  ((s.launches.filter fun l => !l.units.isEmpty).map fun l => (l.id, l.ctx, l.task.ccp)) ++ s.power.ended

/-- Units of launches without energy receive the tenant reason (R360). -/
def State.starve (s : State) : State :=
  (s.runningLaunches.filter fun l => !s.hasEnergy l).foldl (fun t l =>
    (t.holding fun u => u.launch == l.id && !hasReason u.reasons reasonTenant).foldl (fun u c => u.addReason c reasonTenant) t) s

/-! ## Park and shed -/

/-- No core of a die holds a unit. -/
def State.dieEmpty (s : State) (d : DieId) : Bool := (dieCores d).all fun c => (s.resident c).isNone

/-- The islands of a die. -/
def dieIslands (d : DieId) : List IslandId := (List.finRange 64).filter fun i => dieOfIsland i == d

/-- Gate every empty island of a die. -/
def State.gateDie (s : State) (d : DieId) : State := (dieIslands d).foldl State.gate s

/-- Every unit of a die that leaves for park is hard pre-empted where park takes its fast form (R364). -/
def State.parkQuickly (s : State) (d : DieId) : State :=
  if s.power.parkFast then
    ((dieCores d).filter fun c => match s.resident c with | some u => hasReason u.reasons reasonPark | none => false).foldl
      State.hardPreempt s
  else s

/-- Die d is parked (R364): its units receive the park reason, in the fast form a hard pre-emption. -/
def State.parkDie (s : State) (d : DieId) : State :=
  let t := s.modDie d fun y => { y with parked := true, parkTick := s.tick }
  (((dieCores d).filter fun c => (t.resident c).isSome).foldl (fun u c => u.addReason c reasonPark) t).parkQuickly d

/-- Park goes on (R364, steps 3 to 5): the next die begins while measured power is above the level, an empty one is gated. -/
def State.parkStep (s : State) : State :=
  if s.power.grade != .park then s
  else match s.power.parkOrder with
    | [] => s
    | d :: rest =>
      if !(s.die d).parked then (if s.power.measured ≤ s.power.level then s else s.parkDie d)
      else if s.dieEmpty d then
        let t := s.gateDie d
        { t with power := { t.power with parkOrder := rest, parkDone := d :: t.power.parkDone } }
      else s.parkQuickly d

/-- A launch that shed may cancel (R365). -/
def State.sheddable (s : State) (l : Launch) : Bool :=
  l.mark.isNone && (match s.ctx l.ctx with | some c => !(c.intact && s.effectiveFloor c != 0) | none => true)

/-- Shed has reached its end (R365): the predicted power is at the level, or below 190 W no launch remains. -/
def State.shedMet (s : State) : Bool :=
  let none_ := s.launches.all fun l => l.mark.isSome
  none_ || (decide (gatedFloor ≤ s.power.level) &&
    decide (s.predictedSum false 0 (s.runningLaunches.map fun l => (l, l.level.val)) ≤ s.power.level))

/-! ## Lifting -/

/-- The time of a lift (R366). -/
def liftTicks : Nat := 20000000

/-- Enter a lighter grade. -/
def State.lightenTo (s : State) (g : Grade) : State :=
  State.noteAllCaps { s with power := { s.power with grade := g, since := s.tick, lift := none, parkOrder := [] } }

/-- A die leaves park (R366, R378): its islands are ungated, its stack's pages return. -/
def State.unpark (s : State) (d : DieId) : State :=
  ((dieIslands d).foldl State.ungate s).modDie d fun y => { y with parked := false, stack := match y.stack with
    | .migrating => .returning
    | .parked => .returning
    | x => x }

/-- Every parked die leaves park, the last parked first: nothing holds a die parked in grade normal (notes/assumptions/89.md). -/
def State.unparkAll (s : State) : State :=
  let l := (s.power.parkOrder.filter fun d => (s.die d).parked) ++ s.power.parkDone
  let t := l.foldl State.unpark s
  { t with power := { t.power with parkOrder := [], parkDone := [] } }

/-- Shed (R365, R367): cancel in ascending key until it is met; when the cancellations are complete, freed dies are gated and the grade
is normal or floor. -/
def State.shedStep (s : State) : State :=
  if s.power.grade != .shed then s
  else
    let t := ((sortBy Launch.keyBefore s.launches).filter s.sheddable).foldl
      (fun u l => if u.shedMet then u else u.markLaunch l.id 0x06) s
    if t.launches.any fun l => l.mark == some 0x06 then t
    else
      let u := (List.finRange 8).foldl (fun v d => if v.dieEmpty d then v.gateDie d else v) t
      if u.power.level < gatedFloor then
        (if u.launches = [] then { u with power := { u.power with grade := .floor, since := u.tick, lift := none } } else u)
      else u.unparkAll.lightenTo .normal

/-- A lift (R366): park by one die, the last parked first, then slow, then normal. A die that leaves park is the next to be parked
again. -/
def State.liftGrade (s : State) : State :=
  match s.power.grade with
  | .park =>
    match s.power.parkOrder.find? fun d => (s.die d).parked with
    | some d => (s.unpark d)
    | none => match s.power.parkDone with
      | d :: r =>
        let t := { s.unpark d with power := { s.power with parkDone := r, parkOrder := d :: s.power.parkOrder } }
        if r = [] then t.lightenTo .slow else t
      | [] => s.lightenTo .slow
  | .slow => s.lightenTo .normal
  | _ => s

/-- GRADE_LIFT (R366): after 20 ms of room; floor lifts once the level reaches 190 W. -/
def execGradeLift (s : State) : Host.Outcome State Fault Refusal :=
  .next (match s.power.grade with
    | .floor => if gatedFloor ≤ s.power.level then s.unparkAll.lightenTo .normal else s
    | _ =>
      match s.power.lift with
      | some t => if t.toNat + liftTicks ≤ s.tick.toNat then s.liftGrade else s
      | none => s)

/-! ## The scheduler period -/

/-- SCHEDULER_PERIOD (R354, R355, R358-R362). -/
def execSchedulerPeriod (s : State) : Host.Outcome State Fault Refusal :=
  .next (let s1 := State.relevel { s with power := { s.power with periods := s.power.periods + 1 } }
    let s2 := s1.periodLevels.foldl (fun t p => t.setLevel p.1.id (Fin.ofNat 8 p.2)) s1
    let s3 := ({ s2.spenders.foldl State.chargeAccount s2 with power := { s2.power with ended := [] } } : State).starve
    (s3.shedStep.parkStep.setThrots.setPowers).noteLift)

/-- POWER_MEASUREMENT (R352): the average over 1 ms now stands at mw milliwatts. -/
def execPowerMeasurement (mw : Nat) (s : State) : Host.Outcome State Fault Refusal :=
  .next (State.parkStep { s with power := { s.power with measured := mw } })

/-- CURRENT_LIMITER (R353): the floor it sets on divisors, 0 when it does not act. -/
def execCurrentLimiter (div : Fin 17) (s : State) : Host.Outcome State Fault Refusal :=
  .next { s with power := { s.power with current := div } }

/-- The bound of slow (R363). -/
def slowTicks : Nat := 2000000

/-- SLOW_BOUND_EXPIRY (R362): 2 ms after the level arose. -/
def execSlowBoundExpiry (s : State) : Host.Outcome State Fault Refusal :=
  .next (if s.power.grade = .slow ∧ s.power.level < s.power.measured ∧ s.power.since.toNat + slowTicks ≤ s.tick.toNat then (s.enterGrade .park).parkStep else s)

/-- The time after the park reason within which a unit may yield (R364). -/
def parkYieldTicks : Nat := 2000000

/-- PARK_YIELD_TIMEOUT (R364): a unit that has not yielded within 2 ms. -/
def execParkYieldTimeout (c : CoreId) (s : State) : Host.Outcome State Fault Refusal :=
  .next (match s.resident c with
    | some u => if (s.die (dieOf c)).parked && hasReason u.reasons reasonPark
        && decide ((s.die (dieOf c)).parkTick.toNat + parkYieldTicks ≤ s.tick.toNat) then (s.hardPreempt c).parkStep else s
    | none => s)

/-- The time for which park has held before pages migrate (R364). -/
def migrationTicks : Nat := 1000000000

/-- PARK_MIGRATION_START (R364, R378): after park has held for 1 s, with SHADOW set (with SHADOW clear the stack only refreshes
itself); where pages were returning, as soon as the die is parked again. -/
def execParkMigrationStart (d : DieId) (s : State) : Host.Outcome State Fault Refusal :=
  .next (if s.power.grade = .park && s.power.parkDone.contains d then
      match (s.die d).stack with
      | .active =>
        if decide (s.power.since.toNat + migrationTicks ≤ s.tick.toNat) && s.memctl.shadow.getLsbD d.val then
          s.modDie d fun y => { y with stack := .migrating }
        else s
      | .returning => s.modDie d fun y => { y with stack := .migrating }
      | _ => s
    else s)

/-- The pages of a stack (R377, R378). -/
def stackPages : Nat := 1048576

/-- Pages lo to hi - 1 of stack d switch to their new copies (R378): the LP tier takes what they hold. Bytes whose old copy lies in a
retired channel become uncorrectable, poison moves along (notes/assumptions/90.md). -/
def State.switchPages (s : State) (d : DieId) (lo hi : Nat) (l : List (Nat × Nat)) : State :=
  let a := d.val * 0x1000000000 + 65536 * lo
  let n := 65536 * (hi - lo)
  let lost := if s.memctl.retired = [] then []
    else (((List.range (256 * (hi - lo))).map fun i => a + 256 * i).filter s.isRetired).flatMap fun b => (List.range 256).map (b + ·)
  let there (x : Nat) : Bool := decide (lpShadow + a ≤ x) && decide (x < lpShadow + a + n)
  let bad := if lost = [] then s.memBad else lost.foldl insertAsc s.memBad
  let here (x : Nat) : Bool := decide (a ≤ x) && decide (x < a + n)
  ({ s with mem := putCells s.mem (lpShadow + a) n (takeCells s.mem a n),
            memBad := ((bad.filter here).map (lpShadow + ·)).foldl insertAsc (bad.filter fun x => !there x) } : State).modDie d fun y =>
    { y with lpPages := l }

/-- Pages of stack d migrate in ascending order, at most n of them (R378): the next range that is not in the LP tier joins those that
are. -/
def State.migratePages (s : State) (d : DieId) (n : Nat) : State :=
  match (s.die d).lpPages with
  | [] => if n = 0 then s else s.switchPages d 0 (min n stackPages) [(0, min n stackPages)]
  | (a, b) :: r =>
    if 0 < a then
      let k := min n a
      if k = 0 then s else s.switchPages d 0 k (if k = a then (0, b) :: r else (0, k) :: (a, b) :: r)
    else
      let past := match r with | (x, _) :: _ => x | [] => stackPages
      let k := min n (past - b)
      if k = 0 then s
      else s.switchPages d b (b + k) (match r with
        | (x, y) :: r2 => if b + k = x then (0, y) :: r2 else (0, b + k) :: (x, y) :: r2
        | [] => [(0, b + k)])

/-- Pages of stack d return in ascending order, at most n of them (R378). -/
def State.returnPages (s : State) (d : DieId) (n : Nat) : State :=
  match (s.die d).lpPages with
  | [] => s
  | (a, b) :: r =>
    let k := min n (b - a)
    if k = 0 then s else s.switchPages d a (a + k) (if a + k = b then r else (a + k, b) :: r)

/-- The migration of a stack goes on by at most n pages of one range (R378). -/
def State.movePages (s : State) (d : DieId) (n : Nat) : State :=
  match (s.die d).stack with
  | .migrating => s.migratePages d n
  | .returning => s.returnPages d n
  | _ => s

/-- STACK_MIGRATION_COMPLETE (R378): the last page switches. -/
def execStackMigrationComplete (d : DieId) (s : State) : Host.Outcome State Fault Refusal :=
  let all (t : State) : State := (List.range (2 * (t.die d).lpPages.length + 1)).foldl (fun u _ => u.movePages d stackPages) t
  .next (match (s.die d).stack with
    | .migrating => (all s).modDie d fun y => { y with stack := .parked }
    | .returning => (all s).modDie d fun y => { y with stack := .active }
    | _ => s)

/-! ## Barchan -/

/-- HEARTBEAT (R369, R370): Barchan writes it unless it hangs. -/
def execHeartbeat (s : State) : Host.Outcome State Fault Refusal :=
  .next (if !s.barchanUp then s
    else State.relevel { s with power := { s.power with beat := s.tick, orphanBeat := false } })

/-- The time without a heartbeat after which the orphan cap comes into force (R370). -/
def heartbeatTicks : Nat := 50000000

/-- HEARTBEAT_TIMEOUT (R370). -/
def execHeartbeatTimeout (s : State) : Host.Outcome State Fault Refusal :=
  .next (if s.power.beat.toNat + heartbeatTicks ≤ s.tick.toNat then
      State.relevel { s with power := { s.power with orphanBeat := true, orphanCurve := true } }
    else s)

/-! ## Row sparing -/

/-- SPARE_COPY_COMPLETE (R379, R380): the CAM entry redirects the row; the storage that served it before, where that was a spare, is
retired, and the errors counted were its own. -/
def execSpareCopyComplete (bank row : Nat) (s : State) : Host.Outcome State Fault Refusal :=
  .next (match s.memctl.copying.find? fun p => p.1 == bank && p.2.1 == row with
    | some p => { s with memctl := { s.memctl with
        copying := s.memctl.copying.filter fun q => q != p
        spared := (s.memctl.spared.filter fun q => !(q.1 == bank && q.2.1 == row)) ++ [p]
        retiredSpares := s.memctl.retiredSpares ++
          ((s.memctl.spared.filter fun q => q.1 == bank && q.2.1 == row).map fun q => (q.1, q.2.2))
        corrected := s.memctl.corrected.filter fun q => !(q.1 == bank && q.2.1 == row) } }
    | none => s)

end Sys2Proof.Machine
end

