-- ==== Sys2Proof/Machine/Dispatcher.lean ====
section
/-! DEFINITION. The die dispatcher (spec/17_die_sched.md R306-R322): the choice of a context, a launch, a unit and a core,
tenant requests, gangs, the watchdog. -/

namespace Sys2Proof.Machine

open Sys2Proof

/-! ## The share of a die -/

/-- The resident limit on die d for a number CORES (R313). -/
def Launch.limitOn (l : Launch) (d : DieId) (cores : Nat) : Nat :=
  let k := (placeDies l.task.place).length
  match l.dieIndex d with
  | some i => (i + 1) * cores / k - i * cores / k
  | none => 0

/-- Units of a launch that reside on die d. -/
def State.residentOn (s : State) (l : Launch) (d : DieId) : Nat :=
  ((dieCores d).filter fun c => match s.resident c with | some u => u.launch == l.id | none => false).length

/-- The units of a launch on die d that can be placed, in the order of R312: saved or stopped ones, then the unstarted; at
most n of the latter are listed. -/
def Launch.placeable (l : Launch) (d : DieId) (n : Nat) : List Nat :=
  let (lo, hi) := l.shareUnits d
  let mine := l.units.filter fun r => decide (lo ≤ r.num) && decide (r.num < hi)
  let saved := (mine.filter fun r => match r.state with | .saved _ _ => true | _ => false).map (·.num)
  let next := lo + mine.length
  sortBy (fun a b => decide (a < b)) saved ++ (List.range (min n (hi - next))).map (next + ·)

/-- The units of a launch on die d that can be placed, counted. -/
def Launch.placeableCount (l : Launch) (d : DieId) : Nat :=
  let (lo, hi) := l.shareUnits d
  let mine := l.units.filter fun r => decide (lo ≤ r.num) && decide (r.num < hi)
  (mine.filter fun r => match r.state with | .saved _ _ => true | _ => false).length + (hi - (lo + mine.length))

/-! ## Eligibility -/

/-- A unit uses the bank (R283). -/
def Resident.usesBank (u : Resident) : Bool := (u.wmask.toList ++ u.smask.toList).any fun w => (w >>> 48) != 0

/-- The image of a launch, as die d holds it, uses the bank; an image that cannot be read does not. -/
def State.launchBank (s : State) (l : Launch) (d : DieId) : Bool :=
  match l.imageOn d with
  | some x => x.1.usesBank
  | none => match s.readImage l.ctx l.task.image with
    | .ok m => m.usesBank
    | .error _ => false

/-- The dispatcher may place units on die d at all (R308, R365, R390, R391). -/
def State.dieOpen (s : State) (d : DieId) : Bool :=
  !(s.die d).parked && s.power.grade != .shed && s.power.grade != .floor &&
    match s.service with
    | .full => true
    | .reduced => s.serving == some d
    | _ => false

/-- PLACE names the cluster of core c (R245). -/
def placeNames (place : W64) (c : CoreId) : Bool := place.getLsbD (c.val / 8)

/-- The island of core c can take a unit of launch l: it is on or gated, under no watchdog drain, and its bank serves one launch
(R281, R283, R308, R322). -/
def State.islandTakes (s : State) (l : Launch) (bank : Bool) (c : CoreId) : Bool :=
  let i := s.island (islandOf c)
  (i.state == .on || i.state == .gated) && !s.draining (islandOf c) &&
    ((islandCores (islandOf c)).filterMap s.resident).all fun u => u.launch == l.id || (!bank && !u.usesBank)

/-- Core c is free for launch l: within its grant and PLACE, holding no unit, reserved for no other launch (R308, R313, R316). -/
def State.freeFor (s : State) (l : Launch) (bank : Bool) (c : CoreId) : Bool :=
  (s.resident c).isNone && s.grants l.ctx c && placeNames l.task.place c && s.dieOpen (dieOf c)
    && ((s.die (dieOf c)).reserved.all fun p => p.1 != c.val || p.2 == l.id) && s.islandTakes l bank c

/-- The free cores of launch l on die d in the order of R314. -/
def State.freeCores (s : State) (l : Launch) (d : DieId) : List CoreId :=
  let bank := s.launchBank l d
  let free := (dieCores d).filter (s.freeFor l bank)
  let mine (c : CoreId) : Bool := ((islandCores (islandOf c)).filterMap s.resident).any fun u => u.launch == l.id
  let isOn (c : CoreId) : Bool := (s.island (islandOf c)).state == .on
  free.filter mine ++ free.filter (fun c => !mine c && isOn c) ++ free.filter fun c => !mine c && !isOn c

/-- CORES of a launch on die d: as its start read it, or at its level now (R258, R313). -/
def Launch.coresOf (l : Launch) (d : DieId) : Option Nat :=
  if l.cores != 0 then some l.cores else (l.opEntry d l.level).map (·.cores)

/-- The level at which a launch starts between two periods (R354, R363): 0 under slow without an intact floor. -/
def State.startLevel (s : State) (l : Launch) : Fin 8 :=
  let kept := match s.ctx l.ctx with | some c => c.intact && s.effectiveFloor c != 0 | none => false
  if l.units = [] && s.slow && !kept then 0 else l.level

/-- A PERSIST launch has units that still leave (R267). -/
def State.stillLeaves (s : State) (l : Launch) : Bool :=
  l.task.persist && (s.holding fun u => u.launch == l.id).any fun c =>
    (s.coreAt c).stop.isSome || (match s.resident c with | some u => u.reasons != 0 | none => false)

/-- A launch with PERSIST set is resumed as a whole (R267): where none of its units runs, none awaits a disposition. -/
def Launch.wholeBack (l : Launch) : Bool :=
  !l.task.persist || (l.units.any fun r => match r.state with | .running _ => true | _ => false)
    || l.units.all fun r => match r.state with | .awaiting _ _ _ _ => false | _ => true

/-- Launch l can place a unit on core c (R308, R312-R314). -/
def State.canPlace (s : State) (l : Launch) (c : CoreId) : Bool :=
  let d := dieOf c
  l.mark.isNone && (l.shares.any fun p => p.1 == d && (p.2 == .running || (p.2 == .ready && !l.task.gang)))
    && s.ctxRuns l.ctx && s.hasEnergy l && 0 < l.placeableCount d && !s.stillLeaves l && l.wholeBack
    && (match l.coresOf d with | some n => decide (s.residentOn l d < l.limitOn d n) || !l.checked.contains d | none => true)
    && s.freeFor l (s.launchBank l d) c

/-- The launches of context x that can place a unit on c, in the order of R312. -/
def State.candidates (s : State) (x : Nat) (c : CoreId) : List Launch :=
  let dl (l : Launch) : Nat := if l.task.deadline = 0 then 2 ^ 64 - 1 else l.task.deadline.toNat
  sortBy (fun a b => decide (dl a < dl b) || (dl a == dl b && decide (a.id < b.id)))
    (s.launches.filter fun l => l.ctx == x && s.canPlace l c)

/-- A context is eligible for core c (R308). -/
def State.eligible (s : State) (x : Nat) (c : CoreId) : Bool := !(s.candidates x c).isEmpty

/-! ## Round robin -/

/-- The weight of a context (R306). -/
def State.weightOf (s : State) (x : Nat) : Nat := match s.ctx x with | some c => c.weight.val | none => 1

/-- The quantum of a die (R307). -/
def Die.quantum (y : Die) : Nat := 2 ^ y.qshift.val

/-- The eligible queues in list order from the pointer (R309): the pointer is the context number from which the round goes on. -/
def State.roundOf (s : State) (d : DieId) (c : CoreId) : List TaskQueue :=
  let y := s.die d
  let e := y.queues.filter fun q => s.eligible q.ctx c
  (e.filter fun q => decide (y.ptr ≤ q.ctx)) ++ e.filter fun q => decide (q.ctx < y.ptr)

/-- A refill round (R309). -/
def State.refillQueues (s : State) (d : DieId) (xs : List Nat) : State :=
  s.modDie d fun y =>
    let up (q : TaskQueue) : TaskQueue := if xs.contains q.ctx then topUp q (s.weightOf q.ctx * y.quantum) else q
    { y with queues := y.queues.map up }
where
  /-- D := min(D + w Q, w Q). -/
  topUp (q : TaskQueue) (cap : Nat) : TaskQueue :=
    { q with deficit := BitVec.ofInt 64 (min (q.deficit.toInt + (cap : Int)) (cap : Int)) }

/-- Rounds that a queue needs until its deficit is positive. -/
def State.roundsFor (s : State) (y : Die) (q : TaskQueue) : Nat :=
  if 0 < q.deficit.toInt then 0 else (-q.deficit.toInt).toNat / (max 1 (s.weightOf q.ctx * y.quantum)) + 1

/-- The context that core c serves next, with the deficits and the pointer after the choice (R309). -/
def State.pick (s : State) (c : CoreId) : Option (Nat × State) :=
  let d := dieOf c
  let e := s.roundOf d c
  match e with
  | [] => none
  | q0 :: r =>
    let n := r.foldl (fun m q => min m (s.roundsFor (s.die d) q)) (s.roundsFor (s.die d) q0)
    let t := (List.range n).foldl (fun u _ => u.refillQueues d (e.map (·.ctx))) s
    match (e.map (·.ctx)).find? fun x => (t.die d).queues.any fun q => q.ctx == x && decide (0 < q.deficit.toInt) with
    | some x => some (x, t.modDie d fun y => { y with ptr := x + 1 })
    | none => none

/-! ## Placement -/

/-- End a launch whose image or table is refused (R247, R317). -/
def State.refuseLaunch (s : State) (id : Nat) (status cause : BitVec 8) : State :=
  (s.modLaunch id fun l => { l with fcause := if l.faults = 0 then cause else l.fcause }).markLaunch id status

/-- The cores that a context's grant holds on die d within PLACE. -/
def State.grantedOn (s : State) (l : Launch) (d : DieId) : List CoreId :=
  (dieCores d).filter fun c => s.grants l.ctx c && placeNames l.task.place c

/-- The table of a launch does not serve its units on die d (R313). -/
def State.tableRefused (s : State) (l : Launch) (d : DieId) (m : Image) (e : OpEntry) : Bool :=
  let cores := if l.cores = 0 then e.cores else l.cores
  let (lo, hi) := l.shareUnits d
  decide (cores < (placeDies l.task.place).length)
    || ((l.task.persist || l.task.gang || m.usesBank)
        && decide (min (l.limitOn d cores) (s.grantedOn l d).length < hi - lo))

/-- The image and operating points of a launch on a die, checked at its first placement there (R247, R315), or the state in which
it ended. -/
def State.checkLaunch (s : State) (l : Launch) (d : DieId) : Except State (Image × List OpEntry × OpEntry) :=
  match s.launchImage l d with
  | .error f => .error (s.refuseLaunch l.id f.1 f.2)
  | .ok (m, es) => match es[l.level.val]? with
    | none => .error (s.refuseLaunch l.id 0x08 0)
    | some e =>
      if !l.checked.contains d && s.tableRefused l d m e then .error (s.refuseLaunch l.id 0x08 0) else .ok (m, es, e)

/-- Die d holds the checked image and table of a launch; its level and CORES are fixed at its start (R247, R258). -/
def State.noteChecked (s : State) (id : Nat) (d : DieId) (m : Image) (es : List OpEntry) (level : Fin 8) (cores : Nat) : State :=
  s.modLaunch id fun l => { l.hold d m es with cores := if l.cores = 0 then cores else l.cores, level := level }

/-- Place the units of a list, each on the first free core in the order of R314. -/
def State.placeList (s : State) (id : Nat) (d : DieId) (m : Image) (e : OpEntry) : List Nat → State
  | [] => s
  | n :: r =>
    match s.launch id with
    | none => s
    | some l => match s.freeCores l d with
      | [] => s
      | c :: _ => if l.mark.isSome then s else (s.putUnit c l n m e).placeList id d m e r

/-- Reserve the free cores of a co-resident launch that has too few (R313). -/
def State.reserveFree (s : State) (l : Launch) (cs : List CoreId) (d : DieId) : State :=
  s.modDie d fun y => { y with reserved := y.reserved ++
    (cs.filter fun c => y.reserved.all fun p => p.1 != c.val).map fun c => (c.val, l.id) }

/-- The cores that were reserved for a launch on die d are reserved no longer (R313). -/
def State.unreserve (s : State) (id : Nat) (d : DieId) : State :=
  s.modDie d fun y => { y with reserved := y.reserved.filter fun p => p.2 != id }

/-- Place what R312 to R314 choose for launch l on die d. -/
def State.placeLaunch (s : State) (l0 : Launch) (d : DieId) : State :=
  let l := { l0 with level := s.startLevel l0 }
  match s.checkLaunch l d with
  | .error t => t
  | .ok (m, es, e) =>
    let s1 := s.noteChecked l.id d m es l.level e.cores
    let cores := if l.cores = 0 then e.cores else l.cores
    let room := l.limitOn d cores - s1.residentOn l d
    if l.task.persist || l.task.gang || m.usesBank then
      let free := s1.freeCores l d
      if min room free.length < l.placeableCount d then s1.reserveFree l free d
      else (s1.placeList l.id d m e (l.placeable d free.length)).unreserve l.id d
    else if room = 0 then s1
    else s1.placeList l.id d m e ((l.placeable d 1).take 1)

/-- Place or resume a unit for free core c (R309, R312). -/
def State.place (s : State) (c : CoreId) : State :=
  match (s.dropCredit (dieOf c)).pick c with
  | none => s.dropCredit (dieOf c)
  | some (x, t) =>
    match t.candidates x c with
    | l :: _ => t.placeLaunch l (dieOf c)
    | [] => t

/-- The next unit that core c would receive is a saved or stopped one (R312). -/
def State.nextIsSaved (s : State) (c : CoreId) : Bool :=
  match (s.dropCredit (dieOf c)).pick c with
  | none => false
  | some (x, t) => match t.candidates x c with
    | l :: _ => match l.placeable (dieOf c) 1 with
      | n :: _ => (l.unitState n).isSome
      | [] => false
    | [] => false

/-- UNIT_PLACEMENT (R309, R312). -/
def execUnitPlacement (c : CoreId) (s : State) : Host.Outcome State Fault Refusal := .next (s.place c)

/-- UNIT_RESUME (R27, R261): the placement whose unit is saved or stopped; any other choice waits for UNIT_PLACEMENT. -/
def execUnitResume (c : CoreId) (s : State) : Host.Outcome State Fault Refusal :=
  .next (if s.nextIsSaved c then s.place c else s)

/-! ## Tenant requests -/

/-- Reference cycles of SLICE (R307): 2,400 for each microsecond, 0 acts as 1. -/
def Die.sliceCycles (y : Die) : Nat := 2400 * max 1 y.slice.toNat

/-- Some other context is eligible for core c, were it free, and is not served there (R310). -/
def State.otherEligible (s : State) (c : CoreId) (x : Nat) : Bool :=
  let free := s.modCore c fun k => { k with unit := none }
  (s.die (dieOf c)).queues.any fun q => q.ctx != x && free.eligible q.ctx c

/-- TENANT_CHECK (R310). -/
def execTenantCheck (d : DieId) (s : State) : Host.Outcome State Fault Refusal :=
  .next ((dieCores d).foldl (fun t c =>
    match t.resident c with
    | some u =>
      if decide ((t.die d).sliceCycles ≤ u.resident) && !hasReason u.reasons reasonTenant
          && (t.die d).queues.any (fun q => q.ctx == u.ctx && q.deficit.msb) && t.otherEligible c u.ctx then
        t.addReason c reasonTenant
      else t
    | none => t) s)

/-! ## Gangs -/

/-- The lead of a gang's reservation and of its pre-emptions, in ticks (R316). -/
def gangReserveLead : Nat := 1000000
def gangPreemptLead : Nat := 100000

/-- The share of a launch on die d is in a state. -/
def Launch.shareIs (l : Launch) (d : DieId) (st : ShareState) : Bool := l.shares.any fun p => p.1 == d && p.2 == st

/-- Put the share of die d into a state. -/
def Launch.setShare (l : Launch) (d : DieId) (st : ShareState) : Launch :=
  { l with shares := l.shares.map fun p => if p.1 = d then (p.1, st) else p }

/-- Cores of die d that a gang may take, free ones in the order of R314 and then occupied ones, ascending (R316): an occupied one
of an island whose bank serves one launch only where every unit there leaves for the gang (R283; notes/assumptions/84.md). -/
def State.gangCores (s : State) (l : Launch) (d : DieId) : List CoreId :=
  let bank := s.launchBank l d
  let free := s.freeCores l d
  let granted := s.grantedOn l d
  let shared (c : CoreId) : Bool := ((islandCores (islandOf c)).filter fun k => (s.resident k).isSome).all fun k =>
    granted.contains k || (match s.resident k with | some u => !bank && !u.usesBank | none => true)
  let open_ (c : CoreId) : Bool :=
    let i := (s.island (islandOf c)).state
    i == .on && !s.draining (islandOf c)
  free ++ granted.filter fun c => (s.resident c).isSome && open_ c && shared c

/-- The reservation of a gang on die d (R316): too few cores end it with 0x08, too few that no earlier gang has reserved with 0x02. -/
def State.gangReserve (s : State) (l : Launch) (d : DieId) : State :=
  if !l.shareIs d .ready || !s.fabric.sync && s.fabric.valid then s.markLaunch l.id 0x02
  else match s.checkLaunch l d with
    | .error t => t
    | .ok (m, es, e) =>
      let cores := if l.cores = 0 then e.cores else l.cores
      let need := l.limitOn d cores
      let s1 := s.noteChecked l.id d m es l.level e.cores
      let all := (s1.modDie d fun y => { y with reserved := [] }).gangCores l d
      let open_ := (s1.gangCores l d).filter fun c => (s1.die d).reserved.all fun p => p.1 != c.val
      if all.length < need then s1.markLaunch l.id 0x08
      else if open_.length < need then s1.markLaunch l.id 0x02
      else
        let mine := open_.take need
        let s2 := (s1.modDie d fun y => { y with reserved := y.reserved ++ mine.map fun c => (c.val, l.id) }).modLaunch l.id
          fun x => x.setShare d .reserved
        mine.foldl (fun t c => t.addReason c reasonTenant) s2

/-- The reservation of a gang on die d is due (R316). -/
def State.reservationDue (s : State) (d : DieId) (x : Launch) : Bool :=
  x.task.gang && x.mark.isNone && (x.shareIs d .waiting || x.shareIs d .ready)
    && decide (x.task.startTick.toNat ≤ s.tick.toNat + gangReserveLead)

/-- GANG_RESERVATION (R316, R317): at STARTTICK - 1,000,000. Of the reservations that are due together those of lower identifiers
come first (R318). -/
def execGangReservation (d : DieId) (l : Nat) (s : State) : Host.Outcome State Fault Refusal :=
  .next (match s.launch l with
    | some x =>
      if s.reservationDue d x then
        let due := sortBy (fun a b => decide (a < b))
          ((s.launches.filter fun y => s.reservationDue d y && decide (y.id ≤ l)).map (·.id))
        due.foldl (fun t id => match t.launch id with
          | some y => if t.reservationDue d y then t.gangReserve y d else t
          | none => t) s
      else s
    | none => s)

/-- The cores of die d reserved for a launch. -/
def Die.reservedFor (y : Die) (l : Nat) : List CoreId :=
  (y.reserved.filter fun p => p.2 == l && p.1 < 512).map fun p => Fin.ofNat 512 p.1

/-- GANG_PREEMPTION (R316): at STARTTICK - 100,000. -/
def execGangPreemption (d : DieId) (l : Nat) (s : State) : Host.Outcome State Fault Refusal :=
  .next (match s.launch l with
    | some x =>
      if x.shareIs d .reserved && decide (x.task.startTick.toNat ≤ s.tick.toNat + gangPreemptLead) then
        ((s.die d).reservedFor l).foldl State.hardPreempt s
      else s
    | none => s)

/-- Start the units of a gang's share on its reserved cores (R316). -/
def State.gangPlace (s : State) (id : Nat) (m : Image) (e : OpEntry) : List (Nat × CoreId) → State
  | [] => s
  | (n, c) :: r =>
    match s.launch id with
    | some l => (s.putUnit c l n m e).gangPlace id m e r
    | none => s

/-- The units of a gang's share, each with the first of its reserved cores left (R316). -/
def Launch.gangPairs (l : Launch) (d : DieId) (cs : List CoreId) : List (Nat × CoreId) := (l.placeable d cs.length).zip cs

/-- The cores on which a gang's share can start now: those reserved for it that can take its units, and free ones in the order of
R314 for the others (R280, R283, R333, R337; notes/assumptions/84.md). -/
def State.gangReady (s : State) (x : Launch) (d : DieId) : List CoreId :=
  let mine := ((s.die d).reservedFor x.id).filter fun c => s.freeFor x (s.launchBank x d) c
  mine ++ (s.freeCores x d).filter fun c => !mine.contains c

/-- Every unit of a gang's share can start (R316): its context runs, every reserved core of an island that is on is empty, and the
share has cores for all its units. -/
def State.gangStarts (s : State) (x : Launch) (d : DieId) : Bool :=
  x.shareIs d .reserved && x.mark.isNone && decide (x.task.startTick.toNat ≤ s.tick.toNat) && s.ctxRuns x.ctx && s.hasEnergy x
    && (((s.die d).reservedFor x.id).all fun c => (s.resident c).isNone)
    && decide (x.placeableCount d ≤ (s.gangReady x d).length)

/-- GANG_START (R316): at the first tick not before STARTTICK, START is STARTTICK; the image is the one its reservation checked. -/
def execGangStart (d : DieId) (l : Nat) (s : State) : Host.Outcome State Fault Refusal :=
  .next (match s.launch l with
    | some x =>
      if s.gangStarts x d then
        match s.checkLaunch x d with
        | .error t => t
        | .ok (m, _, e) => (s.gangPlace l m e (x.gangPairs d (s.gangReady x d))).unreserve l d
      else s
    | none => s)

/-! ## Cancellation -/

/-- The launches that CANCEL covers (R252). -/
def State.covered (s : State) (l : Level) (v : W64) : List Nat :=
  ((s.queuedBy s.myCtx).filter fun x =>
    match l with
    | .launch => x.id == v.toNat % 2 ^ 48
    | .graph => x.task.ccg.val == v.toNat % 256 && x.task.ccg != 255
    | .phase => x.task.ccp.val == v.toNat % 256 && x.task.ccp != 255
    | .job => x.task.ccj.val == v.toNat % 256 && x.task.ccj != 255).map (·.id)

/-- A launch as before its first placement. -/
def Launch.unstarted (l : Launch) : Launch :=
  { l with units := [], start := 0, ran := 0, gmin := 7, gmax := 0, caps := 0xFF, iused := 0, tused := 0 }

/-- A placement in the same cycle as CANCEL loses against it (R318): where the launch's first unit was placed in this cycle, none
has started. -/
def State.unplaceFresh (s : State) (id : Nat) : State :=
  match s.launch id with
  | some l =>
    if l.units != [] && l.startCycle == s.cycle then
      ((s.holding fun u => u.launch == id).foldl State.releaseCore s).modLaunch id Launch.unstarted
    else s
  | none => s

/-- The units of a launch that can end in this cycle end before CANCEL marks it (R318). -/
def State.endFirst (s : State) (id : Nat) : State := (s.holding fun u => u.launch == id).foldl State.tryEnd s

/-- CANCEL of one launch (R252, R318). -/
def State.cancelOne (s : State) (id : Nat) : State := ((s.unplaceFresh id).endFirst id).markLaunch id 0x02

/-- CANCEL (R252). -/
def execCancel (a : GReg) (l : Level) (s : State) : Host.Outcome State Fault Refusal :=
  .next (s.withRes (s.cur.readG s.seqId a) fun v =>
    let ids := s.covered l v.1
    ids.foldl State.cancelOne (((s.setCore s.core v.2).finish 1 0).irreversible s.core))

/-! ## The watchdog -/

/-- A launch of the expired context that a drain ends (R322): its units that the drain stops are counted and saved, others are
stopped as by CANCEL; it outranks a CANCEL of the same cycle (R318). DESIGN CHOICE (notes/assumptions/104.md): FCAUSE is 0x0E only where
no fault was counted before, for R249 has it hold the cause of the first. -/
def State.drainLaunch (s : State) (units : List (Nat × Nat × Nat)) (id : Nat) : State :=
  let mine := units.filter fun u => u.1 == id
  let s1 := s.modLaunch id fun l =>
    { l with mark := if l.mark.isNone ∨ l.markCycle = s.cycle then some 0x05 else l.mark, markCycle := s.cycle,
             fcause := if l.faults = 0 then 0x0E else l.fcause,
             faults := min 65535 (l.faults + mine.length), units := l.units.map dropUnit,
             shares := l.shares.map fun p => (p.1, .ended) }
  (((s1.holding fun u => u.launch == id && mine.all fun v => v.2.1 != u.unit)).foldl
    (fun t c => t.requestStop c 3 .discard) s1).settleLaunch id

/-- Deliver the watchdog cause for context x (R322, R338). -/
def State.watchdogEvent (s : State) (x launch unit : Nat) : State :=
  let e : Event := { kind := 3, cause := 0x0E, origin := x, qual := 0, tinfo := 0, tpc := 0, launch := launch, unit := unit,
                     tick := s.tick }
  match s.catcher 0x0E 10 x with
  | some r => if s.destroyed (some r) then s else (s.putEvent r e).1
  | none => match s.partitionOf x with
    | some p => (s.putEvent p e).1
    | none => s

/-- What a drain does for one expired context (R322, steps 4 and 5). -/
def State.drainFor (s : State) (units : List (Nat × Nat × Nat)) (x : Nat) : State :=
  let mine := units.filter fun u => u.2.2 == x
  let t := (mine.map (·.1)).eraseDups.foldl (fun t id => t.drainLaunch units id) s
  match mine with
  | u :: _ => t.watchdogEvent x u.1 u.2.1
  | [] => t.watchdogEvent x 0 0

/-- The units on some cores: launch, unit, context. -/
def State.unitsOn (s : State) (cs : List CoreId) : List (Nat × Nat × Nat) :=
  cs.filterMap fun c => (s.resident c).map fun u => (u.launch, u.unit, u.ctx)

/-- A drain of the islands of partition p on die d begins for context x (R322, steps 1 to 5). -/
def State.beginDrain (s : State) (d : DieId) (p x : Nat) : State :=
  let is_ := (s.partIslandsOf p d).filter fun i => (s.island i).state != .failed
  let stopped := ((is_.map islandCores).flatten).filter fun c => (s.resident c).isSome
  let units := s.unitsOn stopped
  let s1 := s.modDie d fun y => { y with drains := y.drains ++ [{ part := p, ctxs := [x], units := units, cycle := s.cycle }] }
  let s2 := (is_.foldl State.beginReset s1).stopTogether stopped 6 0x0E
  ((stopped.foldl State.tryCut (s2.drainFor units x))).endDrains d

/-- Another queue of the partition has expired in the cycle in which a drain began: the drain serves it too (R322). -/
def State.joinDrain (s : State) (d : DieId) (r : Drain) (x : Nat) : State :=
  if r.cycle = s.cycle ∧ r.ctxs.contains x = false then
    (s.modDie d fun y => { y with drains := y.drains.map fun q => if q.part = r.part then { q with ctxs := q.ctxs ++ [x] } else q }).drainFor
      r.units x
  else s

/-- The watchdog of context x expires on die d (R322). -/
def State.watchdog (s : State) (d : DieId) (x : Nat) : State :=
  match s.partitionOf x with
  | none => s
  | some p => match (s.die d).drains.find? fun r => r.part == p with
    | some r => s.joinDrain d r x
    | none => s.beginDrain d p x

/-- WATCHDOG_EXPIRY (R321, R322): in the cycle in which WC has reached its limit. -/
def execWatchdogExpiry (d : DieId) (c : Nat) (s : State) : Host.Outcome State Fault Refusal :=
  .next (if s.expired d c then s.watchdog d c else s)

end Sys2Proof.Machine
end

