-- ==== Sys2Proof/Machine/FabricRows.lean ====
section
/-! DEFINITION. The fabric (spec/22_fabric.md R396-R411): flits and ports, remote requests at their target, answers, timeouts,
reducing copies, lost nodes, time. -/

namespace Sys2Proof.Machine

open Sys2Proof

/-- Change the fabric. -/
def State.modFabric (s : State) (f : Fabric → Fabric) : State := { s with fabric := f s.fabric }

/-! ## Ports -/

/-- Change a port. -/
def Fabric.modPort (f : Fabric) (p : Fin 32) (g : Port → Port) : Fabric := { f with ports := f.ports.set p (g f.ports[p]) }

/-- The bytes are a flit that the receiver takes (R397): whole, its CRC right, next in sequence. -/
def Port.takes (x : Port) (flit : List Byte) : Bool :=
  x.up && flit.length == 256 && leNat (flit.drop 252) == (crc32c (flit.take 252)).toNat &&
    leNat (flit.take 2) == (x.recvSeq + 1).toNat

/-- FLIT_RECEIVE (R397): the payload is taken and what the peer acknowledges noted; any other flit is discarded. -/
def execFlitReceive (p : Fin 32) (flit : List Byte) (s : State) : Host.Outcome State Fault Refusal :=
  .next (if s.fabric.ports[p].takes flit then
      s.modFabric fun f =>
        { f.modPort p fun x => { x with recvSeq := x.recvSeq + 1, acked := BitVec.ofNat 16 (leNat ((flit.drop 2).take 2)) } with
          inbox := (p, (flit.drop 8).take 244) :: f.inbox }
    else s)

/-- LINK_DOWN (R397, R398, R411): PORTUP falls; flows with nothing outstanding on the port may move. -/
def execLinkDown (p : Fin 32) (s : State) : Host.Outcome State Fault Refusal :=
  .next (s.modFabric fun f => f.modPort p fun _ => Port.reset).resend

/-- LINK_TRAINED (R399): ports train only while FNODE.VALID is 1. -/
def execLinkTrained (p : Fin 32) (s : State) : Host.Outcome State Fault Refusal :=
  .next (if s.fabric.valid && !s.fabric.ports[p].up then
      (s.modFabric fun f => f.modPort p fun _ => { Port.reset with up := true }).resend
    else s)

/-! ## Time -/

/-- TIME_MESSAGE (R408): the tick of the time source, corrected for the link. TICK is to be slewed to it; within 20 ns SYNC
is set. A package that was the source follows it: a lower node has SYNC 1. -/
def execTimeMessage (t : W64) (s : State) : Host.Outcome State Fault Refusal :=
  let d : Int := (t.toNat : Int) - s.tick.toNat
  .next (if s.fabric.valid then
      s.modFabric fun f => { f with source := false, slew := d, slewRem := 0, lastTime := s.tick, sync := f.sync || decide (d.natAbs ≤ 20) }
    else s)

/-- The time without a time message after which SYNC is cleared (R408). -/
def syncTicks : Nat := 100000000

/-- SYNC_LOSS (R408): after 100 ms without a time message the package runs on its own clock; the time source receives none. -/
def execSyncLoss (s : State) : Host.Outcome State Fault Refusal :=
  .next (if !s.fabric.source && s.fabric.lastTime.toNat + syncTicks ≤ s.tick.toNat then
      s.modFabric fun f => { f with sync := false, slew := 0, slewRem := 0 }
    else s)

/-! ## Answers -/

/-- An answer that a target may give to a request (R401-R406). -/
def answers (r : RemoteOp) (a : RemoteAns) : Bool :=
  match r, a with
  | .load n, .data bs _ | .copyRead n, .data bs _ => bs.length == n
  | .amo _ _, .data bs _ | .cas _ _, .data bs _ => bs.length == 8
  | .store _, .data bs _ | .copyWrite _, .data bs _ | .reduce _, .data bs _ => bs.isEmpty
  | .store _, .done | .copyWrite _, .done | .reduce _, .done => true
  | .load _, .refused | .copyRead _, .refused => true
  | .amo _ _, .refused | .cas _ _, .refused | .store _, .refused | .copyWrite _, .refused | .reduce _, .refused => true
  | .amo _ _, .barrier | .cas _ _, .barrier | .store _, .barrier | .copyWrite _, .barrier | .reduce _, .barrier => true
  | _, _ => false

/-- The data of a copy's answer, or the cause and address of its failure (R405). -/
def chunkAnswer (va : A80) (a : RemoteAns) : Except (BitVec 8 × A80) (List Byte) :=
  match a with
  | .data bs none => .ok bs
  | .data _ (some i) => .error (0x0B, va + BitVec.ofNat 80 i)
  | .done => .ok []
  | .refused => .error (0x05, va)
  | .barrier => .error (0x06, va)
  | .lost => .error (0x0B, va)

/-- Note the answer to chunk p of a copy. -/
def Stream.noteAnswer (t : Stream) (w : RemoteWait) (p : PendingChunk) (a : RemoteAns) : Stream :=
  let u := { t with chunks := t.chunks.filter fun x => x.id != w.id }
  match chunkAnswer p.va a, w.req with
  | .error e, _ => { u with fails := u.fails ++ [{ chunk := p.chunk, va := e.2, cause := e.1 }] }
  | .ok bs, .copyRead _ => { u with data := u.data ++ [(w.piece, bs)] }
  | .ok _, _ => u

/-- When a part of a copy has failed, its requests held for the move of their flow are discarded (R405). -/
def State.discardHeld (s : State) (c : CoreId) (e : Eng) : State :=
  if ((s.coreAt c).eng e).fails.isEmpty then s
  else
    let held (w : RemoteWait) : Bool := w.core == c && w.stream == .eng e && w.port.isNone && w.node != s.fabric.node.val
    let gone := (s.fabric.waiting.filter held).map (·.id)
    (s.modFabric fun f => { f with waiting := f.waiting.filter fun w => !held w }).modCore c fun k => k.modEng e fun t =>
      { t with chunks := t.chunks.filter fun x => !gone.contains x.id }

/-- The nest that the CGO at the head of a copy stream runs, and its copy. -/
def Core.cgoRun (k : Core) (e : Eng) : Option (List Byte × CopyDesc) :=
  match (k.eng e).phase, (k.eng e).head, k.nestRun e with
  | .running (.nest _ _ _), some h, some nest =>
    (match k.templateKept e (BitVec.ofNat 22 h.word.toNat) nest with
     | .ok d => some (nest, d.1)
     | .error _ => none)
  | _, _, _ => none

/-- Every request of a copy has its answer (R405): it faults at the lowest chunk that failed, for CGO with the index that counts the
chunks before it. -/
def State.copyFails (s : State) (c : CoreId) (e : Eng) : State :=
  let k := s.coreAt c
  let t := k.eng e
  if !t.chunks.isEmpty then s
  else match lowestFail t.fails, k.cgoRun e with
    | some f, some (nest, d) => (s.clearRemote c e).faultCmd c e (chunkAt nest d f.chunk) ⟨f.cause, 0, infoOf f.va⟩
    | some f, none => (s.clearRemote c e).failCmd c e ⟨f.cause, 0, infoOf f.va⟩
    | none, _ => s

/-- Chunk n of a copy has an answer (R405): a chunk of CGO that has its last one is performed. -/
def State.copyAnswered (s : State) (c : CoreId) (e : Eng) (n : Nat) (read : Bool) : State :=
  let k := s.coreAt c
  let t := k.eng e
  let s1 := match k.cgoRun e with
    | some (nest, d) =>
      if read || t.chunks.any (fun x => x.chunk == n) || t.fails.any (fun x => x.chunk == n) then s
      else (match chunkAt nest d n with
        | .nest idx j _ => (s.chargeChunk c e nest d idx j).tryCut c
        | _ => s)
    | none => s
  s1.copyFails c e

/-- Request w has its answer (R403-R405). -/
def State.remoteAnswer (s : State) (w : RemoteWait) (a : RemoteAns) : State :=
  let s1 := s.modFabric fun f => Fabric.sendHeld { f with waiting := f.waiting.filter fun x => x.id != w.id }
  match w.stream with
  | .seq q => s1.modCore w.core fun k => k.modAccess q w.access fun x => { x with answers := x.answers ++ [(w.piece, a)] }
  | .eng e =>
    match ((s1.coreAt w.core).eng e).chunks.find? fun x => x.id == w.id with
    | none => s1
    | some p =>
      ((s1.modCore w.core fun k => k.modEng e fun t => t.noteAnswer w p a).discardHeld w.core e).copyAnswered w.core e p.chunk
        (match w.req with | .copyRead _ => true | _ => false)

/-- A request by number. -/
def Fabric.find (f : Fabric) (id : Nat) : Option RemoteWait := f.waiting.find? fun w => w.id == id

/-- A message from a node has arrived: a path reaches it, so it is not lost (R411, notes/assumptions/35.md). -/
def State.hears (s : State) (node : Nat) : State := s.modFabric fun f =>
  { f with lost := f.lost.filter (· != node), heard := (f.heard.filter fun p => p.1 != node) ++ [(node, s.tick)] }

/-- REMOTE_RESPONSE (R403-R405): the answer of another node to a request that was sent. -/
def execRemoteResponse (id : Nat) (a : RemoteAns) (s : State) : Host.Outcome State Fault Refusal :=
  .next (match s.fabric.find id with
    | some w => if w.port.isSome && answers w.req a then (s.hears w.node).remoteAnswer w a else s
    | none => s)


/-! ## The target -/

/-- The physical address of n bytes at an offset of an export (R401), none where the target refuses. -/
def State.exportPlace (s : State) (part : Nat) (exp : Fin 16) (off n : Nat) (need : Perm) : Option Nat :=
  match s.ctx part with
  | some c => match c.part with
    | some p =>
      let w := p.exports[exp]
      let (a, len) := exportSpan w
      if w.b.getLsbD 3 && !c.destroying && decide (off + n ≤ len) && Perm.within need (BitVec.ofNat 3 w.b.toNat)
          && s.mapped (a + off) && s.mapped (a + off + n - 1) then some (a + off) else none
    | none => none
  | none => none

/-- What reading n bytes for a tenant id answers (R110, R290, R374). -/
def State.readAnswer (s : State) (ten pa n : Nat) : State × RemoteAns :=
  (if s.twoSets ten pa n then { s with fresh := s.fresh + 1 } else s, .data (s.tenantRead ten pa n) ((s.firstUnc pa n).map (· - pa)))

/-- TEN of an export (R400). -/
def State.exportTen (s : State) (part : Nat) (exp : Fin 16) : Nat :=
  match (s.ctx part).bind (·.part) with
  | some p => bitsOf p.exports[exp].b.toNat 4 4
  | none => 0

/-- A remote write (R299, R374, R402). -/
def State.writeRemote (s : State) (pa : Nat) (bs : List Byte) : State × RemoteAns :=
  if s.anyLive pa bs.length then (s, .barrier)
  else match s.firstRetired pa bs.length with
    | some b => (s, .data [] (some (b - pa)))
    | none => (s.physWrite [(pa, bs)], .done)

/-- A remote AMO or CAS (R297, R402). -/
def State.atomicRemote (s : State) (pa : Nat) (op : AccessOp) : State × RemoteAns :=
  if s.anyLive pa 8 then (s, .barrier)
  else
    let r := s.performAtomic op pa
    (r.1, .data (leBytes 8 r.2.toNat) ((s.firstUnc pa 8).map (· - pa)))

/-- Act at an export, or refuse (R401). -/
def State.atExport (s : State) (r : RemoteReq) (n : Nat) (need : Perm) (go : Nat → State × RemoteAns) : State × RemoteAns :=
  match s.exportPlace r.part r.export_ r.offset n need with
  | some pa => go pa
  | none => (s, .refused)

/-- What becomes of a chunk of a reducing copy (R406, R407): an answer, a wait for a record, or none (a chunk that its initiator
may not send yet). -/
inductive ChunkFate where
  | answer (a : RemoteAns)
  | wait
  | drop
  deriving DecidableEq, Repr

/-- The map of a record after bit i is set (R406): while bit 0 is set it shifts down and the base rises. -/
def shiftMap : Nat → Nat × W64 → Nat × W64
  | 0, x => x
  | fuel + 1, (b, m) => if m.getLsbD 0 then shiftMap fuel (b + 1, m >>> 1) else (b, m)

/-- Mark chunk j applied. -/
def RedRecord.mark (r : RedRecord) (j : Nat) : RedRecord :=
  let x := shiftMap 64 (r.base, r.map ||| (1#64 <<< (j - r.base)))
  { r with base := x.1, map := x.2 }

/-- Chunk j has been applied (R406). -/
def RedRecord.has (r : RedRecord) (j : Nat) : Bool := decide (j < r.base) || r.map.getLsbD (j - r.base)

/-- The places of a chunk's pieces (R401); a reducing copy needs RD and W (R294). -/
def State.chunkPlaces (s : State) : List RedPiece → Option (List (Nat × List Byte))
  | [] => some []
  | p :: r =>
    match s.exportPlace p.part p.export_ p.offset p.bytes.length 3, s.chunkPlaces r with
    | some a, some l => some ((a, p.bytes) :: l)
    | _, _ => none

/-- Apply a chunk whole (R219, R406). -/
def State.applyChunk (s : State) (c : RedChunk) (ps : List (Nat × List Byte)) : State :=
  ps.foldl (fun t p => t.physWrite [(p.1, redBytes c.op c.ty p.2.length (t.physRead p.1 p.2.length) p.2)]) s

/-- The records of reducing copies that a target holds (R407). -/
def maxRecords : Nat := 4096

/-- A chunk of a reducing copy at its target (R406). -/
def State.takeChunk (s : State) (c : RedChunk) : State × ChunkFate :=
  match s.chunkPlaces c.pieces with
  | none => (s, .answer .refused)
  | some ps =>
    let rs := s.fabric.records
    match rs.find? fun r => r.ident == c.ident with
    | none =>
      if maxRecords ≤ rs.length then (s, .wait)
      else
        apply (s.modFabric fun f => { f with records := f.records ++ [{ ident := c.ident, base := 0, map := 0 }] }) c ps
          { ident := c.ident, base := 0, map := 0 }
    | some r => if r.has c.chunk then (s, .answer .done) else apply s c ps r
where
  /-- Apply a chunk that its record does not have. -/
  apply (s : State) (c : RedChunk) (ps : List (Nat × List Byte)) (r : RedRecord) : State × ChunkFate :=
    if r.base + 64 ≤ c.chunk then (s, .drop)
    else if ps.any fun p => s.anyLive p.1 p.2.length then (s, .answer .barrier)
    else if ps.any fun p => (s.firstUnc p.1 p.2.length).isSome then (s, .answer (.data [] (some 0)))
    else
      ((s.applyChunk c ps).modFabric fun f =>
        { f with records := f.records.map fun x => if x.ident = c.ident then x.mark c.chunk else x }, .answer .done)

/-- Perform a request at its target (R401, R402), one that does not reduce. -/
def State.performRemote (s : State) (r : RemoteReq) : State × RemoteAns :=
  match r.op with
  | .load n | .copyRead n => s.atExport r n 1 fun pa => s.readAnswer (s.exportTen r.part r.export_) pa n
  | .store bs | .copyWrite bs => s.atExport r bs.length 2 fun pa =>
    (s.noteTenants (s.exportTen r.part r.export_) pa bs.length).writeRemote pa bs
  | .amo o v => s.atExport r 8 permAtomic fun pa => (s.noteTenants (s.exportTen r.part r.export_) pa 8).atomicRemote pa (.amo o v)
  | .cas e n => s.atExport r 8 permAtomic fun pa => (s.noteTenants (s.exportTen r.part r.export_) pa 8).atomicRemote pa (.cas e n)
  | .reduce _ | .close _ => (s, .refused)

/-- A wait notice for a request has come (R407): its timeout runs from here. -/
def State.noticed (s : State) (id : Nat) : State :=
  s.modFabric fun f => { f with waiting := f.waiting.map fun w => if w.id = id then { w with since := s.tick } else w }

/-- A request of the own node loops back (R401), when none of its flow before it waits. -/
def State.loopback (s : State) (w : RemoteWait) : State :=
  if s.fabric.waiting.any fun y => sameFlow y w && decide (y.id < w.id) then s
  else match w.req with
    | .reduce c =>
      let r := s.takeChunk c
      (match r.2 with
       | .answer a => r.1.remoteAnswer w a
       | .wait => r.1.noticed w.id
       | .drop => r.1)
    | _ =>
      let r := s.performRemote { src := w.node, id := w.id, part := w.part, export_ := w.exp, offset := w.offset, op := w.req }
      r.1.remoteAnswer w r.2

/-- The own request of a number, looped back. -/
def State.ownRequest (s : State) (id : Nat) : State :=
  match s.fabric.find id with
  | some w => if w.node = s.fabric.node.val then s.loopback w else s
  | none => s

/-- A looped-back chunk waits for a record (R407). -/
def State.waitsRecord (s : State) (w : RemoteWait) : Bool :=
  w.node == s.fabric.node.val && (match w.req with
    | .reduce c => s.fabric.records.all (fun r => r.ident != c.ident) && decide (maxRecords ≤ s.fabric.records.length)
    | _ => false)

/-- REMOTE_TIMEOUT (R403-R405): 10 ms from issue, or from the last wait notice, without an answer; while notices come, and while a
chunk that loops back waits for a record, the timeout does not run (R407, notes/assumptions/97.md). -/
def execRemoteTimeout (id : Nat) (s : State) : Host.Outcome State Fault Refusal :=
  .next (match s.fabric.find id with
    | some w =>
      if s.waitsRecord w || decide (s.tick.toNat < w.since.toNat + remoteTicks) then s else s.remoteAnswer w .lost
    | none => s)

/-- Bytes that another node has just written, as memory was before: loads here that no acquire at fabric scope orders may still take
what they held (R235, R240). -/
def State.noteFar (s : State) (before : Cells) : State :=
  let l := (changes before s.mem).map fun x => ({ addr := x.1, before := getByte before x.1, known := [] } : FarByte)
  { s with far := (s.far.filter fun e => !l.any fun y => y.addr == e.addr) ++ l }

/-- A chunk of another node (R406, R407): answered, or held with a wait notice. -/
def State.foreignChunk (s : State) (c : RedChunk) : State :=
  let r0 := s.takeChunk c
  let r := (r0.1.noteFar s.mem, r0.2)
  match r.2 with
  | .answer a => r.1.reply (.remote c.id a)
  | .wait => (r.1.modFabric fun f => { f with held := (f.held.filter fun x => x != c) ++ [c] }).reply (.notice c.id)
  | .drop => r.1

/-- REDUCING_CHUNK_ARRIVAL (R406, R407). -/
def execReducingChunkArrival (c : RedChunk) (s : State) : Host.Outcome State Fault Refusal :=
  .next (if c.ident.node = s.fabric.node.val then s.ownRequest c.id
    else if s.fabric.anyUp then (s.hears c.ident.node).foreignChunk c else s)

/-- REMOTE_ACCESS_ARRIVAL (R401, R402): the access is performed at its home, or refused; a closing message closes records
(R407). -/
def execRemoteAccessArrival (r : RemoteReq) (s : State) : Host.Outcome State Fault Refusal :=
  .next (if r.src = s.fabric.node.val then s.ownRequest r.id
    else if s.fabric.anyUp then
      let t := s.hears r.src
      match r.op with
      | .reduce c => t.foreignChunk c
      | .close c => t.modFabric fun f => { f with records := f.records.filter fun x => !closesRecord c x.ident }
      | _ =>
        let x := t.performRemote r
        (x.1.noteFar t.mem).reply (.remote r.id x.2)
    else s)

/-- WAIT_NOTICE (R407): at the initiator the timeout of a chunk is held back for 10 ms more; at the target a chunk that it holds is tried again,
and applied or its notice renewed. -/
def execWaitNotice (id : Nat) (s : State) : Host.Outcome State Fault Refusal :=
  let reduces := match (s.fabric.find id).map (·.req) with | some (.reduce _) => true | _ => false
  let mine := s.fabric.held.filter fun c => c.id == id
  let t := (if reduces then s.noticed id else s).modFabric fun f => { f with held := f.held.filter fun c => c.id != id }
  .next (mine.foldl State.foreignChunk t)

/-- The code of a report of a lost node. -/
def reportNode : Nat := 3

/-- The time without a path after which a node is lost (R411). -/
def lossTicks : Nat := 50000000

/-- No path has reached a node for 50 ms, or none ever since VALID was set (R411). -/
def State.silent (s : State) (node : Nat) : Bool :=
  let last := match s.fabric.heard.find? fun p => p.1 == node with | some p => p.2 | none => s.fabric.validSince
  s.fabric.valid && decide (last.toNat + lossTicks ≤ s.tick.toNat)

/-- NODE_LOSS (R411): reported to the host; the records of its copies are freed; requests to it fail at their timeouts, later
ones at once. -/
def execNodeLoss (node : Nat) (s : State) : Host.Outcome State Fault Refusal :=
  .next (if node = s.fabric.node.val || s.fabric.lost.contains node || !s.silent node then s
    else (s.modFabric fun f =>
      { f with lost := f.lost ++ [node], records := f.records.filter fun r => r.ident.node != node,
               held := f.held.filter fun c => c.ident.node != node }).reply (.report reportNode node))

end Sys2Proof.Machine
end

