-- ==== Sys2Proof/Machine/Dispatch.lean ====
section
/-! DEFINITION. The dispatch: one arm for each constructor of Instr, which is one row of spec/opcode_table.json. -/

namespace Sys2Proof.Machine

open Sys2Proof

/-- The meaning of an instruction. -/
def exec (i : Instr) (s : State) : Host.Outcome State Fault Refusal :=
  match i with
  | .add d a b => Sys2Proof.Machine.execAdd d a b s
  | .sub d a b => Sys2Proof.Machine.execSub d a b s
  | .and d a b => Sys2Proof.Machine.execAnd d a b s
  | .or d a b => Sys2Proof.Machine.execOr d a b s
  | .xor d a b => Sys2Proof.Machine.execXor d a b s
  | .andn d a b => Sys2Proof.Machine.execAndn d a b s
  | .shl d a b => Sys2Proof.Machine.execShl d a b s
  | .shr d a b => Sys2Proof.Machine.execShr d a b s
  | .sra d a b => Sys2Proof.Machine.execSra d a b s
  | .rol d a b => Sys2Proof.Machine.execRol d a b s
  | .min d a b => Sys2Proof.Machine.execMin d a b s
  | .max d a b => Sys2Proof.Machine.execMax d a b s
  | .minu d a b => Sys2Proof.Machine.execMinu d a b s
  | .maxu d a b => Sys2Proof.Machine.execMaxu d a b s
  | .slt d a b => Sys2Proof.Machine.execSlt d a b s
  | .sltu d a b => Sys2Proof.Machine.execSltu d a b s
  | .seq d a b => Sys2Proof.Machine.execSeq d a b s
  | .clz d a => Sys2Proof.Machine.execClz d a s
  | .ctz d a => Sys2Proof.Machine.execCtz d a s
  | .popc d a => Sys2Proof.Machine.execPopc d a s
  | .bfx d a b => Sys2Proof.Machine.execBfx d a b s
  | .bfxu d a b => Sys2Proof.Machine.execBfxu d a b s
  | .bfi d a b => Sys2Proof.Machine.execBfi d a b s
  | .csel d a b => Sys2Proof.Machine.execCsel d a b s
  | .mul d a b => Sys2Proof.Machine.execMul d a b s
  | .mulh d a b => Sys2Proof.Machine.execMulh d a b s
  | .mulhu d a b => Sys2Proof.Machine.execMulhu d a b s
  | .div d a b => Sys2Proof.Machine.execDiv d a b s
  | .divu d a b => Sys2Proof.Machine.execDivu d a b s
  | .rem d a b => Sys2Proof.Machine.execRem d a b s
  | .remu d a b => Sys2Proof.Machine.execRemu d a b s
  | .addi d a wi => Sys2Proof.Machine.execAddi d a wi s
  | .andi d a wi => Sys2Proof.Machine.execAndi d a wi s
  | .ori d a wi => Sys2Proof.Machine.execOri d a wi s
  | .xori d a wi => Sys2Proof.Machine.execXori d a wi s
  | .shli d a n => Sys2Proof.Machine.execShli d a n s
  | .shri d a n => Sys2Proof.Machine.execShri d a n s
  | .srai d a n => Sys2Proof.Machine.execSrai d a n s
  | .roli d a n => Sys2Proof.Machine.execRoli d a n s
  | .ldi d wi => Sys2Proof.Machine.execLdi d wi s
  | .ldk d p wi => Sys2Proof.Machine.execLdk d p wi s
  | .aadd d a b => Sys2Proof.Machine.execAadd d a b s
  | .amov d a => Sys2Proof.Machine.execAmov d a s
  | .aget d a => Sys2Proof.Machine.execAget d a s
  | .aseth d a => Sys2Proof.Machine.execAseth d a s
  | .aaddi d a wi => Sys2Proof.Machine.execAaddi d a wi s
  | .ld t a c wi z => Sys2Proof.Machine.execLd t a c wi z s
  | .lds t a c wi z => Sys2Proof.Machine.execLds t a c wi z s
  | .st t a c wi z => Sys2Proof.Machine.execSt t a c wi z s
  | .lda t a c wi => Sys2Proof.Machine.execLda t a c wi s
  | .sta t a c wi => Sys2Proof.Machine.execSta t a c wi s
  | .ldx t a c g ws x z => Sys2Proof.Machine.execLdx t a c g ws x z s
  | .stx t a c g ws z => Sys2Proof.Machine.execStx t a c g ws z s
  | .amoSwap t a c g o ws => Sys2Proof.Machine.execAmoSwap t a c g o ws s
  | .amoAdd t a c g o ws => Sys2Proof.Machine.execAmoAdd t a c g o ws s
  | .amoAnd t a c g o ws => Sys2Proof.Machine.execAmoAnd t a c g o ws s
  | .amoOr t a c g o ws => Sys2Proof.Machine.execAmoOr t a c g o ws s
  | .amoXor t a c g o ws => Sys2Proof.Machine.execAmoXor t a c g o ws s
  | .amoMax t a c g o ws => Sys2Proof.Machine.execAmoMax t a c g o ws s
  | .amoMin t a c g o ws => Sys2Proof.Machine.execAmoMin t a c g o ws s
  | .amoMaxu t a c g o ws => Sys2Proof.Machine.execAmoMaxu t a c g o ws s
  | .cas t a c g o ws => Sys2Proof.Machine.execCas t a c g o ws s
  | .fence ws m => Sys2Proof.Machine.execFence ws m s
  | .barinit t a c ws => Sys2Proof.Machine.execBarinit t a c ws s
  | .barinitKill a c ws => Sys2Proof.Machine.execBarinitKill a c ws s
  | .bararr t a c ws => Sys2Proof.Machine.execBararr t a c ws s
  | .barwait a c ws => Sys2Proof.Machine.execBarwait a c ws s
  | .b o => Sys2Proof.Machine.execB o s
  | .bc a b c o => Sys2Proof.Machine.execBc a b c o s
  | .bz d o => Sys2Proof.Machine.execBz d o s
  | .bnz d o => Sys2Proof.Machine.execBnz d o s
  | .bq n o => Sys2Proof.Machine.execBq n o s
  | .bout a b c => Sys2Proof.Machine.execBout a b c s
  | .call o => Sys2Proof.Machine.execCall o s
  | .jmpi a => Sys2Proof.Machine.execJmpi a s
  | .calli a => Sys2Proof.Machine.execCalli a s
  | .ret => Sys2Proof.Machine.execRet s
  | .loop a l => Sys2Proof.Machine.execLoop a l s
  | .loopi n l => Sys2Proof.Machine.execLoopi n l s
  | .enq r a => Sys2Proof.Machine.execEnq r a s
  | .enqInline r w => Sys2Proof.Machine.execEnqInline r w s
  | .semwait ws m => Sys2Proof.Machine.execSemwait ws m s
  | .sempost a ws m => Sys2Proof.Machine.execSempost a ws m s
  | .semget d ws => Sys2Proof.Machine.execSemget d ws s
  | .semset a ws => Sys2Proof.Machine.execSemset a ws s
  | .ringset r a z => Sys2Proof.Machine.execRingset r a z s
  | .launch d a => Sys2Proof.Machine.execLaunch d a s
  | .wpop d a n q => Sys2Proof.Machine.execWpop d a n q s
  | .wpush d a q => Sys2Proof.Machine.execWpush d a q s
  | .wsteal d a q => Sys2Proof.Machine.execWsteal d a q s
  | .ccwait a l n => Sys2Proof.Machine.execCcwait a l n s
  | .ccget d l n => Sys2Proof.Machine.execCcget d l n s
  | .cancel a l => Sys2Proof.Machine.execCancel a l s
  | .watch d a => Sys2Proof.Machine.execWatch d a s
  | .cont n => Sys2Proof.Machine.execCont n s
  | .yield => Sys2Proof.Machine.execYield s
  | .topup a r => Sys2Proof.Machine.execTopup a r s
  | .phase a => Sys2Proof.Machine.execPhase a s
  | .setdiv e v => Sys2Proof.Machine.execSetdiv e v s
  | .setdivRegister a e => Sys2Proof.Machine.execSetdivRegister a e s
  | .ctxnew d a => Sys2Proof.Machine.execCtxnew d a s
  | .ctxgrant d a => Sys2Proof.Machine.execCtxgrant d a s
  | .ctxrevoke d a h => Sys2Proof.Machine.execCtxrevoke d a h s
  | .ctxrun d => Sys2Proof.Machine.execCtxrun d s
  | .ctxstop d h => Sys2Proof.Machine.execCtxstop d h s
  | .ctxinfo d a wi => Sys2Proof.Machine.execCtxinfo d a wi s
  | .mfs d r => Sys2Proof.Machine.execMfs d r s
  | .mts a r => Sys2Proof.Machine.execMts a r s
  | .trap c => Sys2Proof.Machine.execTrap c s
  | .eret => Sys2Proof.Machine.execEret s
  | .halt => Sys2Proof.Machine.execHalt s
  | .nop => Sys2Proof.Machine.execNop s
  | .time d => Sys2Proof.Machine.execTime d s
  | .waitt a => Sys2Proof.Machine.execWaitt a s
  | .loadDataReturn c q id => Sys2Proof.Machine.execLoadDataReturn c q id s
  | .engineNop e y => Sys2Proof.Machine.execEngineNop e y s
  | .entryComplete e => Sys2Proof.Machine.execEntryComplete e s
  | .mprec y pa pb => Sys2Proof.Machine.execMprec y pa pb s
  | .mlda y off first count => Sys2Proof.Machine.execMlda y off first count s
  | .mstep y off first clr => Sys2Proof.Machine.execMstep y off first clr s
  | .mnest y off => Sys2Proof.Machine.execMnest y off s
  | .mgo y => Sys2Proof.Machine.execMgo y s
  | .mgoStep => Sys2Proof.Machine.execMgoStep s
  | .mclr y first count anchor => Sys2Proof.Machine.execMclr y first count anchor s
  | .manch y first count anchor => Sys2Proof.Machine.execManch y first count anchor s
  | .mpin y first count key => Sys2Proof.Machine.execMpin y first count key s
  | .munpin y first count => Sys2Proof.Machine.execMunpin y first count s
  | .mspill y first count f => Sys2Proof.Machine.execMspill y first count f s
  | .mfill y first count => Sys2Proof.Machine.execMfill y first count s
  | .mdelta y first d c off => Sys2Proof.Machine.execMdelta y first d c off s
  | .mdeltaToken => Sys2Proof.Machine.execMdeltaToken s
  | .mquery y first d dst q => Sys2Proof.Machine.execMquery y first d dst q s
  | .tileFill c n => Sys2Proof.Machine.execTileFill c n s
  | .vadd y t m d s1 s2 => Sys2Proof.Machine.execVadd y t m d s1 s2 s
  | .vsub y t m d s1 s2 => Sys2Proof.Machine.execVsub y t m d s1 s2 s
  | .vmul y t m d s1 s2 => Sys2Proof.Machine.execVmul y t m d s1 s2 s
  | .vfma y t m d s1 s2 => Sys2Proof.Machine.execVfma y t m d s1 s2 s
  | .vaddRz y t m d s1 s2 => Sys2Proof.Machine.execVaddRz y t m d s1 s2 s
  | .vsubRz y t m d s1 s2 => Sys2Proof.Machine.execVsubRz y t m d s1 s2 s
  | .vmulRz y t m d s1 s2 => Sys2Proof.Machine.execVmulRz y t m d s1 s2 s
  | .vfmaRz y t m d s1 s2 => Sys2Proof.Machine.execVfmaRz y t m d s1 s2 s
  | .vcvtRz y t m d s1 dt => Sys2Proof.Machine.execVcvtRz y t m d s1 dt s
  | .vaddSr y t m d s1 s2 => Sys2Proof.Machine.execVaddSr y t m d s1 s2 s
  | .vsubSr y t m d s1 s2 => Sys2Proof.Machine.execVsubSr y t m d s1 s2 s
  | .vmulSr y t m d s1 s2 => Sys2Proof.Machine.execVmulSr y t m d s1 s2 s
  | .vfmaSr y t m d s1 s2 => Sys2Proof.Machine.execVfmaSr y t m d s1 s2 s
  | .vcvtSr y t m d s1 dt => Sys2Proof.Machine.execVcvtSr y t m d s1 dt s
  | .vmin y t m d s1 s2 => Sys2Proof.Machine.execVmin y t m d s1 s2 s
  | .vmax y t m d s1 s2 => Sys2Proof.Machine.execVmax y t m d s1 s2 s
  | .vabs y t m d s1 => Sys2Proof.Machine.execVabs y t m d s1 s
  | .vneg y t m d s1 => Sys2Proof.Machine.execVneg y t m d s1 s
  | .vexp2 y m d s1 => Sys2Proof.Machine.execVexp2 y m d s1 s
  | .vlog2 y m d s1 => Sys2Proof.Machine.execVlog2 y m d s1 s
  | .vrcp y m d s1 => Sys2Proof.Machine.execVrcp y m d s1 s
  | .vrsq y m d s1 => Sys2Proof.Machine.execVrsq y m d s1 s
  | .vsqrt y m d s1 => Sys2Proof.Machine.execVsqrt y m d s1 s
  | .vmac8 y t m d s1 s2 => Sys2Proof.Machine.execVmac8 y t m d s1 s2 s
  | .vadds y t m d s1 s2 => Sys2Proof.Machine.execVadds y t m d s1 s2 s
  | .vsubs y t m d s1 s2 => Sys2Proof.Machine.execVsubs y t m d s1 s2 s
  | .vand y t m d s1 s2 => Sys2Proof.Machine.execVand y t m d s1 s2 s
  | .vor y t m d s1 s2 => Sys2Proof.Machine.execVor y t m d s1 s2 s
  | .vxor y t m d s1 s2 => Sys2Proof.Machine.execVxor y t m d s1 s2 s
  | .vshl y t m d s1 s2 => Sys2Proof.Machine.execVshl y t m d s1 s2 s
  | .vshr y t m d s1 s2 => Sys2Proof.Machine.execVshr y t m d s1 s2 s
  | .vsra y t m d s1 s2 => Sys2Proof.Machine.execVsra y t m d s1 s2 s
  | .vrshr y t m d s1 sh => Sys2Proof.Machine.execVrshr y t m d s1 sh s
  | .vceq y t m k s1 s2 => Sys2Proof.Machine.execVceq y t m k s1 s2 s
  | .vcne y t m k s1 s2 => Sys2Proof.Machine.execVcne y t m k s1 s2 s
  | .vclt y t m k s1 s2 => Sys2Proof.Machine.execVclt y t m k s1 s2 s
  | .vcle y t m k s1 s2 => Sys2Proof.Machine.execVcle y t m k s1 s2 s
  | .vsel y t d s1 s2 => Sys2Proof.Machine.execVsel y t d s1 s2 s
  | .vbcst y t m d s1 => Sys2Proof.Machine.execVbcst y t m d s1 s
  | .vperm y t m d s1 s2 => Sys2Proof.Machine.execVperm y t m d s1 s2 s
  | .vtrn y t m d s1 => Sys2Proof.Machine.execVtrn y t m d s1 s
  | .vred y t m d s1 op => Sys2Proof.Machine.execVred y t m d s1 op s
  | .vmsk y k => Sys2Proof.Machine.execVmsk y k s
  | .vmand y d a b => Sys2Proof.Machine.execVmand y d a b s
  | .vmor y d a b => Sys2Proof.Machine.execVmor y d a b s
  | .vmxor y d a b => Sys2Proof.Machine.execVmxor y d a b s
  | .vmnot y d a => Sys2Proof.Machine.execVmnot y d a s
  | .vmpop y z a => Sys2Proof.Machine.execVmpop y z a s
  | .vcvt y t m d s1 dt => Sys2Proof.Machine.execVcvt y t m d s1 dt s
  | .vqnt y t d s1 k sof => Sys2Proof.Machine.execVqnt y t d s1 k sof s
  | .vqntPb y t d s1 p sof => Sys2Proof.Machine.execVqntPb y t d s1 p sof s
  | .vscl y t d s1 k => Sys2Proof.Machine.execVscl y t d s1 k s
  | .vdeq y m d s1 s2 => Sys2Proof.Machine.execVdeq y m d s1 s2 s
  | .vld y m d off => Sys2Proof.Machine.execVld y m d off s
  | .vst y m d off => Sys2Proof.Machine.execVst y m d off s
  | .vgath y t m d s1 z => Sys2Proof.Machine.execVgath y t m d s1 z s
  | .vscat y t m d s1 z => Sys2Proof.Machine.execVscat y t m d s1 z s
  | .vacc y t m d tile => Sys2Proof.Machine.execVacc y t m d tile s
  | .vacw y m tile s1 => Sys2Proof.Machine.execVacw y m tile s1 s
  | .vview y t w base len count k => Sys2Proof.Machine.execVview y t w base len count k s
  | .vdefer y t m q s1 v p => Sys2Proof.Machine.execVdefer y t m q s1 v p s
  | .vdrain y t d q v p f k => Sys2Proof.Machine.execVdrain y t d q v p f k s
  | .ccopy y off => Sys2Proof.Machine.execCcopy y off s
  | .cred y off op ty => Sys2Proof.Machine.execCred y off op ty s
  | .cfill y off => Sys2Proof.Machine.execCfill y off s
  | .cpref y off => Sys2Proof.Machine.execCpref y off s
  | .cflush y off => Sys2Proof.Machine.execCflush y off s
  | .cnest y off => Sys2Proof.Machine.execCnest y off s
  | .cgo y off => Sys2Proof.Machine.execCgo y off s
  | .cgoChunk => Sys2Proof.Machine.execCgoChunk s
  | .cpack y off p => Sys2Proof.Machine.execCpack y off p s
  | .cunpack y off p => Sys2Proof.Machine.execCunpack y off p s
  | .cjump y off => Sys2Proof.Machine.execCjump y off s
  | .chainFetch => Sys2Proof.Machine.execChainFetch s
  | .unitStop c => Sys2Proof.Machine.execUnitStop c s
  | .eventWriteRetry => Sys2Proof.Machine.execEventWriteRetry s
  | .unitResume c => Sys2Proof.Machine.execUnitResume c s
  | .graceExpiry c => Sys2Proof.Machine.execGraceExpiry c s
  | .contDrainComplete c => Sys2Proof.Machine.execContDrainComplete c s
  | .unitEnd c => Sys2Proof.Machine.execUnitEnd c s
  | .unitPlacement c => Sys2Proof.Machine.execUnitPlacement c s
  | .tenantCheck d => Sys2Proof.Machine.execTenantCheck d s
  | .gangReservation d l => Sys2Proof.Machine.execGangReservation d l s
  | .gangPreemption d l => Sys2Proof.Machine.execGangPreemption d l s
  | .gangStart d l => Sys2Proof.Machine.execGangStart d l s
  | .watchdogExpiry d c => Sys2Proof.Machine.execWatchdogExpiry d c s
  | .islandGating wi => Sys2Proof.Machine.execIslandGating wi s
  | .railChangeComplete wi => Sys2Proof.Machine.execRailChangeComplete wi s
  | .islandResetComplete wi => Sys2Proof.Machine.execIslandResetComplete wi s
  | .islandFailure wi => Sys2Proof.Machine.execIslandFailure wi s
  | .revocationComplete c => Sys2Proof.Machine.execRevocationComplete c s
  | .hostMemoryWrite addr bytes => Sys2Proof.Machine.execHostMemoryWrite addr bytes s
  | .hostMemoryRead addr n => Sys2Proof.Machine.execHostMemoryRead addr n s
  | .createPartition p => Sys2Proof.Machine.execCreatePartition p s
  | .destroyPartition p => Sys2Proof.Machine.execDestroyPartition p s
  | .readRegister r => Sys2Proof.Machine.execReadRegister r s
  | .writeRegister r v => Sys2Proof.Machine.execWriteRegister r v s
  | .l2limWrite d v => Sys2Proof.Machine.execL2limWrite d v s
  | .monitorClear d n => Sys2Proof.Machine.execMonitorClear d n s
  | .monitorSample d n v => Sys2Proof.Machine.execMonitorSample d n v s
  | .phaseAccountWrite c n v => Sys2Proof.Machine.execPhaseAccountWrite c n v s
  | .fnodeWrite v => Sys2Proof.Machine.execFnodeWrite v s
  | .setHostEventRing addr entries => Sys2Proof.Machine.execSetHostEventRing addr entries s
  | .dispose p => Sys2Proof.Machine.execDispose p s
  | .resetIsland wi => Sys2Proof.Machine.execResetIsland wi s
  | .retireChannel stack ch => Sys2Proof.Machine.execRetireChannel stack ch s
  | .runPartition p => Sys2Proof.Machine.execRunPartition p s
  | .stopPartition p hard => Sys2Proof.Machine.execStopPartition p hard s
  | .swinuFragment id idx count bytes => Sys2Proof.Machine.execSwinuFragment id idx count bytes s
  | .swinuReassemblyTimeout id => Sys2Proof.Machine.execSwinuReassemblyTimeout id s
  | .curve msg => Sys2Proof.Machine.execCurve msg s
  | .rankCaps msg => Sys2Proof.Machine.execRankCaps msg s
  | .messageTakesEffect => Sys2Proof.Machine.execMessageTakesEffect s
  | .messageExpiry => Sys2Proof.Machine.execMessageExpiry s
  | .powerMeasurement mw => Sys2Proof.Machine.execPowerMeasurement mw s
  | .currentLimiter div => Sys2Proof.Machine.execCurrentLimiter div s
  | .schedulerPeriod => Sys2Proof.Machine.execSchedulerPeriod s
  | .slowBoundExpiry => Sys2Proof.Machine.execSlowBoundExpiry s
  | .parkYieldTimeout c => Sys2Proof.Machine.execParkYieldTimeout c s
  | .parkMigrationStart d => Sys2Proof.Machine.execParkMigrationStart d s
  | .stackMigrationComplete d => Sys2Proof.Machine.execStackMigrationComplete d s
  | .gradeLift => Sys2Proof.Machine.execGradeLift s
  | .heartbeat => Sys2Proof.Machine.execHeartbeat s
  | .heartbeatTimeout => Sys2Proof.Machine.execHeartbeatTimeout s
  | .spareCopyComplete bank row => Sys2Proof.Machine.execSpareCopyComplete bank row s
  | .powerOn => Sys2Proof.Machine.execPowerOn s
  | .trainingComplete badStacks badLinks => Sys2Proof.Machine.execTrainingComplete badStacks badLinks s
  | .fullServiceStart => Sys2Proof.Machine.execFullServiceStart s
  | .getVersion req => Sys2Proof.Machine.execGetVersion req s
  | .getCapabilities req => Sys2Proof.Machine.execGetCapabilities req s
  | .negotiateAlgorithms req => Sys2Proof.Machine.execNegotiateAlgorithms req s
  | .getDigests req => Sys2Proof.Machine.execGetDigests req s
  | .getCertificate req => Sys2Proof.Machine.execGetCertificate req s
  | .challenge req => Sys2Proof.Machine.execChallenge req s
  | .getMeasurements req => Sys2Proof.Machine.execGetMeasurements req s
  | .keyExchange req => Sys2Proof.Machine.execKeyExchange req s
  | .finish req => Sys2Proof.Machine.execFinish req s
  | .flitReceive port flit => Sys2Proof.Machine.execFlitReceive port flit s
  | .linkDown port => Sys2Proof.Machine.execLinkDown port s
  | .linkTrained port => Sys2Proof.Machine.execLinkTrained port s
  | .remoteAccessArrival r => Sys2Proof.Machine.execRemoteAccessArrival r s
  | .reducingChunkArrival r => Sys2Proof.Machine.execReducingChunkArrival r s
  | .remoteResponse id ans => Sys2Proof.Machine.execRemoteResponse id ans s
  | .remoteTimeout id => Sys2Proof.Machine.execRemoteTimeout id s
  | .waitNotice id => Sys2Proof.Machine.execWaitNotice id s
  | .nodeLoss node => Sys2Proof.Machine.execNodeLoss node s
  | .timeMessage tick => Sys2Proof.Machine.execTimeMessage tick s
  | .syncLoss => Sys2Proof.Machine.execSyncLoss s
  | .illegalInstruction w => Sys2Proof.Machine.execIllegalInstruction w s
  | .waittTickReached c q => Sys2Proof.Machine.execWaittTickReached c q s
  | .modulePowerRemoval => Sys2Proof.Machine.execModulePowerRemoval s

end Sys2Proof.Machine
end

