-- ==== Sys2Proof/Machine/Step.lean ====
section
/-! DEFINITION. One step: the head of the agenda, or the current stream when the agenda is empty. -/

namespace Sys2Proof.Machine

open Sys2Proof

/-- The current stream runs its next instruction, or has nothing to run. -/
def runTurn (s : State) : Host.Outcome State Fault Refusal :=
  match s.nextInstr with
  | some i => exec i s.ownWrites
  | none => .next s.noInstr

/-- An engine runs and leaves its writes to be performed later, octet by octet (R184, R242). -/
def slowTurn (c : CoreId) (e : Eng) (s : State) : Host.Outcome State Fault Refusal :=
  match runTurn ((s.turn c (.eng e)).lagging c e true) with
  | .next t => .next (s.leaveLate (t.lagging c e false) c e)
  | r => r

/-- A step that writes a table entry does not come about while an access translated through the entry waits for a remote node
(R296). -/
def State.heldBack (s : State) (r : Host.Outcome State Fault Refusal) : Host.Outcome State Fault Refusal :=
  match r with
  | .next t => if t.mem != s.mem && s.waitsRemote t.mem then .next s else .next t
  | r => r

/-- What the head of the agenda brings about. -/
def act (s : State) (a : Act) : Host.Outcome State Fault Refusal :=
  match a with
  | .run c t => runTurn (s.turn c t)
  | .event i => exec i s
  | .elapse n => .next (s.elapse n)
  | .drain c q id => .next (s.drainStore c q id)
  | .part c q id i => .next (s.performPart c q id i)
  | .slow c e => slowTurn c e s
  | .octet c e i => .next (s.performOctet c e i)
  | .refuse c e n => .next (s.bankRefusal c e n)
  | .badMem a b r => .next (s.damageMem a b r)
  | .badSpare b r => .next (s.damageSpare b r)
  | .badSpad c o => .next (s.damageSpad c o)
  | .badRow c b => .next (s.damageRow c b)
  | .badSof c b => .next (s.damageSof c b)
  | .badLatch c b => .next (s.damageLatch c b)
  | .badCode c a => .next (s.damageCode c a)
  | .corrected b r => .next (s.correctedError b r)
  | .hot d h => .next (s.temperature d h)
  | .barchan h => .next (s.barchanState h)
  | .timeSource on => .next (s.timeSource on)
  | .transit t => .next (s.passOn t)
  | .pages d n => .next (s.movePages d n)
  | .endLater l => .next (s.holdLaunch l true)
  | .endNow l => .next (s.holdLaunch l false)

/-- One step of the machine. -/
def step (s : State) : Host.Outcome State Fault Refusal :=
  match s.agenda with
  | [] => s.heldBack (runTurn s)
  | a :: rest =>
    let t := { s with agenda := rest }
    t.heldBack (act t a)

/-- s with the instruction whose bits are w where the next step fetches (bits above nbits zero). -/
def State.withFetchWord (s : State) (nbits w : Nat) : State := s.placed (w % 2 ^ nbits)

end Sys2Proof.Machine
end

