-- ==== Sys2Proof/Safety.lean ====
section
/-! DEFINITION. What a safe run is: every step answers a next state, and the stored bytes keep their canonical form. -/

namespace Sys2Proof.Machine

open Sys2Proof

/-- The step from s answers a next state. -/
def goesOn (s : State) : Prop := ∃ t, step s = .next t

/-- The stored bytes of a core keep their canonical form. -/
def Core.canonical (k : Core) : Bool :=
  Memory.wf k.code && Memory.wf k.urs && Memory.wf k.sof && Memory.wf k.latch && Memory.wf k.spad && Memory.wf k.erg.planes

/-- Memory and the stored bytes of every core keep their canonical form. -/
def State.canonical (s : State) : Bool := Memory.wf s.mem && s.cores.toList.all Core.canonical

/-- n steps that answer next states. -/
def runs : Nat → State → State → Prop
  | 0, s, t => t = s
  | n + 1, s, t => ∃ u, step s = .next u ∧ runs n u t

/-- Every step of a run from s answers a next state. -/
def safeFrom (s : State) : Prop := ∀ n t, runs n s t → goesOn t

end Sys2Proof.Machine
end

