-- ==== Sys2Proof/Certificates/Slice0/Obligations.lean ====
section
/-! DEFINITION. The statements for the provers: what an instruction, a row of the opcode table or the machine does, as the rules
of spec/ say it. The words that the statements share stand first. -/

namespace Sys2Proof.Claim

open Sys2Proof Sys2Proof.Machine

/-! ## Shared words -/

/-- The state after the current sequencer completes an instruction of n words that moved t bytes, on core k. -/
def done (s : State) (k : Core) (n t : Nat) : State := (s.setCore s.core k).finish n t

/-- The state after the current sequencer takes a branch, on core k. -/
def jumped (s : State) (k : Core) (pc : BitVec 17) (call : Bool) : State := (s.setCore s.core k).finishJump pc call

/-- Two states differ at most in the current core, in the reasons of units, and in what the model keeps for itself. -/
def sameOutside (s t : State) : Prop :=
  t.tick = s.tick ∧ t.cycle = s.cycle ∧ t.islands = s.islands ∧ t.dies = s.dies ∧ t.ctxs = s.ctxs ∧ t.launches = s.launches ∧ t.power = s.power ∧
  t.service = s.service ∧ t.host = s.host ∧ t.memctl = s.memctl ∧ t.fabric = s.fabric ∧ t.core = s.core ∧ t.stream = s.stream ∧
  t.live = s.live ∧ t.memBad = s.memBad ∧ t.tenants = s.tenants ∧ t.far = s.far ∧ t.mem = s.mem ∧
  ∀ c, c ≠ s.core → { t.coreAt c with unit := (s.coreAt c).unit } = s.coreAt c

/-- A core apart from its sequencers, its queues between them, its unit, BUDI and BUDT, and the bytes it has been charged in the
period of R352. -/
def coreRest (k : Core) : Core :=
  { k with a := Seq.reset, x := Seq.reset, ax0 := [], ax1 := [], xa0 := [], xa1 := [], axOut := [], xaOut := [], unit := none,
           periodBytes := 0, sys := { k.sys with budi := 0, budt := 0 } }

/-- The registers of a sequencer and what an instruction that only computes leaves: everything but the program counter, the
loop levels and the sequence number. -/
def seqRest (q : Seq) : Seq := { q with pc := 0, loops := [], seqno := 0, stall := .none, cont := none }

/-! ## Values of the integer groups (R118 to R121) -/

/-- The three-register instructions with their values (R118, R119, R120). -/
def three (d a b : GReg) : List (Instr × (W64 → W64 → W64)) :=
  [(.add d a b, fun x y => BitVec.ofInt 64 (x.toInt + y.toInt)),
   (.sub d a b, fun x y => BitVec.ofInt 64 (x.toInt - y.toInt)),
   (.and d a b, fun x y => x &&& y), (.or d a b, fun x y => x ||| y), (.xor d a b, fun x y => x ^^^ y),
   (.andn d a b, fun x y => x &&& ~~~ y),
   (.shl d a b, fun x y => BitVec.ofNat 64 (x.toNat * 2 ^ (y.toNat % 64))),
   (.shr d a b, fun x y => BitVec.ofNat 64 (x.toNat / 2 ^ (y.toNat % 64))),
   (.sra d a b, fun x y => BitVec.ofInt 64 (x.toInt / 2 ^ (y.toNat % 64))),
   (.rol d a b, fun x y => (x <<< (y.toNat % 64)) ||| (x >>> (64 - y.toNat % 64))),
   (.min d a b, fun x y => if x.toInt ≤ y.toInt then x else y), (.max d a b, fun x y => if x.toInt ≤ y.toInt then y else x),
   (.minu d a b, fun x y => if x.toNat ≤ y.toNat then x else y), (.maxu d a b, fun x y => if x.toNat ≤ y.toNat then y else x),
   (.slt d a b, fun x y => if x.toInt < y.toInt then 1 else 0), (.sltu d a b, fun x y => if x.toNat < y.toNat then 1 else 0),
   (.seq d a b, fun x y => if x = y then 1 else 0),
   (.bfxu d a b, fun x y => BitVec.ofNat 64 (x.toNat / 2 ^ (y.toNat % 64) %
      2 ^ (if y.toNat / 256 % 64 = 0 then 64 else y.toNat / 256 % 64))),
   (.mul d a b, fun x y => BitVec.ofNat 64 (x.toNat * y.toNat)),
   (.mulh d a b, fun x y => BitVec.ofInt 64 (x.toInt * y.toInt / 2 ^ 64)),
   (.mulhu d a b, fun x y => BitVec.ofNat 64 (x.toNat * y.toNat / 2 ^ 64)),
   (.div d a b, fun x y => if y = 0 then BitVec.allOnes 64 else BitVec.ofInt 64 (x.toInt.tdiv y.toInt)),
   (.divu d a b, fun x y => if y = 0 then BitVec.allOnes 64 else BitVec.ofNat 64 (x.toNat / y.toNat)),
   (.rem d a b, fun x y => if y = 0 then x else BitVec.ofInt 64 (x.toInt.tmod y.toInt)),
   (.remu d a b, fun x y => if y = 0 then x else BitVec.ofNat 64 (x.toNat % y.toNat))]

/-- The instructions with one source and a value that the rules give as a formula (R121), LDK among them, which reads its
destination. -/
def one (d a : GReg) (i : BitVec 16) (n : Fin 64) : List (Instr × (W64 → W64)) :=
  [(.addi d a i, fun x => BitVec.ofInt 64 (x.toInt + i.toInt)), (.andi d a i, fun x => x &&& BitVec.ofInt 64 i.toInt),
   (.ori d a i, fun x => x ||| BitVec.ofNat 64 i.toNat), (.xori d a i, fun x => x ^^^ BitVec.ofNat 64 i.toNat),
   (.shli d a n, fun x => BitVec.ofNat 64 (x.toNat * 2 ^ n.val)), (.shri d a n, fun x => BitVec.ofNat 64 (x.toNat / 2 ^ n.val)),
   (.srai d a n, fun x => BitVec.ofInt 64 (x.toInt / 2 ^ n.val)),
   (.roli d a n, fun x => (x <<< n.val) ||| (x >>> (64 - n.val))),
   (.popc d a, fun x => BitVec.ofNat 64 ((List.range 64).countP fun j => x.getLsbD j))]

/-- v is the number of bits of x, read in the order f, before the first that is set; 64 where none is (R119). -/
def runOfZeros (f : Nat → Nat) (x : W64) (v : Nat) : Prop :=
  v ≤ 64 ∧ (∀ j, j < v → x.getLsbD (f j) = false) ∧ (v < 64 → x.getLsbD (f v) = true)

/-! ## Accesses -/

/-- Core k with an access of the current sequencer put behind the others of it (R108), issued now. -/
def behind (s : State) (k : Core) (op : AccessOp) (c : Cls) (d : Dest) (ps : List Piece) (acq rel wide : Bool) : Core :=
  let q := s.seqId
  let new (y : Seq) : Access :=
    { id := y.seqno.toNat, cls := c, op := op, dest := d, pieces := ps, acq := acq, rel := rel, wide := wide, since := s.tick,
      answers := [], sent := false }
  k.modSeq q fun y => { y with out := y.out ++ [new y] }

/-- A store through a fabric window makes the segment irreversible (R382). -/
def storeMark (s : State) (ps : List Piece) (t : State) : State := if ps.any Piece.isRemote then t.irreversible s.core else t

/-- BUDT of an access (R111): its bytes, nothing in the local window. -/
def moved (ps : List Piece) (n : Nat) : Nat := if ps.any fun p => p.space == .spad then 0 else n

/-- Nothing of a core is under way: no access, no deferred cause, every engine idle. A stop takes its cut at once (R25). -/
def quiet (k : Core) : Prop :=
  k.a.out = [] ∧ k.x.out = [] ∧ k.a.deferred = [] ∧ k.x.deferred = [] ∧ ∀ e, (k.eng e).chunks = [] ∧ (k.eng e).phase = .idle

/-- No copy has octets left to write (R242). -/
def noOctets (s : State) : Prop := ∀ c e, ((s.coreAt c).eng e).todo = []

/-- No access of any sequencer is under way, and no copy. -/
def noneInFlight (s : State) : Prop := (∀ c q, ((s.coreAt c).seq q).out = []) ∧ noOctets s

/-- Nothing under way was translated through a table entry in these ranges (R296). -/
def untouched (s : State) (rs : List (Nat × Nat)) : Prop := s.through rs = [] ∧ noOctets s

/-- A load of n bytes has one value (R240, R290): no two sets hold the bytes for a tenant id, and nothing that another node wrote is
still unseen. -/
def oneValue (s : State) (who : Option (CoreId × SeqId × Cls)) (ten pa n : Nat) : Prop :=
  s.twoSets ten pa n = false ∧ ∀ i, i < n → s.farByte who (pa + i) = none

/-- After an acquire or a FENCE of a scope: at fab and sys, what other nodes have written is seen from here on (R238, R240). -/
def seen (s : State) (sc : Scope) : State := if scopeRemote sc then { s with far := [] } else s

/-- The completion record of launch l of context x can be written whole at p (R249), and nothing watches memory. -/
def recordGoes (s : State) (l : Launch) (x : Ctx) (p : Piece) : Prop :=
  s.ctx l.ctx = some x ∧ s.memPiecesAs true l.ctx l.task.compl 64 2 = .ok [p] ∧ s.writeBar [p] = none ∧ p.len = 64 ∧
  untouched s [(p.addr, 64)] ∧ ∀ d, (s.die d).watch = []

/-- Launch l of context x ended between s and t (R248, R249): it is queued no longer, its record at p holds STATUS, START and the rest, and
each counter that it names is one higher. -/
def launchEnds (s t : State) (l : Launch) (x : Ctx) (p : Piece) (status : BitVec 8) (start : W64) (iused tused : BitVec 48) : Prop :=
  t.launch l.id = none ∧ getByte t.mem p.addr = status ∧
  (∀ f, f ∈ [(2, 2, l.faults), (7, 1, l.fcause.toNat), (8, 8, start.toNat), (0x10, 8, s.tick.toNat), (0x18, 6, iused.toNat),
      (0x1E, 2, l.ctx % 4096), (0x20, 8, l.id), (0x28, 6, tused.toNat), (0x2E, 2, 0), (0x30, 8, (x.completions + 1).toNat), (0x38, 8, 0)] →
    getNat t.mem (p.addr + f.1) f.2.1 = f.2.2 % 2 ^ (8 * f.2.1)) ∧
  ∀ c, c ∈ [(Level.launch, l.task.ccl), (.graph, l.task.ccg), (.phase, l.task.ccp), (.job, l.task.ccj)] → c.2 ≠ 255 →
    (t.ctx l.ctx).map (fun y => y.counter c.1 c.2.val) = some (x.counter c.1 c.2.val + 1)

/-- n bytes of a save area at an offset, of the ranges with which it is written. -/
def areaNat (rs : List (Nat × Nat × Cells)) (off n : Nat) : Nat :=
  match rs.find? fun r => decide (r.1 ≤ off) && decide (off + n ≤ r.1 + r.2.1) with
  | some r => getNat r.2.2 (off - r.1) n
  | none => 0

/-- Where the block of a sequencer lies in a save area (R264). -/
def seqPlace (q : SeqId) : Nat := if q = .a then 0x200 else 0x600

/-- The fields of a hard save of unit u on core k with stop st (R28, R264 to R266): offset, bytes, value. -/
def savedFields (k : Core) (u : Resident) (st : Stop) (tick : W64) : List (Nat × Nat × Nat) :=
  [(0x00, 2, 1), (0x02, 1, st.kind.toNat), (0x03, 1, match st.causes with | z :: _ => z.stream | [] => 255), (0x38, 8, tick.toNat),
   (0x100, 2, 1), (0x102, 1, 1), (0x103, 1, u.reasons.toNat), (0x106, 1, u.variant.val), (0x107, 1, k.sys.level.val),
   (0x108, 6, k.sys.budi.toNat), (0x10E, 6, k.sys.budt.toNat), (0x114, 4, k.sys.budg.toNat), (0x118, 1, k.divReq.c.val),
   (0x119, 1, k.divReq.m.val), (0x11A, 1, k.divReq.v.val), (0x11B, 1, k.divReq.w.val), (0x120, 8, k.sys.seed.toNat),
   (0x128, 6, k.sys.stallv.toNat), (0x12E, 6, k.sys.stallm.toNat), (0x140, 8, u.launch), (0x148, 4, u.unit),
   (0x1240, 1, k.serir.sel.val), (0x8100, 192, k.valid.toNat)]
  ++ ([SeqId.a, .x].map fun q =>
       [(8 + 8 * seqIndex q, 8, (k.seq q).seqno.toNat), (seqPlace q + 0x200, 4, (k.seq q).pc.toNat),
        (seqPlace q + 0x205, 1, (k.seq q).loops.length)]).flatten
  ++ engines.map fun e => (8 + 8 * streamIndex (.eng e), 8, (k.eng e).seqno.toNat)

/-- The arrays of a hard save (R264, R266): registers, local semaphores, lane generators, masks, and the bytes of SOF, latch, URS,
scratchpad and plane latches. -/
def savedArrays (k : Core) (rs : List (Nat × Nat × Cells)) : Prop :=
  (∀ q (i : Fin 32), areaNat rs (seqPlace q + 8 * i.val) 8 = (k.seq q).g[i].toNat) ∧
  (∀ q (i : Fin 16), areaNat rs (seqPlace q + 0x100 + 16 * i.val) 16 = (k.seq q).a[i].toNat) ∧
  (∀ i : Fin 48, areaNat rs (0xC20 + 2 * i.val) 2 = k.sems[i].toNat) ∧
  (∀ i : Fin 64, areaNat rs (0x1000 + 8 * i.val) 8 = k.serir.lanes[i].toNat) ∧
  (∀ i : Fin 8, areaNat rs (0x2000 + 2048 * i.val) 2048 = k.serir.masks[i].toNat) ∧
  (∀ a, a < 4096 → areaNat rs (0x7000 + a) 1 = (getByte k.sof a).toNat) ∧
  (∀ a, a < 256 → areaNat rs (0x8000 + a) 1 = (getByte k.latch a).toNat) ∧
  (∀ a, a < 0x60000 → areaNat rs (0x10000 + a) 1 = (getByte k.urs a).toNat) ∧
  (∀ a, a < 0x400000 → areaNat rs (0x80000 + a) 1 = (getByte k.spad a).toNat) ∧
  (∀ a, a < 0x8200 → areaNat rs (0x4C2000 + a) 1 = (getByte k.erg.planes a).toNat)

/-- What a unit has back after a hard pre-emption (R27, R264 to R266) from the cells of its save area: its sequencers, semaphores, lane
generators, divisors, SEED, the entries that had begun, the bytes of URS and scratchpad. -/
def hardBack (k : Core) (m : Cells) : Prop :=
  (∀ q (i : Fin 32), i.val ≠ 0 → (k.seq q).g[i].toNat = getNat m (seqPlace q + 8 * i.val) 8) ∧
  (∀ q (i : Fin 16), (k.seq q).a[i].toNat = getNat m (seqPlace q + 0x100 + 16 * i.val) 10) ∧
  (∀ q (i : Fin 32), (k.seq q).gMark[i].isSome = (getNat m (seqPlace q + 0x250) 4).testBit i.val) ∧
  (∀ q, (k.seq q).halted = (getNat m (seqPlace q + 0x204) 1).testBit 0) ∧
  (∀ q, (k.seq q).seqno.toNat = getNat m (8 + 8 * seqIndex q) 8 % 2 ^ 48) ∧
  (∀ i : Fin 48, k.sems[i].toNat = getNat m (0xC20 + 2 * i.val) 2) ∧
  (∀ i : Fin 64, k.serir.lanes[i].toNat = getNat m (0x1000 + 8 * i.val) 8) ∧
  k.sys.seed.toNat = getNat m 0x120 8 ∧ k.valid.toNat = getNat m 0x8100 192 ∧
  (∀ e, getNat m (0x40 + 32 * (streamIndex (.eng e) - 2) + 16) 1 = 1 →
    (k.eng e).head.map (fun h => h.word.toNat) = some (getNat m (0x40 + 32 * (streamIndex (.eng e) - 2) + 8) 8)) ∧
  (getNat m 0x70 1 = 1 → k.vEng.phase = .running (.elems (getNat m 0x71 2))) ∧
  (getNat m 0x50 1 = 1 → getNat m 0x4D 1 = 0x0C → k.mEng.phase = .running (.tokens (getNat m 0x51 1))) ∧
  (∀ a, a < 0x60000 → getByte k.urs a = getByte m (0x10000 + a)) ∧
  (∀ a, a < 0x400000 → getByte k.spad a = getByte m (0x80000 + a))

/-- What a unit has back after a yield at continuation entry e (R262, R266): the live registers, zero in place of the rest, the semaphores,
lane generators and divisors, and its live rows and bytes. -/
def yieldBack (k : Core) (e : ContEntry) (m : Cells) : Prop :=
  (∀ q (i : Fin 32), i.val ≠ 0 → (k.seq q).g[i].toNat = if e.names 1 i.val then getNat m (seqPlace q + 8 * i.val) 8 else 0) ∧
  (∀ q (i : Fin 16), (k.seq q).a[i].toNat = if e.names 2 i.val then getNat m (seqPlace q + 0x100 + 16 * i.val) 10 else 0) ∧
  (∀ q, (k.seq q).halted = false ∧ (k.seq q).loops = [] ∧ ∀ i : Fin 32, (k.seq q).gMark[i] = none) ∧
  (∀ i : Fin 48, k.sems[i].toNat = getNat m (0xC20 + 2 * i.val) 2) ∧
  (∀ i : Fin 64, k.serir.lanes[i].toNat = getNat m (0x1000 + 8 * i.val) 8) ∧
  (∀ i ∈ e.items, i.kind = 3 → ∀ a, 256 * i.first ≤ a → a < 256 * (i.first + i.count) →
    getByte k.urs a = getByte m (0x10000 + a) ∧ (a < 0x60000 → k.valid.getLsbD (a / 256) = true)) ∧
  (∀ i ∈ e.items, i.kind = 4 → ∀ a, i.first ≤ a → a < i.first + i.count → getByte k.spad a = getByte m (0x80000 + a))

/-- g[d] is a register of its own (R70) that no outstanding load will write. -/
def plain (s : State) (d : GReg) : Prop := 1 ≤ d.val ∧ d.val ≤ 27 ∧ s.curSeq.awaits d = false

/-- What a pop or a steal leaves (R253): its code, its item where there is one, the program counter behind it; memory as it was. -/
def popped (s t : State) (d a : GReg) (code : W64) (item : Option W64) : Prop :=
  (plain s d → t.curSeq.g[d] = code) ∧ (∀ v, item = some v → plain s a → a ≠ d → t.curSeq.g[a] = v) ∧
  (item = none → plain s a → a ≠ d → t.curSeq.g[a] = s.curSeq.g[a]) ∧ t.curSeq.pc = (s.finish 1 16).curSeq.pc ∧ t.mem = s.mem

/-! ## Serir (R152 to R162) -/

/-- Element e of an operand (R152). -/
def elem (k : Core) (o : Opd) (size e : Nat) : Nat := (k.patterns o size e 1).headD 0

/-- Writing one operand pass by pass does not disturb reading the other: same place and element size, or disjoint (R155). -/
def apart (k : Core) (d o : Opd) (same : Bool) : Prop :=
  match d, o with
  | .row v r, .row w q => ∀ x y, k.rowOf v r.val = some x → k.rowOf w q.val = some y →
      (same = true ∧ x.1 = y.1) ∨ x.1 + x.2 ≤ y.1 ∨ y.1 + y.2 ≤ x.1
  | d, o => same = true ∨ d ≠ o

/-- The stored bytes of a core have their canonical form. -/
def canonical (k : Core) : Prop :=
  Memory.wf k.urs = true ∧ Memory.wf k.sof = true ∧ Memory.wf k.latch = true ∧ Memory.wf k.spad = true

/-- What an element-wise command is (R158 to R163): masked or not, stochastic, reading its destination; its operands and their types;
elements and cycles of a pass; its result from a, b, d, the mask bit and the rounding. -/
structure Form where
  i : Instr
  m : Bool
  sr : Bool
  readsD : Bool
  d : Opd
  a : Opd
  b : Option Opd
  td : VType
  t1 : VType
  w : Nat
  busy : Nat
  f : Nat → Nat → Nat → Bool → Rnd → Nat

/-- A result of the floating-point types rounded from the exact one (R88), of the integer types wrapped (R92). -/
def ofExact (fp : Machine.Num → Machine.Num → Machine.Num) (int : Int → Int → Int) (t : VType) (r : Rnd) (x y : Nat) : Nat :=
  if t.isFp then (vfmt t).encode r (fp (valueOf t x) (valueOf t y)) else wrapTo t (int (intOf t x) (intOf t y))

/-- The uses of the operands of a form with n elements (R152, R153). -/
def Form.uses (F : Form) (n : Nat) : List Use :=
  [dstUse F.d F.td n F.readsD, srcUse F.a F.t1 n] ++ (match F.b with | some o => [srcUse o F.t1 n] | none => [])

/-- The two-source commands on one type, rounded to nearest, and the integer ones (R158). -/
def forms2 (y : Sync) (t : VType) (m : Bool) (d a b : Opd) : List Form :=
  let F (i : Instr) (f : Nat → Nat → Nat) : Form :=
    ⟨i, m, false, false, d, a, some b, t, t, 256 / VType.size t, 1, fun x z _ _ _ => f x z⟩
  let bits := 8 * VType.size t
  [F (.vadd y t m d a b) (ofExact Machine.Num.add (· + ·) t .rne), F (.vsub y t m d a b) (ofExact (fun x z => x.add z.neg) (· - ·) t .rne),
   F (.vmul y t m d a b) (ofExact Machine.Num.mul (· * ·) t .rne), F (.vmin y t m d a b) (ofExact Machine.Num.minimum min t .rne),
   F (.vmax y t m d a b) (ofExact Machine.Num.maximum max t .rne),
   F (.vaddRz y t m d a b) (ofExact Machine.Num.add (· + ·) t .rtz), F (.vsubRz y t m d a b) (ofExact (fun x z => x.add z.neg) (· - ·) t .rtz),
   F (.vmulRz y t m d a b) (ofExact Machine.Num.mul (· * ·) t .rtz),
   F (.vadds y t m d a b) (fun x z => wrapTo t (max (intRange t).1 (min (intRange t).2 (intOf t x + intOf t z)))),
   F (.vsubs y t m d a b) (fun x z => wrapTo t (max (intRange t).1 (min (intRange t).2 (intOf t x - intOf t z)))),
   F (.vand y t m d a b) (fun x z => x &&& z), F (.vor y t m d a b) (fun x z => x ||| z), F (.vxor y t m d a b) (fun x z => x ^^^ z),
   F (.vshl y t m d a b) (fun x z => x * 2 ^ (z % bits)), F (.vshr y t m d a b) (fun x z => x / 2 ^ (z % bits)),
   F (.vsra y t m d a b) (fun x z => wrapTo t (intOf t x / 2 ^ (z % bits)))]

/-- The commands that round stochastically, and those that read their destination (R94, R158, R159). -/
def forms3 (y : Sync) (t : VType) (m : Bool) (d a b : Opd) : List Form :=
  let S (i : Instr) (f : Rnd → Nat → Nat → Nat) : Form :=
    ⟨i, m, true, false, d, a, some b, t, t, 256 / VType.size t, 1, fun x z _ _ r => f r x z⟩
  let fma (r : Rnd) (x z u : Nat) : Nat := (vfmt t).encode r ((valueOf t u).add ((valueOf t x).mul (valueOf t z)))
  let M (i : Instr) (sr : Bool) (g : Rnd → Rnd) : Form :=
    ⟨i, m, sr, true, d, a, some b, t, t, 256 / VType.size t, 1, fun x z u _ r => fma (g r) x z u⟩
  [S (.vaddSr y t m d a b) (ofExact Machine.Num.add (· + ·) t), S (.vsubSr y t m d a b) (ofExact (fun x z => x.add z.neg) (· - ·) t),
   S (.vmulSr y t m d a b) (ofExact Machine.Num.mul (· * ·) t),
   M (.vfma y t m d a b) false (fun _ => .rne), M (.vfmaRz y t m d a b) false (fun _ => .rtz), M (.vfmaSr y t m d a b) true (fun r => r),
   ⟨.vmac8 y t m d a b, m, false, true, d, a, some b, .int32, t, 256, 1,
    fun x z u _ _ => wrapTo .int32 (intOf .int32 u + intOf t x * intOf t z)⟩,
   ⟨.vsel y t d a b, false, false, false, d, a, some b, t, t, 256 / VType.size t, 1, fun x z _ c _ => if c then x else z⟩]

/-- The one-source commands (R105, R158, R163, R169). -/
def forms1 (y : Sync) (t dt : VType) (m : Bool) (d a : Opd) (sh : Fin 32) : List Form :=
  let F (i : Instr) (f : Nat → Nat) : Form :=
    ⟨i, m, false, false, d, a, none, t, t, 256 / VType.size t, 1, fun x _ _ _ _ => f x⟩
  let C (i : Instr) (sr : Bool) (g : Rnd → Rnd) : Form :=
    ⟨i, m, sr, false, d, a, none, dt, t, 256 / max (VType.size t) (VType.size dt), 1, fun x _ _ _ r =>
      if dt.isFp then (vfmt dt).encode (g r) (valueOf t x)
      else wrapTo dt ((valueOf t x).toInt (g r) (intRange dt).1 (intRange dt).2)⟩
  let U (i : Instr) (g : Fun1) : Form := ⟨i, m, false, false, d, a, none, .fp32, .fp32, 64, 4, fun x _ _ _ _ => fun1 g x⟩
  [F (.vabs y t m d a) (fun x => if t.isFp then (vfmt t).encode .rne (valueOf t x).abs else wrapTo t (intOf t x).natAbs),
   F (.vneg y t m d a) (fun x => if t.isFp then (vfmt t).encode .rne (valueOf t x).neg else wrapTo t (-(intOf t x))),
   F (.vbcst y t m d a) (fun x => x),
   C (.vcvt y t m d a dt) false (fun _ => .rne), C (.vcvtRz y t m d a dt) false (fun _ => .rtz), C (.vcvtSr y t m d a dt) true (fun r => r),
   U (.vexp2 y m d a) .exp2, U (.vlog2 y m d a) .log2, U (.vrcp y m d a) .rcp, U (.vrsq y m d a) .rsq, U (.vsqrt y m d a) .sqrt,
   ⟨.vrshr y t m d a sh, m, false, false, d, a, none, t, .int32, 64, 1, fun x _ _ _ _ =>
      wrapTo t (max (intRange t).1 (min (intRange t).2
        ((intOf .int32 x + (if sh.val = 0 then 0 else 2 ^ (sh.val - 1))) / 2 ^ sh.val)))⟩]

/-- The rounding of element e: a stochastic command draws from lane e mod 64, one draw for each 64 elements (R94, R95). -/
def drawFor (sr : Bool) (lanes : Vector W64 64) (e : Nat) : Rnd :=
  if sr then .sr ((Nat.repeat laneStep (e / 64 + 1) (lanes[Fin.ofNat 64 e])).toNat / 2 ^ 40) else .rne

/-- The compares with their relations (R88, R160). -/
def compares (y : Sync) (t : VType) (m : Bool) (j : Fin 8) (a b : Opd) : List (Instr × (Nat → Nat → Bool)) :=
  let eq (x z : Nat) : Bool := if t.isFp then (valueOf t x).eq (valueOf t z) else intOf t x == intOf t z
  let lt (x z : Nat) : Bool := if t.isFp then (valueOf t x).lt (valueOf t z) else decide (intOf t x < intOf t z)
  [(.vceq y t m j a b, eq), (.vcne y t m j a b, fun x z => !eq x z), (.vclt y t m j a b, lt),
   (.vcle y t m j a b, fun x z => lt x z || eq x z)]

/-- The elements that one turn of a V command takes: a short command all n of them, a long one its next pass of w (R155 to
R157). -/
def turn (s : State) (long : Bool) (w n : Nat) : Nat × Nat := if long then (s.vecDone, min n (s.vecDone + w)) else (0, n)

/-- Element e is among those of the turn. -/
def inTurn (s : State) (long : Bool) (w n e : Nat) : Bool := decide ((turn s long w n).1 ≤ e) && decide (e < (turn s long w n).2)

/-- The phase that the turn leaves: done, with the charge of R156 for a short command and each pass charged as it completes for a
long one, or standing at its index (R157). -/
def turnPhase (s : State) (long : Bool) (w busy n : Nat) : Phase :=
  if long then (if n ≤ s.vecDone + w then .done 0 (busy * ceilDiv n w) 0 1 else .running (.elems (s.vecDone + w)))
  else .done (busy * ceilDiv n w) (busy * ceilDiv n w) 0 1

/-- The checks that every V command shares pass for its operands (R183): views, rows, lengths and types, declared tiles, and the
validity of the rows that it reads. -/
def usesPass (k : Core) (us : List Use) : Prop :=
  k.useFault .v us = none ∧ k.coverFault us = none ∧ k.invalidFault (us.map k.readRange).flatten = none

/-- A V command may take its turn: its operands pass the checks of R183, no element that the turn acts on is uncorrectable, and a
long command stands at a pass that is left, with no stop pending. -/
def vecReady (s : State) (m : Bool) (us : List Use) (long : Bool) (w n : Nat) : Prop :=
  canonical s.cur ∧ usesPass s.cur us ∧ s.cur.ursFault m us (turn s long w n).1 (turn s long w n).2 = none ∧
  (long = false → s.vecDone = 0) ∧ (long = true → s.cur.stop = none ∧ s.vecDone < n ∧ s.vecDone % w = 0)

/-- A state of the V stream changed nothing else: sequencers, other engines, the scratchpad, memory. -/
def vecRest (s t : State) : Prop :=
  (∀ q, t.cur.seq q = s.cur.seq q) ∧ (∀ e, e ≠ .v → t.cur.eng e = s.cur.eng e) ∧ t.cur.spad = s.cur.spad ∧ t.cur.sys = s.cur.sys ∧
  t.mem = s.mem ∧ (∀ c, c ≠ s.core → t.coreAt c = s.coreAt c)

/-- A command that reads its sources before it writes (R155) is done after busy cycles with its count; only Serir, the URS, the
SOF and the latch change. -/
def onceDone (s u : State) (busy count : Nat) : Prop := u.cur.vEng.phase = .done busy busy 0 count ∧ vecRest s u

/-- What a turn leaves alone: a pass of a long command is charged at once, to the budgets and the unit (R254, R255). -/
def turnRest (s t : State) (long : Bool) : Prop :=
  if long then
    (∀ q, t.cur.seq q = s.cur.seq q) ∧ (∀ e, e ≠ .v → t.cur.eng e = s.cur.eng e) ∧ t.cur.spad = s.cur.spad ∧ t.mem = s.mem ∧
    { t.cur.sys with budi := 0 } = { s.cur.sys with budi := 0 } ∧
    (∀ c, c ≠ s.core → { t.coreAt c with unit := (s.coreAt c).unit } = s.coreAt c)
  else vecRest s t

end Sys2Proof.Claim

open Sys2Proof Sys2Proof.Machine Sys2Proof.Claim

/-! ## Encoding -/

/-- Decoding the words of a well-formed sequencer instruction gives it back, with every operand (R37 to R55). -/
def Obligations.DecodeEncodeSeq : Prop :=
  ∀ i : Instr, i.isSeq = true → i.wf = true → decodeWords (encodeSeq i) = some i

/-- Decoding the word of a well-formed engine command on a stream of its kind gives it back (R13, R56 to R60). -/
def Obligations.DecodeEncodeCmd : Prop :=
  ∀ (i : Instr) (e : Eng) (y : Sync), i.cmd = some (e.kind, y) → (∀ d z, i = .engineNop d z → d = e) → i.wf = true →
    decodeCmd e (encodeCmd i) = .ok i

/-- Words written out from the encoding tables decode to their instructions (R42 to R60). -/
def Obligations.KnownWords : Prop :=
  decodeWords [0x0443_1000] = some (.add 2 3 2) ∧ decodeWords [0x1043_FFFF] = some (.addi 2 3 0xFFFF) ∧
  decodeWords [0x6006_0184] = some (.amoSwap 0 3 0 1 .rel .fab) ∧ decodeWords [0x60A6_005C] = some (.amoOr 5 3 0 0 .acq .fab) ∧
  decodeWords [0] = none ∧
  decodeCmd .v 0x0000840080100403 = .ok (.vfmaSr ⟨0, .none, 0, .none⟩ .fp32 false (.row 1 0) (.row 2 0) (.sof 3)) ∧
  decodeCmd .m 0x090D0C00400007A0 = .ok (.mdelta ⟨2, .take, 3, .add⟩ 0 1 15 0x20000) ∧
  decodeCmd .c1 0xC209010000003040 = .ok (.ccopy ⟨48, .peek, 2, .add⟩ 0x3040)

/-- When the word at the program counter of a running sequencer decodes to an instruction, the step is that instruction's (R12,
R37); the same for the entry that an engine stream has started, whose writes still to come are performed first, and for an event
that the agenda gives. Around the instruction a step adds one thing (R296): where its effect would change a table entry that an
access waiting for a remote node was translated through, it does not come about, and the state stays. That the agenda says what
comes next is the model's choice (log 11). -/
def Obligations.StepRunsDecoded : Prop :=
  (∀ (s : State) (t : State), (t.mem = s.mem ∨ s.waitsRemote t.mem = false → s.heldBack (.next t) = .next t) ∧
    (t.mem ≠ s.mem → s.waitsRemote t.mem = true → s.heldBack (.next t) = .next s)) ∧
  (∀ (s : State) (q : SeqId) (i : Instr), s.agenda = [] → s.stream = .seq q → s.cur.seqRuns q = true →
    s.cur.badWord (s.cur.seq q).pc = false →
    decodeWords [s.cur.wordAt (s.cur.seq q).pc, s.cur.wordAt ((s.cur.seq q).pc + 4), s.cur.wordAt ((s.cur.seq q).pc + 8)] = some i →
    step s = s.heldBack (exec i s)) ∧
  (∀ (s : State) (e : Eng) (h : Head) (i : Instr), s.agenda = [] → s.stream = .eng e → s.cur.unit.isSome = true →
    s.cur.handled = none → (s.cur.eng e).chunks = [] → (s.cur.eng e).phase = .running .fresh → (s.cur.eng e).head = some h →
    decodeCmd e h.word.toNat = .ok i →
    step s = s.heldBack (exec i s.ownWrites) ∧ ((s.cur.eng e).late = [] → step s = s.heldBack (exec i s))) ∧
  (∀ (s t : State) (i : Instr) (r : List Act), s.agenda = .event i :: r → t = { s with agenda := r } → step s = t.heldBack (exec i t)) ∧
  (∀ (s u : State) (c : CoreId) (t : StreamId) (r : List Act) (i : Instr), s.agenda = .run c t :: r →
    u = { s with agenda := r, core := c, stream := t } → u.nextInstr = some i →
    step s = ({ s with agenda := r } : State).heldBack (exec i u.ownWrites))

/-! ## Registers and completion -/

/-- General registers (R70, R72). Reading: g0, g30 and g31 read as 0; g28 and g29 pop a data queue, stall while it is empty with
a producer that may still push, and trap when it never will; a register whose load has not returned stalls; another gives its
value. Writing: g0, g28 and g29 discard; g30 and g31 push, and stall while the queue holds 16 entries; another takes the value,
and no other register changes. -/
def Obligations.RegisterReadsAndWrites : Prop :=
  (∀ (k : Core) (q : SeqId) (r : GReg),
    ((r = 0 ∨ r = 30 ∨ r = 31) → k.readG q r = .ok (0, k)) ∧
    (∀ second : Bool, r = (if second then 29 else 28) →
      (∀ v l, k.inbound q second = .ready v none :: l → k.readG q r = .ok (v, k.setInbound q second l)) ∧
      (k.inbound q second = [] → k.producerDone q = false → k.readG q r = .stall .popEmpty) ∧
      (k.inbound q second = [] → k.producerDone q = true → k.readG q r = .trap 0x08 0 (if second then 2 else 0))) ∧
    (1 ≤ r.val → r.val ≤ 27 →
      ((k.seq q).awaits r = true → k.readG q r = .stall .interlock) ∧
      ((k.seq q).awaits r = false → (k.seq q).gMark[r] = none → k.readG q r = .ok ((k.seq q).g[r], k)))) ∧
  (∀ (k : Core) (q : SeqId) (r : GReg) (v : W64),
    ((r = 0 ∨ r = 28 ∨ r = 29) → k.writeG q r v = .ok k) ∧
    (∀ second : Bool, r = (if second then 31 else 30) →
      ((k.outbound q second).length < 16 →
        k.writeG q r v = .ok (k.setOutbound q second (k.outbound q second ++ [.ready v none]))) ∧
      (16 ≤ (k.outbound q second).length → k.writeG q r v = .stall .pushFull)) ∧
    (1 ≤ r.val → r.val ≤ 27 → (k.seq q).awaits r = false →
      ∃ k', k.writeG q r v = .ok k' ∧ (k'.seq q).g[r] = v ∧ (∀ t, t ≠ r → (k'.seq q).g[t] = (k.seq q).g[t]) ∧
        (k'.seq q).a = (k.seq q).a ∧ (k'.seq q).pc = (k.seq q).pc ∧ k'.seq (otherSeq q) = k.seq (otherSeq q) ∧
        coreRest k' = coreRest k))

/-- Completion (R108, R111, R115): the sequencer number rises by one, the program counter and the loop levels are those of the
loop close of R115 over the instruction's words, behind them where no level ends there, BUDI falls by 1 and BUDT by the bytes
moved (R254), and nothing else changes but the reasons of units: no general or address register, no byte of memory. A budget is
charged down to the least 48-bit number and no further (R254). -/
def Obligations.CompletionFrame : Prop :=
  (∀ (s : State) (k : Core) (n t : Nat),
    sameOutside s (done s k n t) ∧
    coreRest (done s k n t).cur = coreRest k ∧
    (∀ q, seqRest ((done s k n t).cur.seq q) = seqRest (k.seq q)) ∧
    (done s k n t).cur.seq (otherSeq s.seqId) = k.seq (otherSeq s.seqId) ∧
    ((done s k n t).cur.seq s.seqId).seqno = (k.seq s.seqId).seqno + 1 ∧
    (((done s k n t).cur.seq s.seqId).loops, ((done s k n t).cur.seq s.seqId).pc) = closeLoops (k.seq s.seqId).pc n (k.seq s.seqId).loops ∧
    ((k.seq s.seqId).loops = [] → ((done s k n t).cur.seq s.seqId).pc = (k.seq s.seqId).pc + BitVec.ofNat 17 (4 * n)) ∧
    (done s k n t).cur.sys.budi = chargeBudget 48 k.sys.budi 1 ∧ (done s k n t).cur.sys.budt = chargeBudget 48 k.sys.budt t ∧
    (done s k n t).cur.periodBytes = k.periodBytes + t ∧
    (∀ a, getByte (done s k n t).mem a = getByte s.mem a)) ∧
  (∀ (b : BitVec 48) (n : Nat), (chargeBudget 48 b n).toInt = max (-(2 ^ 47)) (b.toInt - n))

/-! ## The integer groups -/

/-- Three-register instructions write the value of R118 to R120 and complete. The frame of the integer and immediate
instructions on plain registers: only g[d], the program counter, the loop levels, the sequence number, BUDI and BUDT change, and
reasons of units; every byte of memory reads as before. -/
def Obligations.ThreeRegisterResults : Prop :=
  (∀ (s : State) (d a b : GReg) (p : Instr × (W64 → W64 → W64)) (x y : W64) (k1 k2 k3 : Core), p ∈ three d a b →
    s.cur.readG s.seqId a = .ok (x, k1) → k1.readG s.seqId b = .ok (y, k2) → k2.writeG s.seqId d (p.2 x y) = .ok k3 →
    exec p.1 s = .next (done s k3 1 0)) ∧
  (∀ (s t : State) (d a b : GReg) (n : Fin 64) (i : BitVec 16) (j : Instr),
    (j ∈ (three d a b).map (·.1) ∨ j ∈ (one d a i n).map (·.1) ∨ j ∈ [.bfx d a b, .bfi d a b, .csel d a b, .clz d a, .ctz d a, .ldi d i]) →
    (∀ r, r ∈ [d, a, b] → 1 ≤ r.val ∧ r.val ≤ 27 ∧ s.curSeq.awaits r = false ∧ s.curSeq.gMark[r] = none) →
    exec j s = .next t →
    sameOutside s t ∧ coreRest t.cur = coreRest s.cur ∧ t.cur.seq (otherSeq s.seqId) = s.cur.seq (otherSeq s.seqId) ∧
    (∀ r, r ≠ d → t.curSeq.g[r] = s.curSeq.g[r]) ∧ t.curSeq.a = s.curSeq.a ∧ t.curSeq.out = s.curSeq.out ∧
    (∀ q second, t.cur.inbound q second = s.cur.inbound q second) ∧ (∀ x, getByte t.mem x = getByte s.mem x))

/-- Instructions with one source, LDI and LDK write the value of R119 and R121 and complete. BFX, BFI and CSEL (R119): BFX
extends the field's highest bit; BFI and CSEL also read g[d]. -/
def Obligations.OneSourceResults : Prop :=
  (∀ (s : State) (d a : GReg) (i : BitVec 16) (n : Fin 64) (x : W64) (k1 : Core),
    (∀ p k2, p ∈ one d a i n → s.cur.readG s.seqId a = .ok (x, k1) → k1.writeG s.seqId d (p.2 x) = .ok k2 →
      exec p.1 s = .next (done s k2 1 0)) ∧
    (∀ v k2, runOfZeros (fun j => 63 - j) x v.toNat → s.cur.readG s.seqId a = .ok (x, k1) → k1.writeG s.seqId d v = .ok k2 →
      exec (.clz d a) s = .next (done s k2 1 0)) ∧
    (∀ v k2, runOfZeros (fun j => j) x v.toNat → s.cur.readG s.seqId a = .ok (x, k1) → k1.writeG s.seqId d v = .ok k2 →
      exec (.ctz d a) s = .next (done s k2 1 0)) ∧
    (∀ k2, s.cur.writeG s.seqId d (BitVec.ofInt 64 i.toInt) = .ok k2 → exec (.ldi d i) s = .next (done s k2 1 0)) ∧
    (∀ (p : Fin 4) v k2, (∀ j, j < 64 → v.getLsbD j = (if j / 16 = p.val then i.getLsbD (j % 16) else x.getLsbD j)) →
      s.cur.readG s.seqId d = .ok (x, k1) → k1.writeG s.seqId d v = .ok k2 → exec (.ldk d p i) s = .next (done s k2 1 0))) ∧
  (∀ (s : State) (d a b : GReg) (x y : W64) (k1 k2 : Core),
    s.cur.readG s.seqId a = .ok (x, k1) → k1.readG s.seqId b = .ok (y, k2) →
    (∀ v k3, (∀ j, j < 64 → v.getLsbD j = x.getLsbD (y.toNat % 64 + min j ((if y.toNat / 256 % 64 = 0 then 64 else y.toNat / 256 % 64) - 1))) →
      k2.writeG s.seqId d v = .ok k3 → exec (.bfx d a b) s = .next (done s k3 1 0)) ∧
    (∀ z k3 v k4, k2.readG s.seqId d = .ok (z, k3) →
      (∀ j, j < 64 → v.getLsbD j = (if y.toNat % 64 ≤ j ∧ j < y.toNat % 64 + (if y.toNat / 256 % 64 = 0 then 64 else y.toNat / 256 % 64)
        then x.getLsbD (j - y.toNat % 64) else z.getLsbD j)) →
      k3.writeG s.seqId d v = .ok k4 → exec (.bfi d a b) s = .next (done s k4 1 0)) ∧
    (∀ z k3 k4, k2.readG s.seqId d = .ok (z, k3) → k3.writeG s.seqId d (if z = 0 then y else x) = .ok k4 →
      exec (.csel d a b) s = .next (done s k4 1 0)))

/-- The address-register instructions (R122). -/
def Obligations.AddressRegisterResults : Prop :=
  ∀ (s : State) (d a : AReg) (g : GReg) (i : BitVec 16) (x : A80) (v : W64) (k1 k2 : Core),
    (s.cur.readA s.seqId a = .ok x → s.cur.readG s.seqId g = .ok (v, k1) → k1.writeA s.seqId d (BitVec.ofInt 80 (x.toInt + v.toInt)) = .ok k2 →
      exec (.aadd d a g) s = .next (done s k2 1 0)) ∧
    (s.cur.readA s.seqId a = .ok x → s.cur.writeA s.seqId d x = .ok k2 → exec (.amov d a) s = .next (done s k2 1 0)) ∧
    (s.cur.readA s.seqId a = .ok x → s.cur.writeG s.seqId g (BitVec.ofNat 64 (x.toNat % 2 ^ 64)) = .ok k2 →
      exec (.aget g a) s = .next (done s k2 1 0)) ∧
    (s.cur.readG s.seqId g = .ok (v, k1) → k1.writeA s.seqId d (BitVec.ofNat 80 (v.toNat % 2 ^ 16 * 2 ^ 64)) = .ok k2 →
      exec (.aseth d g) s = .next (done s k2 1 0)) ∧
    (s.cur.readA s.seqId a = .ok x → s.cur.writeA s.seqId d (BitVec.ofInt 80 (x.toInt + i.toInt)) = .ok k2 →
      exec (.aaddi d a i) s = .next (done s k2 1 0))

/-! ## Control flow -/

/-- Relative branches (R136, R137): B always, BC, BZ and BNZ on their conditions, BQ on the popped outcome go to the pc + 4 x
offset where that lies in the sequence store, and else complete at the next word. The conditions of BC and BOUT (R136). -/
def Obligations.BranchesGoOrFallThrough : Prop :=
  (∀ (s : State) (a b : GReg) (x y : W64) (k1 k2 : Core) (t : Int → BitVec 17),
    (∀ o : Int, t o = BitVec.ofInt 17 (s.curSeq.pc.toNat + 4 * o)) →
    let inStore := fun o : Int => 0 ≤ s.curSeq.pc.toNat + 4 * o ∧ s.curSeq.pc.toNat + 4 * o ≤ 0x1FFFC
    (∀ o : BitVec 22, inStore o.toInt → exec (.b o) s = .next (jumped s s.cur (t o.toInt) false)) ∧
    (s.cur.readG s.seqId a = .ok (x, k1) → k1.readG s.seqId b = .ok (y, k2) → ∀ (c : Cond) (o : BitVec 13),
      (condTrue c x y = true → inStore o.toInt → exec (.bc a b c o) s = .next (jumped s k2 (t o.toInt) false)) ∧
      (condTrue c x y = false → exec (.bc a b c o) s = .next (done s k2 1 0))) ∧
    (s.cur.readG s.seqId a = .ok (x, k1) → ∀ o : BitVec 16,
      (x = 0 → inStore o.toInt → exec (.bz a o) s = .next (jumped s k1 (t o.toInt) false)) ∧
      (x ≠ 0 → exec (.bz a o) s = .next (done s k1 1 0)) ∧
      (x ≠ 0 → inStore o.toInt → exec (.bnz a o) s = .next (jumped s k1 (t o.toInt) false)) ∧
      (x = 0 → exec (.bnz a o) s = .next (done s k1 1 0))) ∧
    (∀ (v : Bool) (l : List Bool), s.cur.outcomesIn s.seqId = v :: l → ∀ (n : Bool) (o : BitVec 22),
      (v ≠ n → inStore o.toInt → exec (.bq n o) s = .next (jumped s (s.cur.setOutcomesIn s.seqId l) (t o.toInt) false)) ∧
      (v = n → exec (.bq n o) s = .next (done s (s.cur.setOutcomesIn s.seqId l) 1 0))) ∧
    (s.cur.readG s.seqId a = .ok (x, k1) → k1.readG s.seqId b = .ok (y, k2) → ∀ c : Cond,
      (k2.outcomesIn (otherSeq s.seqId)).length < 32 →
      exec (.bout a b c) s = .next (done s (k2.setOutcomesIn (otherSeq s.seqId)
        (k2.outcomesIn (otherSeq s.seqId) ++ [condTrue c x y])) 1 0))) ∧
  (∀ x y : W64,
    (condTrue .eq x y = true ↔ x = y) ∧ (condTrue .ne x y = true ↔ x ≠ y) ∧ (condTrue .lt x y = true ↔ x.toInt < y.toInt) ∧
    (condTrue .ge x y = true ↔ y.toInt ≤ x.toInt) ∧ (condTrue .ltu x y = true ↔ x.toNat < y.toNat) ∧
    (condTrue .geu x y = true ↔ y.toNat ≤ x.toNat) ∧ (condTrue .tst x y = true ↔ x &&& y ≠ 0) ∧
    (condTrue .tstz x y = true ↔ x &&& y = 0))

/-- Calls and branches to a register (R48, R136): CALL and CALLI write the address of the next word to g27, JMPI, CALLI and RET
go to the address in the register. What a taken branch leaves (R116): the pc is the target, the sequence number rises by one,
BUDI falls by 1, no register, queue or byte of memory changes; a level whose body the branch leaves ends, unless it calls. -/
def Obligations.CallsLinkAndJump : Prop :=
  (∀ (s : State) (a : GReg) (x : W64) (k1 k2 : Core),
    (∀ o : BitVec 22, 0 ≤ s.curSeq.pc.toNat + 4 * o.toInt → s.curSeq.pc.toNat + 4 * o.toInt ≤ 0x1FFFC →
      s.cur.writeG s.seqId 27 (BitVec.ofNat 64 (s.curSeq.pc + 4).toNat) = .ok k1 →
      exec (.call o) s = .next (jumped s k1 (BitVec.ofInt 17 (s.curSeq.pc.toNat + 4 * o.toInt)) true)) ∧
    (x.toNat < 2 ^ 17 → x.toNat % 4 = 0 → s.cur.readG s.seqId a = .ok (x, k1) →
      exec (.jmpi a) s = .next (jumped s k1 (BitVec.ofNat 17 x.toNat) false) ∧
      (k1.writeG s.seqId 27 (BitVec.ofNat 64 (s.curSeq.pc + 4).toNat) = .ok k2 →
        exec (.calli a) s = .next (jumped s k2 (BitVec.ofNat 17 x.toNat) true))) ∧
    (x.toNat < 2 ^ 17 → x.toNat % 4 = 0 → s.cur.readG s.seqId 27 = .ok (x, k1) →
      exec .ret s = .next (jumped s k1 (BitVec.ofNat 17 x.toNat) false))) ∧
  (∀ (s : State) (k : Core) (pc : BitVec 17) (call : Bool),
    sameOutside s (jumped s k pc call) ∧ coreRest (jumped s k pc call).cur = coreRest k ∧
    (∀ q, seqRest ((jumped s k pc call).cur.seq q) = seqRest (k.seq q)) ∧
    (jumped s k pc call).curSeq.pc = pc ∧ (jumped s k pc call).curSeq.seqno = (k.seq s.seqId).seqno + 1 ∧
    (jumped s k pc call).cur.sys.budi = chargeBudget 48 k.sys.budi 1 ∧
    (∀ l r, (k.seq s.seqId).loops = l :: r → l.last ≠ (k.seq s.seqId).pc.zeroExtend 19 →
      (call = true → (jumped s k pc call).curSeq.loops = l :: r) ∧
      (call = false → inBody l (k.seq s.seqId).pc = true → inBody l pc = true → (jumped s k pc call).curSeq.loops = l :: r) ∧
      (call = false → inBody l (k.seq s.seqId).pc = true → inBody l pc = false →
        (jumped s k pc call).curSeq.loops = r.dropWhile fun m => inBody m (k.seq s.seqId).pc && !inBody m pc)))

/-- LOOP and LOOPI (R114), with any number of levels open: with a count other than 0, fewer than four levels and a body within
the innermost one they open a level around the words behind them; a fifth level, or a body that leaves the innermost level,
traps with 0x01; with count 0 they skip the body and no level changes, unless the loop instruction is itself the innermost
level's last word, which R115 then closes. The closing of loop levels (R115) behind an instruction of n words, three for an
inline ENQ: where they include a level's last word its count falls by one and the body starts again; a level whose count ends is
left, and the level around it is looked at; without a level the next word follows. The order in which levels that end at one
word close is deduced (log 15); that a skip past 0x1_FFFC and the words of an inline ENQ wrap is the model's choice (log 74). -/
def Obligations.LoopsOpenAndClose : Prop :=
  (∀ (s : State) (a : GReg) (l : BitVec 16) (n : BitVec 10) (x : W64) (k1 : Core) (i : Instr),
    (i = .loop a l ∧ s.cur.readG s.seqId a = .ok (x, k1) ∨ i = .loopi n l ∧ x = n.zeroExtend 64 ∧ k1 = s.cur) →
    let p := s.curSeq.pc
    let opens := fun (pc : BitVec 17) (ls : List LoopLevel) => ∃ t, exec i s = .next t ∧ t.curSeq.seqno = s.curSeq.seqno + 1 ∧
      t.curSeq.g = (k1.seq s.seqId).g ∧ t.cur.sys.budi = chargeBudget 48 s.cur.sys.budi 1 ∧ t.curSeq.pc = pc ∧ t.curSeq.loops = ls ∧
      t.mem = s.mem
    (x = 0 → (∀ m r, s.curSeq.loops = m :: r → m.last ≠ p.zeroExtend 19) →
      opens (p + BitVec.ofNat 17 (4 * l.toNat) + 4) s.curSeq.loops) ∧
    (x = 0 → ∀ m r, s.curSeq.loops = m :: r → m.last = p.zeroExtend 19 → 1 < m.count.toNat →
      opens m.start ({ m with count := m.count - 1 } :: r)) ∧
    (x ≠ 0 → s.curSeq.loops.length < 4 → (∀ m r, s.curSeq.loops = m :: r → p.toNat + 4 * l.toNat ≤ m.last.toNat) →
      opens (p + 4) ({ start := p + 4, last := p.zeroExtend 19 + BitVec.ofNat 19 (4 * l.toNat), count := x } :: s.curSeq.loops)) ∧
    (x ≠ 0 → 4 ≤ s.curSeq.loops.length → exec i s = .next s.illegal) ∧
    (x ≠ 0 → s.curSeq.loops.length < 4 → ∀ m r, s.curSeq.loops = m :: r → m.last.toNat < p.toNat + 4 * l.toNat →
      exec i s = .next s.illegal)) ∧
  (∀ (pc : BitVec 17) (n : Nat) (l : LoopLevel) (r : List LoopLevel),
    let ends := ∃ j, j < n ∧ l.last = (pc + BitVec.ofNat 17 (4 * j)).zeroExtend 19
    (¬ends → closeLoops pc n (l :: r) = (l :: r, pc + BitVec.ofNat 17 (4 * n))) ∧
    (ends → 1 < l.count.toNat → closeLoops pc n (l :: r) = ({ l with count := l.count - 1 } :: r, l.start)) ∧
    (ends → l.count = 1 → closeLoops pc n (l :: r) = closeLoops pc n r) ∧
    closeLoops pc n [] = ([], pc + BitVec.ofNat 17 (4 * n)))

/-! ## Memory -/

/-- LD, LDS, LDX and LDA complete at issue (R108, R123, R126): the address is the base plus the scaled offset or the shifted
index, the access stands behind the others of the sequencer with its destination reserved, and BUDT falls by the bytes. ST, STX
and STA complete when they enter the store path (R108, R123, R126): the low bytes of the source, least significant first, 16
bytes with zeros above the 80 bits for STA. That the index of STX pops before its source is the model's reading (log 25,
deduced); that an access with any byte in the local window is charged nothing is its choice (log 70). -/
def Obligations.AccessesIssue : Prop :=
  (∀ (s : State) (t g : GReg) (a : AReg) (c : Cls) (o : BitVec 11) (z sc : Fin 4) (x : Bool) (base va : A80) (idx : W64) (k0 k1 : Core)
    (ps : List Piece) (d : Dest), s.cur.readA s.seqId a = .ok base → s.curSeq.loadsOut < 32 →
    (va = BitVec.ofInt 80 (base.toInt + o.toInt * 2 ^ z.val) → s.checkAccess va (2 ^ z.val) 1 = .ok ps →
      s.cur.linesFree ps = true → s.cur.loadDest s.seqId t = .ok (d, k1) →
      exec (.ld t a c o z) s = .next (done s (behind s k1 (.load (2 ^ z.val) false) c d ps false false false) 1 (moved ps (2 ^ z.val))) ∧
      exec (.lds t a c o z) s = .next (done s (behind s k1 (.load (2 ^ z.val) true) c d ps false false false) 1 (moved ps (2 ^ z.val)))) ∧
    (s.cur.readG s.seqId g = .ok (idx, k0) → va = BitVec.ofInt 80 (base.toInt + idx.toInt * 2 ^ sc.val) →
      s.checkAccess va (2 ^ z.val) 1 = .ok ps → k0.linesFree ps = true → k0.loadDest s.seqId t = .ok (d, k1) →
      exec (.ldx t a c g sc x z) s = .next (done s (behind s k1 (.load (2 ^ z.val) x) c d ps false false false) 1 (moved ps (2 ^ z.val)))) ∧
    (∀ u : AReg, s.curSeq.awaitsA u = false → va = BitVec.ofInt 80 (base.toInt + o.toInt * 16) → s.checkAccess va 16 1 = .ok ps →
      s.cur.linesFree ps = true →
      exec (.lda u a c o) s = .next (done s (behind s s.cur .loadA c (.a u) ps false false false) 1 (moved ps 16)))) ∧
  (∀ (s : State) (t g : GReg) (a u : AReg) (c : Cls) (o : BitVec 11) (z sc : Fin 4) (base va w : A80) (idx v : W64) (k0 k1 : Core)
    (ps : List Piece), s.cur.readA s.seqId a = .ok base →
    (va = BitVec.ofInt 80 (base.toInt + o.toInt * 2 ^ z.val) → s.checkStore va (2 ^ z.val) = .ok ps →
      s.cur.readG s.seqId t = .ok (v, k1) → k1.linesFree ps = true →
      exec (.st t a c o z) s = .next (storeMark s ps
        (done s (behind s k1 (.store (leBytes (2 ^ z.val) v.toNat)) c .discard ps false false false) 1 (moved ps (2 ^ z.val))))) ∧
    (s.cur.readG s.seqId g = .ok (idx, k0) → k0.readG s.seqId t = .ok (v, k1) →
      va = BitVec.ofInt 80 (base.toInt + idx.toInt * 2 ^ sc.val) → s.checkStore va (2 ^ z.val) = .ok ps → k1.linesFree ps = true →
      exec (.stx t a c g sc z) s = .next (storeMark s ps
        (done s (behind s k1 (.store (leBytes (2 ^ z.val) v.toNat)) c .discard ps false false false) 1 (moved ps (2 ^ z.val))))) ∧
    (s.cur.readA s.seqId u = .ok w → va = BitVec.ofInt 80 (base.toInt + o.toInt * 16) → s.checkStore va 16 = .ok ps →
      s.cur.linesFree ps = true →
      exec (.sta u a c o) s = .next (storeMark s ps
        (done s (behind s s.cur (.store (leBytes 16 w.toNat)) c .discard ps false false false) 1 (moved ps 16)))))

/-- The data of a load returns (R108, R110, R126): when nothing holds the access back, the bytes of its one part, in memory at a
physical address or in the core's scratchpad, extended as the instruction says, are in its register, the access is gone, and no
byte of memory has changed. The value of a load (R126): the bytes least significant first, extended with zeros, or for LDS and a
signed LDX with the sign. A store performs (R127): the drain of a store whose one part lies in memory writes its bytes there,
byte by byte, and every other byte of memory reads as before; the store leaves the path. That an access is performed at once for
every observer of the package, and what another node wrote is seen or not by a free choice, are the model's choices (log 13). -/
def Obligations.AccessesPerform : Prop :=
  (∀ (s : State) (c : CoreId) (q : SeqId) (x : Access) (p : Piece) (r : GReg) (n : Nat) (sx : Bool),
    s.access c q x.id = some x → x.op = .load n sx → x.dest = .g r → x.pieces = [p] → x.answers = [] → p.len = n → n ≤ 8 →
    earlierThan ((s.coreAt c).seq q).out x.id = [] → mayPerform ((s.coreAt c).seq q).out x.id = true →
    (s.coreAt c).stop = none → Memory.wf s.mem = true → Memory.wf (s.coreAt c).spad = true →
    (p.space = .phys ∧ s.firstUnc p.addr n = none ∧ oneValue s (some (c, q, x.cls)) (s.tenOf 10 (s.ctxOf c) p.va.toNat) p.addr n ∨ p.space = .spad ∧ firstBad (s.coreAt c).spadBad p.addr n = none) →
    ∃ t, exec (.loadDataReturn c q x.id) s = .next t ∧
      ((t.coreAt c).seq q).g[r] = loadValue x.op ((List.range n).map fun j =>
        getByte (if p.space = .spad then (s.coreAt c).spad else s.mem) (p.addr + j)) ∧
      ((t.coreAt c).seq q).gMark[r] = none ∧ (∀ y ∈ ((t.coreAt c).seq q).out, y.id ≠ x.id) ∧ t.mem = s.mem ∧
      (∀ d, d ≠ r → ((t.coreAt c).seq q).g[d] = ((s.coreAt c).seq q).g[d])) ∧
  (∀ (n : Nat) (bs : List Byte), 1 ≤ n → n ≤ 8 → bs.length = n →
    (loadValue (.load n false) bs).toNat = leNat bs ∧
    (loadValue (.load n true) bs).toInt = (if leNat bs < 2 ^ (8 * n - 1) then (leNat bs : Int) else leNat bs - 2 ^ (8 * n))) ∧
  (∀ (s : State) (c : CoreId) (q : SeqId) (x : Access) (p : Piece) (bs : List Byte) (r : List Act),
    s.agenda = .drain c q x.id :: r → s.access c q x.id = some x → x.op = .store bs → x.pieces = [p] → x.answers = [] → p.space = .phys →
    untouched s [(p.addr, p.len)] → p.len = bs.length → s.anyLive p.addr p.len = false → mayPerform ((s.coreAt c).seq q).out x.id = true →
    ∃ t, step s = .next t ∧ (∀ y ∈ ((t.coreAt c).seq q).out, y.id ≠ x.id) ∧
      (∀ a, p.addr ≤ a → a < p.addr + p.len → getByte t.mem a = bs.getD (a - p.addr) 0) ∧
      (∀ a, a < p.addr ∨ p.addr + p.len ≤ a → getByte t.mem a = getByte s.mem a) ∧
      (Memory.wf s.mem = true → Memory.wf t.mem = true))

/-- An AMO or CAS completes at issue (R108, R128, R129): with an aligned word that it may read, write and modify, outside the
local window and not live, it stands behind the other accesses with its order, and BUDT falls by 16 (R111). That the expected
value of CAS pops before field t is the model's reading (log 25, deduced). -/
def Obligations.AtomicsIssue : Prop :=
  ∀ (s : State) (t g : GReg) (a : AReg) (c : Cls) (o : MemOrder) (sc : Scope) (va : A80) (v e : W64) (k1 k2 k3 k4 : Core) (p : Piece)
    (d : Dest), s.cur.readA s.seqId a = .ok va → s.cur.readG s.seqId g = .ok (v, k1) →
    (scopeRemote sc = false ∧ s.fabricWindow (s.ctxOf s.core) va = none ∨ o = .rlx ∨ o = .acq ∨ s.curSeq.out = [] ∧ s.curSeq.deferred = []) → s.curSeq.loadsOut < 32 →
    s.checkWord va 7 = .ok p → (p.space = .phys → s.isLive p.addr = false) →
    (k1.linesFree [p] = true → k1.loadDest s.seqId t = .ok (d, k2) →
      ∀ j ∈ [(0, Instr.amoSwap t a c g o sc), (1, .amoAdd t a c g o sc), (2, .amoAnd t a c g o sc), (3, .amoOr t a c g o sc),
        (4, .amoXor t a c g o sc), (5, .amoMax t a c g o sc), (6, .amoMin t a c g o sc), (7, .amoMaxu t a c g o sc)],
        exec j.2 s = .next ((done s (behind s k2 (.amo j.1 v) c d [p] (o == .acq || o == .ar) (o == .rel || o == .ar) (scopeRemote sc || p.isRemote)) 1 16).irreversible s.core)) ∧
    (k1.readG s.seqId t = .ok (e, k3) → k3.linesFree [p] = true → k3.loadDest s.seqId t = .ok (d, k4) →
      exec (.cas t a c g o sc) s =
        .next ((done s (behind s k4 (.cas e v) c d [p] (o == .acq || o == .ar) (o == .rel || o == .ar) (scopeRemote sc || p.isRemote)) 1 16).irreversible s.core))

/-- An atomic is performed at its word (R128, R297): the old value is what the eight bytes hold, the word takes the new value,
and every other byte of memory reads as before. The new value of an AMO by its operation (R128), and the write of a CAS (R129):
only where the old value is the expected one. -/
def Obligations.AtomicsPerform : Prop :=
  (∀ (s : State) (op : AccessOp) (pa : Nat) (new : W64), Memory.wf s.mem = true → s.firstUnc pa 8 = none → untouched s [(pa, 8)] →
    let r := s.performAtomic op pa
    r.2.toNat = leNat ((List.range 8).map fun j => getByte s.mem (pa + j)) ∧
    (atomicWrite op r.2 = none → r.1 = s) ∧
    (atomicWrite op r.2 = some new →
      (∀ j, j < 8 → getByte r.1.mem (pa + j) = (leBytes 8 new.toNat).getD j 0) ∧
      (∀ x, x < pa ∨ pa + 8 ≤ x → getByte r.1.mem x = getByte s.mem x))) ∧
  (∀ old v w : W64,
    amoValue 0 old v = v ∧ amoValue 1 old v = old + v ∧ amoValue 2 old v = old &&& v ∧ amoValue 3 old v = old ||| v ∧
    amoValue 4 old v = old ^^^ v ∧ (amoValue 5 old v).toInt = max old.toInt v.toInt ∧
    (amoValue 6 old v).toInt = min old.toInt v.toInt ∧ (amoValue 7 old v).toNat = max old.toNat v.toNat ∧
    atomicWrite (.cas v w) old = (if old = v then some w else none))

/-- FENCE completes when no earlier access of its classes stands, and waits else (R131); at fab and sys later loads see what
other nodes have written (R240), and it raises the oldest deferred cause of a store that it covers (R404). Barrier words (R132
to R135, R299): BARINIT makes a word live with generation and arrivals 0 and the count N; the kill form ends a live word and
writes 0; both refuse host memory (0x05); BARARR adds an arrival, and the last one advances the generation and returns bit 63;
BARWAIT completes once the generation has moved on from the one its sequencer arrived in. That BARINIT and BARARR are performed
at issue is the model's choice (log 67). -/
def Obligations.FencesAndBarrierWords : Prop :=
  (∀ (s : State) (sc : Scope) (m : BitVec 16),
    ((∀ x ∈ s.curSeq.out, m.getLsbD x.cls.val = false) → (scopeRemote sc = false ∨ s.curSeq.deferred = []) →
      exec (.fence sc m) s = .next (seen (s.finish 1 0) sc)) ∧
    ((∃ x ∈ s.curSeq.out, m.getLsbD x.cls.val = true) → (scopeRemote sc = false ∨ s.curSeq.deferred = []) →
      exec (.fence sc m) s = .next (s.stallSeq .order)) ∧
    (∀ d r, s.curSeq.out = [] → s.curSeq.deferred = d :: r → m.getLsbD d.cls.val = true → scopeRemote sc = true →
      exec (.fence sc m) s = .next ((s.modCur fun k => k.modSeq s.seqId fun q => { q with deferred := r }).trapSeq d.cause 0 (infoOf d.addr)))) ∧
  (∀ (s : State) (t : GReg) (a : AReg) (c : Cls) (sc : Scope) (va : A80) (v : W64) (k1 : Core) (p : Piece),
    s.cur.readA s.seqId a = .ok va → s.curSeq.out = [] → s.checkWord va 7 = .ok p → s.checkWord va 5 = .ok p → p.space = .phys →
    s.isRetired p.addr = false → s.onWord p.addr = [] → untouched s [(p.addr, 8)] →
    (s.cur.readG s.seqId t = .ok (v, k1) → 1 ≤ v.toNat → v.toNat ≤ 65535 → s.isLive p.addr = false → regionOf p.addr ≠ .host →
      ∃ u, exec (.barinit t a c sc) s = .next u ∧ u.isLive p.addr = true ∧
        u.physRead p.addr 8 = leBytes 8 (v.toNat * 2 ^ 16) ∧ u.curSeq.pc = (s.finish 1 8).curSeq.pc) ∧
    (s.cur.readG s.seqId t = .ok (v, k1) → 1 ≤ v.toNat → v.toNat ≤ 65535 → s.isLive p.addr = false → regionOf p.addr = .host →
      exec (.barinit t a c sc) s = .next (s.trapAddr (⟨0x05, 0⟩, va))) ∧
    (regionOf p.addr = .host → exec (.barinitKill a c sc) s = .next (s.trapAddr (⟨0x05, 0⟩, va))) ∧
    (regionOf p.addr ≠ .host → s.isLive p.addr = true →
      ∃ u, exec (.barinitKill a c sc) s = .next u ∧ u.isLive p.addr = false ∧ u.physRead p.addr 8 = leBytes 8 0 ∧
        u.curSeq.pc = (s.finish 1 8).curSeq.pc) ∧
    (∀ gen n i, s.isLive p.addr = true → s.firstUnc p.addr 8 = none → gen < 2 ^ 32 → n < 2 ^ 16 → i < n →
      leNat (s.physRead p.addr 8) = gen * 2 ^ 32 + n * 2 ^ 16 + i →
      s.cur.writeG s.seqId t (BitVec.ofNat 64 ((if i + 1 = n then 2 ^ 63 else 0) + gen)) = .ok k1 →
      ∃ u, exec (.bararr t a c sc) s = .next u ∧ u.curSeq.g = (k1.seq s.seqId).g ∧
        u.curSeq.arrival = some { addr := va, gen := BitVec.ofNat 32 gen } ∧
        u.physRead p.addr 8 = leBytes 8 (if i + 1 = n then (gen + 1) % 2 ^ 32 * 2 ^ 32 + n * 2 ^ 16 else gen * 2 ^ 32 + n * 2 ^ 16 + (i + 1))) ∧
    (s.isLive p.addr = true → s.firstUnc p.addr 8 = none →
      ((∀ r, s.curSeq.arrival = some r → r.addr = va → r.gen ≠ BitVec.ofNat 32 (leNat (s.physRead p.addr 8) / 2 ^ 32)) →
        exec (.barwait a c sc) s = .next (seen (s.finish 1 8) sc)) ∧
      (s.curSeq.arrival = some { addr := va, gen := BitVec.ofNat 32 (leNat (s.physRead p.addr 8) / 2 ^ 32) } →
        exec (.barwait a c sc) s = .next (s.stallSeq .barrier))))

/-! ## Rings and semaphores -/

/-- ENQ and RINGSET (R138, R139): the word is written into the slot that the ring's base and write position give, the slot is
used, the number of entries rises; where the engine is idle the entry becomes its head at once, starts where it asks for no
wait, and waits where it asks for a count that is not there (R14, R33); RINGSET empties an idle ring at an aligned base inside
the scratchpad. The semaphore instructions of a sequencer (R14, R15, R140 to R142) on a semaphore that nothing waits on, of the
core (0 to 47) or of its cluster, whose cores share it (48 to 63, R17, R283): SEMWAIT takes one, SEMPOST adds, sets or adds
g[s1], SEMSET replaces, SEMGET reads the count. An engine stream starts one entry at a time (log 14), the model's choice. -/
def Obligations.RingsAndSemaphores : Prop :=
  (∀ (s : State) (e : Eng) (a : GReg) (w : W64) (k1 : Core) (r : Ring), s.seqId = .x →
    ((s.cur.eng e).ring = some r → r.used < r.slots → (s.cur.eng e).phase ≠ .idle →
      (s.cur.readG .x a = .ok (w, k1) → exec (.enq e a) s = .next (done s (k1.enqueue e r w) 1 0)) ∧
      exec (.enqInline e w) s = .next (done s (s.cur.enqueue e r w) 3 0) ∧
      ((s.cur.enqueue e r w).eng e).ring = some { r with wslot := (r.wslot + 1) % r.slots, used := r.used + 1 } ∧
      ((s.cur.enqueue e r w).eng e).count = (s.cur.eng e).count + 1 ∧
      (∀ x, getByte (s.cur.enqueue e r w).spad x = (if r.base.toNat + 8 * r.wslot ≤ x ∧ x < r.base.toNat + 8 * r.wslot + 8
        then (leBytes 8 w.toNat).getD (x - (r.base.toNat + 8 * r.wslot)) 0 else getByte s.cur.spad x))) ∧
    ((s.cur.eng e).ring = some r → r.used = 0 → r.wslot = r.rslot → (s.cur.eng e).phase = .idle → (s.cur.eng e).head = none →
      (s.cur.eng e).chainPc = none → s.cur.stop = none → s.cur.handled = none → s.cur.refetching e = false → Memory.wf s.cur.spad = true →
      (decodeCmd e w.toNat).toOption.isSome = true → (syncOf w.toNat).sop = .none → ∀ u, s.cur.unit = some u →
      ∀ j, (j = .enqInline e w ∨ j = .enq e a ∧ s.cur.readG .x a = .ok (w, k1)) →
      ((syncOf w.toNat).wmode = .none →
        ∃ t, exec j s = .next t ∧ (t.cur.eng e).head = some { word := w, chain := none } ∧ (t.cur.eng e).phase = .running .fresh ∧
          (t.cur.eng e).seqno = (s.cur.eng e).seqno + 1 ∧ t.mem = s.mem) ∧
      ((syncOf w.toNat).wmode = .take → declares u.wmask (streamIndex (.eng e)) (syncOf w.toNat).wsem = true →
        s.semCount s.core (syncOf w.toNat).wsem = 0 →
        ∃ t, exec j s = .next t ∧ (t.cur.eng e).head = some { word := w, chain := none } ∧ (t.cur.eng e).phase = .waiting ∧
          t.mem = s.mem)) ∧
    ((s.cur.eng e).ring = some r → r.used = r.slots → exec (.enqInline e w) s = .next (s.stallSeq (.ringFull e))) ∧
    (∀ z : Fin 16, s.cur.readG .x a = .ok (w, k1) → w.toNat % 2 ^ (z.val + 8) = 0 → w.toNat + 2 ^ (z.val + 8) ≤ 2 ^ 22 →
      s.cur.ringIdle e = true →
      ∃ t, exec (.ringset e a z) s = .next t ∧ (t.cur.eng e).ring =
          some { base := BitVec.ofNat 22 w.toNat, log := Fin.ofNat 9 z.val, wslot := 0, rslot := 0, used := 0 } ∧
        t.curSeq.pc = (s.finish 1 0).curSeq.pc ∧ t.mem = s.mem)) ∧
  (∀ (s : State) (n : Fin 64) (a : GReg) (v : W64) (k1 : Core), s.waitsOf s.core n = [] → s.curSeq.out = [] →
    (∀ (t : State) (c : CoreId), 48 ≤ n.val → islandOf c = islandOf s.core → t.semCount c n = t.semCount s.core n) ∧
    (s.mayWait n = true → s.semCount s.core n ≠ 0 →
      (∃ t, exec (.semwait n .take) s = .next t ∧ t.semCount s.core n = s.semCount s.core n - 1 ∧ t.curSeq.pc = (s.finish 1 0).curSeq.pc) ∧
      (∃ t, exec (.semwait n .peek) s = .next t ∧ t.semCount s.core n = s.semCount s.core n ∧ t.curSeq.pc = (s.finish 1 0).curSeq.pc)) ∧
    (s.mayWait n = true → s.semCount s.core n = 0 →
      (∃ t, exec (.semwait n .zero) s = .next t ∧ t.semCount s.core n = 0 ∧ t.curSeq.pc = (s.finish 1 0).curSeq.pc) ∧
      (∃ t, exec (.semwait n .take) s = .next t ∧ t.curSeq.stall = .sem n .take ∧ t.curSeq.pc = s.curSeq.pc)) ∧
    (s.mayPost n = true → s.cur.readG s.seqId a = .ok (v, k1) →
      ((s.semCount s.core n).toNat + 1 ≤ 65535 → ∃ t, exec (.sempost a n .add) s = .next t ∧ t.semCount s.core n = s.semCount s.core n + 1) ∧
      (∃ t, exec (.sempost a n .set) s = .next t ∧ t.semCount s.core n = 1) ∧
      ((s.semCount s.core n).toNat + v.toNat ≤ 65535 →
        ∃ t, exec (.sempost a n .cnt) s = .next t ∧ (t.semCount s.core n).toNat = (s.semCount s.core n).toNat + v.toNat) ∧
      (v.toNat ≤ 65535 → ∃ t, exec (.semset a n) s = .next t ∧ (t.semCount s.core n).toNat = v.toNat)) ∧
    (s.mayWait n = true → s.cur.writeG s.seqId a ((s.semCount s.core n).zeroExtend 64) = .ok k1 →
      exec (.semget a n) s = .next (done s k1 1 0)))

/-! ## Work group, continuation, budgets -/

/-- LAUNCH (R247), for every destination that can be written: a record that is accepted gets the next launch identifier of its
partition, its launch is queued, and g[d] holds the identifier; a refused one leaves the launches and g[d] holds 2^63 + its
code; BUDT falls by 128 (R254). The refusal codes of LAUNCH in their order (R247): 1 for a malformed record, 2 for PLACE outside
the grant, 4 for a full queue, 3 for a floor that cannot be admitted. Which identifier an accepted launch gets (log 6) and the
code of a misaligned record (log 26) are the model's choices. -/
def Obligations.LaunchAcceptsOrRefuses : Prop :=
  (∀ (s : State) (d : GReg) (a : AReg) (va : A80) (k0 : Core),
    s.cur.readA s.seqId a = .ok va → s.curSeq.out = [] → s.cur.writeG s.seqId d 0 = .ok k0 →
    (∀ (bs : List Byte) (c : Ctx), va.toNat % 128 = 0 → s.readAt s.core s.myCtx va 128 = .ok bs → s.ctx s.myCtx = some c →
      (∀ tk, parseTask bs = some tk → s.refusal c (some tk) = 0 →
        ∃ t, exec (.launch d a) s = .next t ∧ (plain s d → t.curSeq.g[d] = BitVec.ofNat 64 (s.newLaunchId s.myCtx)) ∧
          t.launches.map (·.id) = s.launches.map (·.id) ++ [s.newLaunchId s.myCtx] ∧
          t.curSeq.pc = (s.finish 1 128).curSeq.pc ∧ t.mem = s.mem) ∧
      (s.refusal c (parseTask bs) ≠ 0 →
        ∃ t, exec (.launch d a) s = .next t ∧
          (plain s d → t.curSeq.g[d] = BitVec.ofNat 64 (2 ^ 63 + s.refusal c (parseTask bs))) ∧
          t.launches = s.launches ∧ t.curSeq.pc = (s.finish 1 128).curSeq.pc ∧ t.mem = s.mem)) ∧
    (va.toNat % 128 ≠ 0 →
      ∃ t, exec (.launch d a) s = .next t ∧ (plain s d → t.curSeq.g[d] = BitVec.ofNat 64 (2 ^ 63 + 1)) ∧
        t.launches = s.launches ∧ t.curSeq.pc = (s.finish 1 128).curSeq.pc ∧ t.mem = s.mem)) ∧
  (∀ (s : State) (c : Ctx) (t : TaskRec),
    s.refusal c none = 1 ∧ (placeOutside t.place c.cores = true → s.refusal c (some t) = 2) ∧
    (placeOutside t.place c.cores = false → c.qcap ≤ (s.queuedBy c.num).length → s.refusal c (some t) = 4) ∧
    (placeOutside t.place c.cores = false → (s.queuedBy c.num).length < c.qcap → s.floorFits c = false → s.refusal c (some t) = 3))

/-- WPUSH (R253), for every destination that can be written: with room in its own deque of an open queue the unit puts its item
at the head and reads code 0, where no WPOP waits for it; into a full deque it reads 3, on a closed queue 2, and nothing is put.
WPOP and WSTEAL (R253, R319), for all destinations that can be written: WPOP takes the head of the unit's own deque; where that
is empty, the tail of the deque of the lowest-numbered unit that holds an item; with none, the form that does not wait reads
code 1, as every form does outside a PERSIST launch, and the other waits. WSTEAL takes the tail of the deque of the unit in
g[s1], unless its owner takes the last item in the same cycle; a unit that the launch has not reads code 4; on a closed queue
both read 2. That a WPOP which stands or waits at the owner meets the WSTEAL in the same cycle is the model's reading (log 83,
deduced). -/
def Obligations.WorkQueuesPushAndPop : Prop :=
  (∀ (s : State) (d a : GReg) (q : Fin 256) (v : W64) (k0 k1 : Core) (l : Launch) (u : Resident),
    s.cur.readG s.seqId a = .ok (v, k1) → s.curSeq.out = [] → s.cur.writeG s.seqId d 0 = .ok k0 → s.myLaunch = some l →
    s.cur.unit = some u →
    (l.closed.contains q = false → (l.deque q u.unit).length < 4096 →
      ∃ t, exec (.wpush d a q) s = .next t ∧ ((∀ c y, ((s.coreAt c).seq y).stall ≠ .workQueue q) →
        (plain s d → t.curSeq.g[d] = 0) ∧ (t.launch l.id).map (fun m => m.deque q u.unit) = some (v :: l.deque q u.unit) ∧
        t.curSeq.pc = (s.finish 1 16).curSeq.pc ∧ t.mem = s.mem)) ∧
    (l.closed.contains q = false → 4096 ≤ (l.deque q u.unit).length →
      ∃ t, exec (.wpush d a q) s = .next t ∧ (plain s d → t.curSeq.g[d] = 3) ∧ t.launches = s.launches ∧
        t.curSeq.pc = (s.finish 1 16).curSeq.pc ∧ t.mem = s.mem) ∧
    (l.closed.contains q = true →
      ∃ t, exec (.wpush d a q) s = .next t ∧ (plain s d → t.curSeq.g[d] = 2) ∧ t.launches = s.launches ∧
        t.curSeq.pc = (s.finish 1 16).curSeq.pc ∧ t.mem = s.mem)) ∧
  (∀ (s : State) (d a : GReg) (q : Fin 256) (n : Bool) (l : Launch) (u : Resident) (v x : W64) (r : List W64) (w : Nat) (k0 k1 k2 : Core),
    s.cur.writeG s.seqId a 0 = .ok k0 → k0.writeG s.seqId d 0 = .ok k1 → s.myLaunch = some l → s.cur.unit = some u →
    (l.closed.contains q = true → ∃ t, exec (.wpop d a n q) s = .next t ∧ popped s t d a 2 none ∧ t.launches = s.launches) ∧
    (l.closed.contains q = false →
      (l.deque q u.unit = v :: r →
        ∃ t, exec (.wpop d a n q) s = .next t ∧ popped s t d a 0 (some v) ∧
          (t.launch l.id).map (fun m => m.deque q u.unit) = some r) ∧
      (l.deque q u.unit = [] → l.firstHolder q = some w → l.deque q w = r ++ [v] →
        ∃ t, exec (.wpop d a n q) s = .next t ∧ popped s t d a 0 (some v) ∧
          (t.launch l.id).map (fun m => m.deque q w) = some r) ∧
      (l.deque q u.unit = [] → l.firstHolder q = none →
        (n = true ∨ l.task.persist = false →
          ∃ t, exec (.wpop d a n q) s = .next t ∧ popped s t d a 1 none ∧ t.launches = s.launches) ∧
        (n = false → l.task.persist = true → (s.stallSeq (.workQueue q)).closes l q = false →
          exec (.wpop d a n q) s = .next (s.stallSeq (.workQueue q))))) ∧
    (s.cur.readG s.seqId a = .ok (x, k2) →
      (l.closed.contains q = true → ∃ t, exec (.wsteal d a q) s = .next t ∧ popped s t d a 2 none ∧ t.launches = s.launches) ∧
      (l.closed.contains q = false →
        (l.task.units ≤ x.toNat → ∃ t, exec (.wsteal d a q) s = .next t ∧ popped s t d a 4 none ∧ t.launches = s.launches) ∧
        (x.toNat < l.task.units → l.deque q x.toNat = [] →
          ∃ t, exec (.wsteal d a q) s = .next t ∧ popped s t d a 1 none ∧ t.launches = s.launches) ∧
        (x.toNat < l.task.units → l.deque q x.toNat = r ++ [v] → (r = [] → s.ownerPops l x.toNat q = false) →
          ∃ t, exec (.wsteal d a q) s = .next t ∧ popped s t d a 0 (some v) ∧
            (t.launch l.id).map (fun m => m.deque q x.toNat) = some r) ∧
        (x.toNat < l.task.units → l.deque q x.toNat = [v] → s.ownerPops l x.toNat q = true →
          ∃ t, exec (.wsteal d a q) s = .next t ∧ popped s t d a 1 none ∧ t.launches = s.launches))))

/-- CCGET and CCWAIT (R251): CCGET reads the counter of the unit's context, zero-extended; CCWAIT completes once (counter -
g[s1]) mod 2^48 is less than 2^47, and waits else. CANCEL (R252), at the four levels: it covers the launches of the context that
the identifier or the counter names. A covered launch none of whose units has started ends at once, with STATUS 0x02 and START 0
in its record and its counters one higher; a unit of one that runs is stopped and its save discarded, and the launch is marked
with STATUS 0x02. The canceller goes on. When the device ends a launch that is finished is the model's choice (log 2). -/
def Obligations.CountersAndCancel : Prop :=
  (∀ (s : State) (d a : GReg) (l : Level) (n : Fin 256) (c : Ctx) (v : W64) (k1 : Core), s.ctx s.myCtx = some c →
    (s.cur.writeG s.seqId d (BitVec.ofNat 64 (c.counter l n.val).toNat) = .ok k1 →
      exec (.ccget d l n) s = .next (done s k1 1 0)) ∧
    (s.cur.readG s.seqId a = .ok (v, k1) →
      (((c.counter l n.val).toNat + 2 ^ 48 - v.toNat % 2 ^ 48) % 2 ^ 48 < 2 ^ 47 → exec (.ccwait a l n) s = .next (done s k1 1 0)) ∧
      (2 ^ 47 ≤ ((c.counter l n.val).toNat + 2 ^ 48 - v.toNat % 2 ^ 48) % 2 ^ 48 →
        exec (.ccwait a l n) s = .next (s.stallSeq .counter)))) ∧
  (∀ (s : State) (a : GReg) (v : W64) (k1 : Core) (l : Launch) (lev : Level) (x : Ctx) (p : Piece) (c : CoreId),
    s.cur.readG s.seqId a = .ok (v, k1) →
    (∀ n, n ∈ s.covered lev v ↔ ∃ m ∈ s.launches, m.id = n ∧ m.ctx = s.myCtx ∧
      (match lev with
        | .launch => m.id = v.toNat % 2 ^ 48
        | .graph => m.task.ccg.val = v.toNat % 256 ∧ m.task.ccg ≠ 255
        | .phase => m.task.ccp.val = v.toNat % 256 ∧ m.task.ccp ≠ 255
        | .job => m.task.ccj.val = v.toNat % 256 ∧ m.task.ccj ≠ 255)) ∧
    (s.covered lev v = [] → ∃ t, exec (.cancel a lev) s = .next t ∧ t.launches = s.launches ∧ t.curSeq.pc = (done s k1 1 0).curSeq.pc) ∧
    (s.covered lev v = [l.id] → s.launch l.id = some l → l.mark = none → (∀ m ∈ s.launches, m.id = l.id → m = l) →
      (l.units = [] → l.held = false → (∀ k u, (s.coreAt k).unit = some u → u.launch ≠ l.id) → recordGoes s l x p →
        ∃ t, exec (.cancel a lev) s = .next t ∧ launchEnds s t l x p 0x02 0 l.iused l.tused ∧
          t.curSeq.pc = (done s k1 1 0).curSeq.pc ∧ ∀ n : Nat, n ≠ l.id → (n ∈ t.launches.map (·.id) ↔ n ∈ s.launches.map (·.id))) ∧
      ((s.holding fun u => u.launch == l.id) = [c] → (∃ r ∈ l.units, r.state = .running c) → l.startCycle ≠ s.cycle →
        (s.coreAt c).a.halted = false → (s.coreAt c).stop = none →
        ∃ t, exec (.cancel a lev) s = .next t ∧ (t.launch l.id).map (·.mark) = some (some 0x02) ∧
          (t.coreAt c).stop.map (·.aim) = some .discard ∧ t.curSeq.pc = (done s k1 1 0).curSeq.pc)))

/-- WATCH (R302), for every destination that can be written: a well-formed descriptor of a line in memory that the context may
read, with a free watchpoint and a record that could be launched, registers a watchpoint: code 0; with REMOVE set it takes away
those of the context on that line and record; a malformed descriptor, a line in a window or in host memory, or a record that
could not be launched reads 0x20, and a slice with no free watchpoint 0x21. That a misaligned descriptor address reads 0x20 is
the model's choice (log 43). -/
def Obligations.WatchRegisters : Prop :=
  ∀ (s : State) (d : GReg) (a : AReg) (va line : A80) (bs rec : List Byte) (p : Piece) (c : Ctx) (k0 : Core),
    s.cur.readA s.seqId a = .ok va → s.curSeq.out = [] → s.cur.writeG s.seqId d 0 = .ok k0 →
    s.readAt s.core s.myCtx va 64 = .ok bs → line = BitVec.ofNat 80 (fieldNat bs 0 10) → s.ctx s.myCtx = some c →
    let refused := fun code : W64 => ∃ t, exec (.watch d a) s = .next t ∧ (plain s d → t.curSeq.g[d] = code) ∧
      t.curSeq.pc = (s.finish 1 192).curSeq.pc ∧ t.dies = s.dies ∧ t.mem = s.mem
    ((inLocal line || inCluster line) = true → refused 0x20) ∧
    (inLocal line = false → inCluster line = false → s.seqPiece s.myCtx line 1 permWatch = .ok p → p.space = .phys →
      (parseWatch bs = none ∨ va.toNat % 64 ≠ 0 → refused 0x20) ∧
      (∀ words cond mask value task, parseWatch bs = some (line, words, cond, mask, value, task) → va.toNat % 64 = 0 →
        (regionOf p.addr = .host → refused 0x20) ∧
        (regionOf p.addr ≠ .host →
          (cond.getLsbD 3 = true →
            ∃ t, exec (.watch d a) s = .next t ∧ (plain s d → t.curSeq.g[d] = 0) ∧ t.curSeq.pc = (s.finish 1 192).curSeq.pc ∧
              ∀ w, w ∈ (t.die (homeDie p.addr)).watch ↔
                w ∈ (s.die (homeDie p.addr)).watch ∧ ¬(w.ctx = s.myCtx ∧ w.line = p.addr ∧ w.task = task)) ∧
          (cond.getLsbD 3 = false → task.toNat % 128 ≠ 0 → refused 0x20) ∧
          (cond.getLsbD 3 = false → task.toNat % 128 = 0 → s.readAt s.core s.myCtx task 128 = .ok rec →
            (s.refusal c (parseTask rec) ≠ 0 → refused 0x20) ∧
            (s.refusal c (parseTask rec) = 0 → 8 ≤ ((s.die (homeDie p.addr)).watch.filter fun w => w.slice == sliceOf p.addr).length →
              refused 0x21) ∧
            (s.refusal c (parseTask rec) = 0 → ((s.die (homeDie p.addr)).watch.filter fun w => w.slice == sliceOf p.addr).length < 8 →
              ∃ t, exec (.watch d a) s = .next t ∧ (plain s d → t.curSeq.g[d] = 0) ∧
                t.curSeq.pc = (s.finish 1 192).curSeq.pc ∧
                (t.die (homeDie p.addr)).watch = (s.die (homeDie p.addr)).watch ++
                  [{ slice := sliceOf p.addr, line := p.addr, words := words, cond := cond, mask := mask, value := value, task := task,
                     record := rec, ctx := s.myCtx, pending := false }])))))

/-- CONT and YIELD (R260): at a CONT both sequencers meet; when the other stands at the same number, loads are back and every
queue is empty, both go on at their next words where no reason is pending, and else the unit drains; a sequencer that comes
first waits. YIELD adds the voluntary reason. -/
def Obligations.ContinuationPointsMeetAndYield : Prop :=
  ∀ (s : State) (n : BitVec 16) (u : Resident) (k : Core), s.curSeq.handler = false → s.curSeq.loops = [] → s.curSeq.deferred = [] →
    (∀ x ∈ s.curSeq.out, x.isRemote = false) → s.cur.unit = some u → k = s.cur.modSeq s.seqId (fun q => { q with stall := .cont, cont := some n }) →
    ((s.cur.seq (otherSeq s.seqId)).cont = none → (s.cur.seq (otherSeq s.seqId)).halted = false →
      exec (.cont n) s = .next (s.setCore s.core k)) ∧
    ((s.cur.seq (otherSeq s.seqId)).cont = some n → s.cur.loadsBack = true → s.cur.queuesEmpty = true →
      (u.reasons ≠ 0 → exec (.cont n) s = .next (s.setCore s.core { k with unit := some { u with draining := true } })) ∧
      (u.reasons = 0 → (s.cur.seq (otherSeq s.seqId)).loops = [] →
        ∃ t, exec (.cont n) s = .next t ∧
          ∀ q, (t.cur.seq q).pc = (s.cur.seq q).pc + 4 ∧ (t.cur.seq q).cont = none ∧ (t.cur.seq q).g = (s.cur.seq q).g)) ∧
    (∃ t, exec .yield s = .next t ∧ t.cur.unit.map (fun v => hasReason v.reasons reasonVoluntary) = some true ∧
      t.curSeq.pc = (s.finish 1 0).curSeq.pc)

/-- TOPUP and SETDIV (R256, R259): with the BUDGET privilege the least of g[s1], the context's pool and what the register can
still hold moves from the pool to BUDI, BUDT or BUDG; without it a privilege fault. SETDIV writes the requested divisor of one
engine. -/
def Obligations.BudgetsAndDivisors : Prop :=
  ∀ (s : State) (a : GReg) (v : W64) (k1 : Core) (c : Ctx) (u : Resident), s.cur.readG s.seqId a = .ok (v, k1) →
    s.ctx s.myCtx = some c → s.cur.unit = some u →
    (c.privs.getLsbD 0 = true → ∀ m : Nat,
      (m = min (min v.toNat c.pool.toNat) (2 ^ 47 - 1 - s.cur.sys.budt.toInt).toNat →
        ∃ t, exec (.topup a 1) s = .next t ∧ t.cur.sys.budt.toInt = s.cur.sys.budt.toInt + m ∧
          (t.ctx c.num).map (·.pool.toNat) = some (c.pool.toNat - m) ∧ t.curSeq.pc = (done s k1 1 0).curSeq.pc) ∧
      (m = min (min v.toNat c.pool.toNat) (2 ^ 31 - 1 - s.cur.sys.budg.toInt).toNat →
        ∃ t, exec (.topup a 2) s = .next t ∧ t.cur.sys.budg.toInt = s.cur.sys.budg.toInt + m ∧
          (t.ctx c.num).map (·.pool.toNat) = some (c.pool.toNat - m)) ∧
      (m = min (min v.toNat c.pool.toNat) (2 ^ 47 - 1 - s.cur.sys.budi.toInt).toNat →
        ∃ t, exec (.topup a 0) s = .next t ∧ t.cur.sys.budi = chargeBudget 48 (BitVec.ofInt 48 (s.cur.sys.budi.toInt + m)) 1)) ∧
    (c.privs.getLsbD 0 = false → exec (.topup a 0) s = .next s.noPrivilege ∧ exec (.topup a 1) s = .next s.noPrivilege) ∧
    (∀ (e f : DivSel) (n : Fin 32),
      (∃ t, exec (.setdiv e n) s = .next t ∧ t.cur.divReq.get e = n ∧ (f ≠ e → t.cur.divReq.get f = s.cur.divReq.get f) ∧
        t.curSeq.pc = (s.finish 1 0).curSeq.pc) ∧
      (1 ≤ v.toNat → v.toNat ≤ 16 →
        ∃ t, exec (.setdivRegister a e) s = .next t ∧ (t.cur.divReq.get e).val = v.toNat ∧
          (f ≠ e → t.cur.divReq.get f = k1.divReq.get f) ∧ t.curSeq.pc = (done s k1 1 0).curSeq.pc) ∧
      (v.toNat = 0 ∨ 16 < v.toNat → exec (.setdivRegister a e) s = .next s.illegal))

/-- PHASE (R268, R381): with every ring empty and the segment's busy cycles and CRC as its record states, a new segment begins:
no words, one more completed PHASE, a checkpoint taken; where one differs, phase mismatch with both values in TINFO. That a
nonzero reserved byte of the record traps with 0x0A is the model's choice (log 81); that empty rings mean completed entries is
deduced (log 67). -/
def Obligations.PhaseEndsSegment : Prop :=
  ∀ (s : State) (a : AReg) (va : A80) (bs : List Byte), s.seqId = .x → s.cur.readA .x a = .ok va →
    s.readAt s.core s.myCtx va 16 = .ok bs →
    ((∀ e r, (s.cur.eng e).ring = some r → r.used = 0) → s.cur.seg.busy % 2 ^ 48 = fieldNat bs 0 6 → segmentCrc s.cur.seg.words = fieldNat bs 8 4 →
      fieldNat bs 6 2 = 0 → fieldNat bs 12 4 = 0 →
      ∃ t, exec (.phase a) s = .next t ∧ t.cur.seg.words = [] ∧ t.cur.seg.busy = 0 ∧ t.cur.seg.phases = s.cur.seg.phases + 1 ∧
        t.cur.check.isSome = true ∧ t.curSeq.pc = (s.finish 1 0).curSeq.pc ∧ t.mem = s.mem) ∧
    ((∀ e r, (s.cur.eng e).ring = some r → r.used = 0) → s.cur.seg.busy % 2 ^ 48 ≠ fieldNat bs 0 6 ∨ segmentCrc s.cur.seg.words ≠ fieldNat bs 8 4 ∨
        fieldNat bs 6 2 ≠ 0 ∨ fieldNat bs 12 4 ≠ 0 →
      exec (.phase a) s = .next (s.trapSeq 0x0A 0
        (BitVec.ofNat 64 (segmentCrc s.cur.seg.words + s.cur.seg.busy % 2 ^ 32 * 2 ^ 32)))) ∧
    (∀ e r, (s.cur.eng e).ring = some r → r.used ≠ 0 → exec (.phase a) s = .next (s.stallSeq .segment))

/-! ## System registers, traps, time -/

/-- MFS reads the map of R74 and MTS writes only what it says is writable: TRAPV, STALLV, STALLM and SEED, which seeds the lane
generators; a number outside the map is illegal. -/
def Obligations.SystemRegisterReadsAndWrites : Prop :=
  ∀ (s : State) (d a : GReg) (v : W64) (k1 : Core) (r : BitVec 8),
    (∀ n w, (n, w) ∈ [(0x00, BitVec.ofInt 64 s.cur.sys.budi.toInt), (0x01, BitVec.ofInt 64 s.cur.sys.budt.toInt),
        (0x02, BitVec.ofInt 64 s.cur.sys.budg.toInt), (0x03, BitVec.ofNat 64 s.cur.sys.ctxid.toNat),
        (0x04, BitVec.ofNat 64 (s.cur.sys.trapvEn.toNat * 2 ^ 48 + s.cur.sys.trapvAddr.toNat * 4)),
        (0x09, BitVec.ofNat 64 (s.divInForce s.core .c)), (0x0A, BitVec.ofNat 64 (s.divInForce s.core .m)),
        (0x0B, BitVec.ofNat 64 (s.divInForce s.core .v)), (0x0C, BitVec.ofNat 64 (s.divInForce s.core .w)),
        (0x0D, BitVec.ofNat 64 s.cur.sys.throt.toNat), (0x05, BitVec.ofNat 64 s.cur.sys.tcause.toNat), (0x06, s.cur.sys.tinfo),
        (0x07, s.cur.sys.tpc), (0x08, BitVec.ofNat 64 s.cur.sys.level.val), (0x0E, BitVec.ofNat 64 s.cur.sys.stallv.toNat),
        (0x0F, BitVec.ofNat 64 s.cur.sys.stallm.toNat), (0x10, s.cur.sys.seed), (0x11, s.tick),
        (0x12, BitVec.ofNat 64 s.cur.sys.unit.toNat), (0x13, s.cur.sys.launch)] →
      s.cur.writeG s.seqId d w = .ok k1 → exec (.mfs d (BitVec.ofNat 8 n)) s = .next (done s k1 1 0)) ∧
    (0x14 ≤ r.toNat → exec (.mfs d r) s = .next s.illegal ∧ exec (.mts a r) s = .next s.illegal) ∧
    (s.cur.readG s.seqId a = .ok (v, k1) →
      exec (.mts a 0x0E) s = .next (done s { k1 with sys := { k1.sys with stallv := BitVec.ofNat 48 v.toNat } } 1 0) ∧
      exec (.mts a 0x0F) s = .next (done s { k1 with sys := { k1.sys with stallm := BitVec.ofNat 48 v.toNat } } 1 0) ∧
      (∃ t, exec (.mts a 0x04) s = .next t ∧ t.cur.sys.trapvEn.toNat = v.toNat / 2 ^ 48 ∧
        t.cur.sys.trapvAddr.toNat = v.toNat / 4 % 2 ^ 15) ∧
      (s.cur.serirIdle = true →
        exec (.mts a 0x10) s = .next (done s { k1 with sys := { k1.sys with seed := v }, serir := { k1.serir with lanes := lanesOf v } } 1 0)) ∧
      (∀ n, n < 0x14 → n ≠ 0x04 → n ≠ 0x0E → n ≠ 0x0F → n ≠ 0x10 → exec (.mts a (BitVec.ofNat 8 n)) s = .next (done s k1 1 0)))

/-- TIME, WAITT, NOP and HALT (R146, R147): TIME writes TICK, WAITT completes once TICK has reached g[s1] and waits till then,
and the row of the opcode table for that moment completes it; HALT ends the sequencer, whose pc stays. -/
def Obligations.TimeAndHalt : Prop :=
  ∀ (s : State) (d a : GReg) (v : W64) (k1 : Core),
    exec .nop s = .next (s.finish 1 0) ∧
    (s.cur.writeG s.seqId d s.tick = .ok k1 → exec (.time d) s = .next (done s k1 1 0)) ∧
    (s.cur.readG s.seqId a = .ok (v, k1) →
      (v.toNat ≤ s.tick.toNat → exec (.waitt a) s = .next (done s k1 1 0)) ∧
      (s.tick.toNat < v.toNat → exec (.waitt a) s = .next (s.stallSeq (.tick v)))) ∧
    (∀ (c : CoreId) (q : SeqId) (t : W64) (k : Core), ((s.coreAt c).seq q).stall = .tick t → (s.coreAt c).unit.isSome = true →
      (s.coreAt c).stop = none → (s.coreAt c).handled = none → t.toNat ≤ s.tick.toNat → v.toNat ≤ s.tick.toNat →
      decodeWords [getNat (s.coreAt c).code ((s.coreAt c).seq q).pc.toNat 4] = some (.waitt a) →
      (s.coreAt c).readG q a = .ok (v, k) →
      exec (.waittTickReached c q) s = .next (done { s with core := c, stream := .seq q } k 1 0)) ∧
    (s.curSeq.handler = false → s.curSeq.deferred = [] → (∀ x ∈ s.curSeq.out, x.isRemote = false) →
      ∃ t, exec .halt s = .next t ∧ t.curSeq.halted = true ∧ t.curSeq.pc = s.curSeq.pc ∧
        t.cur.seq (otherSeq s.seqId) = s.cur.seq (otherSeq s.seqId) ∧ t.mem = s.mem)

/-- Taking a trap in the unit's own context (R25, R34, R144): TRAP with its cause enabled in TRAPV saves code 0x10 and the
stream in TCAUSE, the operand in TINFO and the address of the instruction in TPC; the X-sequencer's pc is kept and it goes on at
the handler's address, in handler mode, with the same registers, the A-sequencer stopped. An illegal word is taken the same way
with code 0x01 and the word in TINFO. ERET (R145): the X-sequencer takes back its program counter and leaves handler mode; a
sequencer that raised TRAP goes on behind it. -/
def Obligations.TrapEntryAndReturn : Prop :=
  (∀ (s : State) (u : Resident) (n : BitVec 8) (w : W32) (code : Nat) (i : Instr) (info : W64) (l : Launch)
    (ps : List Piece),
    (i = .trap n ∧ code = 0x10 ∧ info = BitVec.ofNat 64 n.toNat ∨
      i = .illegalInstruction w ∧ code = 0x01 ∧ info = BitVec.ofNat 64 w.toNat) →
    s.cur.unit = some u → s.cur.stop = none → s.cur.handled = none → s.cur.x.handler = false →
    s.cur.sys.trapvEn.getLsbD (code - 1) = true → quiet s.cur →
    s.launch u.launch = some l →
    s.memPiecesAs true u.ctx (l.task.savepool + BitVec.ofNat 80 (u.unit * saveSize)) 256 2 = .ok ps → s.writeBar ps = none →
    (∀ d, (s.die d).watch = []) → noneInFlight s →
    ∃ t, exec i s = .next t ∧ t.cur.sys.tcause.toNat = seqIndex s.seqId * 256 + code ∧ t.cur.sys.tinfo = info ∧
      t.cur.sys.tpc.toNat = s.curSeq.pc.toNat ∧ t.cur.x.hpc = some s.cur.x.pc ∧ t.cur.x.handler = true ∧
      t.cur.x.pc.toNat = 4 * s.cur.sys.trapvAddr.toNat ∧ t.cur.x.g = s.cur.x.g ∧ t.cur.a = { s.cur.a with cont := none } ∧ t.cur.stop = none ∧
      t.cur.handled.isSome = true ∧ t.ctxs = s.ctxs ∧ t.launches = s.launches) ∧
  (∀ (s : State) (st : Stop) (pc : BitVec 17), s.seqId = .x → s.cur.x.handler = true → s.cur.handled = some st → st.fatal = false →
    s.cur.x.hpc = some pc → (∀ n m, s.cur.a.stall ≠ .sem n m) → st.wait = none →
    (∀ e, (s.cur.eng e).phase = .idle ∧ (s.cur.eng e).head = none ∧ ∀ r, (s.cur.eng e).ring = some r → r.used = 0) →
    ∃ t, exec .eret s = .next t ∧ t.cur.handled = none ∧ t.cur.x.handler = false ∧
      t.cur.x.pc = (if st.causes.any (fun z => z.stream == 1 && z.code == 0x10) then pc + 4 else pc) ∧
      t.cur.a.pc = (if st.causes.any (fun z => z.stream == 0 && z.code == 0x10) then s.cur.a.pc + 4 else s.cur.a.pc) ∧
      t.cur.x.g = s.cur.x.g ∧ t.cur.a.g = s.cur.a.g ∧ t.mem = s.mem)

/-! ## Engine entries -/

/-- ENGINE_NOP and ENTRY_COMPLETE (R13, R15, R33, R254): a NOP has one busy cycle and defined count 1; a completed entry is
charged, its signal is applied to its semaphore, and its slot is freed: the stream is idle. One entry at a time on a stream is
the model's choice (log 14). -/
def Obligations.EngineEntries : Prop :=
  ∀ (s : State) (e : Eng) (y : Sync) (busy declared bytes count : Nat) (h : Head) (r : Ring) (u : Resident),
    (∃ t, exec (.engineNop e y) s = .next t ∧ (t.cur.eng e).phase = .done 1 1 0 1 ∧ (t.cur.eng e).head = (s.cur.eng e).head ∧
      (∀ f, f ≠ e → t.cur.eng f = s.cur.eng f) ∧ (∀ q, t.cur.seq q = s.cur.seq q) ∧ t.mem = s.mem) ∧
    ((s.cur.eng e).phase = .done busy declared bytes count → (s.cur.eng e).head = some h → h.chain = none → (s.cur.eng e).chunks = [] →
      (s.cur.eng e).ring = some r → r.used = 1 → s.cur.unit = some u → s.cur.stop = none → s.cur.seg.rerun = [] →
      s.cur.reducing e = false → s.waitsOf s.core (syncOf h.word.toNat).ssem = [] → (syncOf h.word.toNat).ssem.val < 48 →
      (s.semCount s.core (syncOf h.word.toNat).ssem).toNat + max 1 count ≤ 65535 →
      ∃ t, exec (.entryComplete e) s = .next t ∧ (t.cur.eng e).phase = .idle ∧ (t.cur.eng e).head = none ∧
        (t.cur.eng e).ring = some { r with rslot := (r.rslot + 1) % r.slots, used := 0 } ∧
        t.cur.sys.budi = chargeBudget 48 s.cur.sys.budi busy ∧ t.cur.sys.budt = chargeBudget 48 s.cur.sys.budt bytes ∧
        (t.semCount s.core (syncOf h.word.toNat).ssem).toNat = (match (syncOf h.word.toNat).sop with
          | .none => (s.semCount s.core (syncOf h.word.toNat).ssem).toNat
          | .add => (s.semCount s.core (syncOf h.word.toNat).ssem).toNat + 1
          | .set => 1
          | .cnt => (s.semCount s.core (syncOf h.word.toNat).ssem).toNat + count) ∧
        (∀ f, f ≠ e → t.cur.eng f = s.cur.eng f) ∧ (∀ q, t.cur.seq q = s.cur.seq q) ∧ t.mem = s.mem)

/-! ## Contexts -/

/-- CTXNEW (R329), for every destination that can be written: with the CONTEXT privilege and a well-formed descriptor, below
depth 8, the lowest free number becomes a child of the issuer, g[d] reads it, and no other context changes; a malformed
descriptor reads code 1, depth 8 code 2, a full package code 3; without the privilege a privilege fault. CTXGRANT (R331): a
grant that its checks admit is made and STATUS reads 0; one they refuse leaves both contexts and writes the status; the child
has what it had and what is granted, the issuer's pool falls by the budget. Where a descriptor may lie is the model's reading
(log 32). -/
def Obligations.ContextsCreatedAndGranted : Prop :=
  (∀ (s : State) (d : GReg) (a : AReg) (va : A80) (bs : List Byte) (make : Nat → Option Nat → Fin 16 → Ctx) (me : Ctx) (n : Nat) (k0 : Core),
    (s.privileged 1 = false → exec (.ctxnew d a) s = .next s.noPrivilege) ∧
    (s.privileged 1 = true → s.cur.readA s.seqId a = .ok va → s.curSeq.out = [] → s.cur.writeG s.seqId d 0 = .ok k0 →
      let refused := fun code : Nat => ∃ t, exec (.ctxnew d a) s = .next t ∧
        (plain s d → t.curSeq.g[d] = BitVec.ofNat 64 (2 ^ 63 + code)) ∧ t.ctxs = s.ctxs ∧
        t.curSeq.pc = (s.finish 1 0).curSeq.pc ∧ t.mem = s.mem
      (va.toNat % 64 ≠ 0 → refused 1) ∧
      (va.toNat % 64 = 0 → s.readAt s.core s.myCtx va 64 = .ok bs →
        (parseCreate bs = none → refused 1) ∧
        (parseCreate bs = some make → s.ctx s.myCtx = some me →
          (me.depth.val ≠ 8 → s.ctxs.length < 4096 → s.ctx n = none → (∀ m, m < n → (s.ctx m).isSome = true) →
            ∃ t, exec (.ctxnew d a) s = .next t ∧ (plain s d → t.curSeq.g[d] = BitVec.ofNat 64 n) ∧
              t.ctx n = some (make n (some me.num) (Fin.ofNat 16 (me.depth.val + 1))) ∧ (∀ m, m ≠ n → t.ctx m = s.ctx m) ∧
              t.curSeq.pc = (s.finish 1 0).curSeq.pc ∧ t.mem = s.mem) ∧
          (me.depth.val = 8 → refused 2) ∧
          (me.depth.val ≠ 8 → 4096 ≤ s.ctxs.length → refused 3))))) ∧
  (∀ (s : State) (d : GReg) (a : AReg) (v : W64) (k1 : Core) (va : A80) (bs : List Byte) (ps : List Piece) (me x : Ctx) (g : Grant),
    s.privileged 1 = true → s.cur.readG s.seqId d = .ok (v, k1) → s.target v s.isChild = some x → x.revoked = false →
    s.curSeq.out = [] → s.cur.readA s.seqId a = .ok va → s.devRead s.myCtx va 128 = .ok bs →
    s.memPieces s.myCtx va 1 2 = .ok ps → s.writeBar ps = none → s.ctx s.myCtx = some me → va.toNat % 128 = 0 →
    (parseGrant false bs = some g → s.grantStatus me x (some g) = 0 →
      exec (.ctxgrant d a) s = .next ((((s.grantTo me.num x.num g).putStatus me.num va 0).popSource d).ctxDone)) ∧
    (∀ n, s.grantStatus me x (parseGrant false bs) = n → n ≠ 0 →
      exec (.ctxgrant d a) s = .next (((s.putStatus me.num va n).popSource d).ctxDone)) ∧
    (x.num ≠ me.num →
      ((s.grantTo me.num x.num g).ctx x.num).map (fun c => (c.cores, c.privs, c.qcap, c.pool, c.floor)) =
        some (if g.has 0 then x.cores ||| g.cores else x.cores, if g.has 5 then x.privs ||| g.priv else x.privs,
          if g.has 2 then g.qcap else x.qcap, if g.has 3 then x.pool + BitVec.ofNat 48 g.budget else x.pool,
          if g.has 4 then x.floor + g.floor else x.floor) ∧
      ((s.grantTo me.num x.num g).ctx me.num).map (·.pool) =
        some (if g.has 3 then me.pool - BitVec.ofNat 48 g.budget else me.pool) ∧
      (∀ m, m ≠ x.num → m ≠ me.num → (s.grantTo me.num x.num g).ctx m = s.ctx m)))

/-- CTXRUN, CTXSTOP and CTXINFO (R333 to R335): a descendant runs, and its INIT record is launched when it runs for the first
time; a stop gives every resident unit of the subtree the stop reason; CTXINFO reads the items of a context. -/
def Obligations.ContextsRunStopReport : Prop :=
  ∀ (s : State) (d a : GReg) (v : W64) (k0 k1 : Core) (x : Ctx) (bs : List Byte) (tk : TaskRec),
    (s.privileged 1 = true → s.cur.readG s.seqId d = .ok (v, k1) → s.target v s.isDescendant = some x → x.revoked = false →
      s.curSeq.out = [] →
      (s.awaiting = [] → x.init = 0 ∨ x.ranBefore = true ∨ x.running = true →
        ∃ t, exec (.ctxrun d) s = .next t ∧ (t.ctx x.num).map (fun c => (c.running, c.ranBefore)) = some (true, true) ∧
          t.launches.map (·.id) = s.launches.map (·.id) ∧ t.curSeq.pc = (done s k1 1 0).curSeq.pc) ∧
      (s.awaiting = [] → x.init ≠ 0 → x.ranBefore = false → x.running = false → x.init.toNat % 128 = 0 →
        s.devRead x.num x.init 128 = .ok bs → parseTask bs = some tk → s.refusal x (some tk) = 0 → s.newLaunchId x.num < 2 ^ 48 →
        ∃ t, exec (.ctxrun d) s = .next t ∧ (t.ctx x.num).map (·.running) = some true ∧
          t.launches.map (·.id) = s.launches.map (·.id) ++ [s.newLaunchId x.num]) ∧
      (∃ t, exec (.ctxstop d false) s = .next t ∧ (t.ctx x.num).map (·.running) = some false ∧
        (∀ c u, (s.coreAt c).unit = some u → s.within u.ctx x.num = true →
          (t.coreAt c).unit.map (fun r => hasReason r.reasons reasonStop) = some true) ∧
        t.curSeq.pc = (done s k1 1 0).curSeq.pc)) ∧
    (s.cur.writeG s.seqId d 0 = .ok k0 → s.cur.readG s.seqId a = .ok (v, k1) → s.ctx v.toNat = some x → s.within x.num s.myCtx = true →
      ∀ n w, (n, w) ∈ [(0, if x.revoked then 2 else if x.running then 1 else 0),
          (1, match x.parent with | some p => BitVec.ofNat 64 p | none => BitVec.ofNat 64 (2 ^ 63)), (2, BitVec.ofNat 64 x.depth.val),
          (3, BitVec.ofNat 64 x.pool.toNat), (4, BitVec.ofNat 64 ((List.range 512).countP fun j => x.cores.getLsbD j)),
          (5, BitVec.ofNat 64 (allCores.countP fun c => (s.resident c).any fun u => u.ctx == x.num)),
          (6, BitVec.ofNat 64 x.held.length), (7, BitVec.ofNat 64 x.floor), (8, BitVec.ofNat 64 x.privs.toNat),
          (9, BitVec.ofNat 64 x.qcap), (10, BitVec.ofNat 64 (s.launches.countP fun l => l.ctx == x.num)),
          (11, BitVec.ofNat 64 x.evLost.toNat)] →
        ∃ t, exec (.ctxinfo d a (BitVec.ofNat 8 n)) s = .next t ∧ (plain s d → t.curSeq.g[d] = w) ∧
          t.curSeq.pc = (done s k1 1 0).curSeq.pc ∧ t.mem = s.mem)

/-- CTXREVOKE and the completion of a revocation (R336, R337): an accepted one writes 0xFF to STATUS, the context is under
revocation and loses the cores named, and a refused one writes its status; once no affected unit is left, the pool returns,
STATUS reads 0 and the counter rises; ALL ends the contexts of the subtree. What revoking everything leaves the device itself is
the model's reading (log 33). -/
def Obligations.RevocationTakesAndCompletes : Prop :=
  ∀ (s u : State) (d : GReg) (a : AReg) (h : Bool) (v : W64) (k1 : Core) (va : A80) (bs : List Byte) (ps : List Piece) (x y : Ctx)
    (g : Grant) (r : Revocation) (i : Option Nat) (st : Option A80) (p : Nat) (n : Fin 256),
    (s.privileged 1 = true → s.cur.readG s.seqId d = .ok (v, k1) → s.target v s.isChild = some x → x.revoked = false →
      s.curSeq.out = [] → s.cur.readA s.seqId a = .ok va → s.devRead s.myCtx va 128 = .ok bs →
      s.memPieces s.myCtx va 1 2 = .ok ps → s.writeBar ps = none → va.toNat % 128 = 0 →
      (parseGrant true bs = some g → revokeStatus x (some g) = 0xFF →
        exec (.ctxrevoke d a h) s =
          .next ((((s.putStatus s.myCtx va 0xFF).popSource d).ctxDone).revokeFrom x g h (some s.myCtx) (some va))) ∧
      (revokeStatus x (parseGrant true bs) ≠ 0xFF →
        exec (.ctxrevoke d a h) s = .next (((s.putStatus s.myCtx va (revokeStatus x (parseGrant true bs))).popSource d).ctxDone))) ∧
    (u.ctx x.num = some y →
      ((u.revokeFrom x g false i st).ctx x.num).map (fun c => (c.revoking.isSome, c.cores)) =
        some (true, if g.has 6 then 0 else if g.has 0 then y.cores &&& ~~~g.cores else y.cores)) ∧
    (s.ctx x.num = some x → x.revoking = some r → noneInFlight s → s.revokePending (s.subtree x.num) = false →
      s.revokedLaunches (s.subtree x.num) r.all = [] →
      (r.all = false → r.issuer = none →
        exec (.revocationComplete x.num) s = .next (s.modCtx x.num fun c => { c with revoking := none })) ∧
      (r.all = false → r.issuer = some p → r.status = some va → r.ctr = some n →
        exec (.revocationComplete x.num) s =
          .next ((((s.modCtx x.num fun c => { c with revoking := none }).modCtx p fun c =>
            { c with pool := c.pool + BitVec.ofNat 48 r.pool }).putStatus p va 0).countUp p .job n)) ∧
      (r.all = true → r.issuer = none →
        ∃ t, exec (.revocationComplete x.num) s = .next t ∧ t.ctxs.map (·.num) = (s.ctxs.filter fun c => !s.within c.num x.num).map (·.num)))

/-! ## Units leave and come -/

/-- A unit leaves its core (R25, R28, R248, R249, R255, R261, R263 to R266): a stop that saves writes the whole unit to its save
area, and the unit lies saved in its launch; in a launch that is marked it ends, as does one whose stop discards. The grace's
expiry pre-empts, the end of a drain saves and releases, and the unit whose conditions of R248 hold ends; the core then holds
none. The last unit ends its launch: record, then counters. A stop whose engine has a started entry that has not begun waits.
What a save keeps outside its area (log 21) and when the device ends a launch (log 2) are the model's choices. -/
def Obligations.UnitLeaves : Prop :=
  ∀ (s : State) (c : CoreId) (u : Resident), (s.coreAt c).unit = some u → (s.coreAt c).a.out = [] → (s.coreAt c).x.out = [] →
    (s.coreAt c).a.deferred = [] → (s.coreAt c).x.deferred = [] →
    (quiet (s.coreAt c) → ∀ st, (s.coreAt c).stop = some st → st.aim = .save ∨ st.aim = .discard →
      ∃ t, exec (.unitStop c) s = .next t ∧ (t.coreAt c).unit = none) ∧
    (∀ st w pr l, quiet (s.coreAt c) → (∀ e, ((s.coreAt c).eng e).late = [] ∧ ((s.coreAt c).eng e).todo = []) →
      (s.coreAt c).stop = some st → st.aim = .save → (s.modCore c fun k => k.noteUnitCause st).hardSave c u st = .ok (w, pr) →
      w.launch u.launch = some l → (w.coreAt c).unit = some u → hasReason u.reasons reasonRevoke = false → (∃ r ∈ l.units, r.num = u.unit) →
      (l.mark = none → ∃ t, exec (.unitStop c) s = .next t ∧ t.mem = w.mem ∧ (t.coreAt c).unit = none ∧
        (t.launch u.launch).bind (·.unitState u.unit) = some (.saved false pr)) ∧
      (∀ status x p, l.mark = some status → l.held = false → l.id = u.launch → (∀ r ∈ l.units, r.num ≠ u.unit → r.state = .ended) →
        recordGoes w l x p → ∃ t, exec (.unitStop c) s = .next t ∧ (t.coreAt c).unit = none ∧
          launchEnds w t l x p status l.start (l.iused + BitVec.ofNat 48 u.iused) (l.tused + BitVec.ofNat 48 u.tused))) ∧
    (∀ st, (∀ n : Fin 32, (s.coreAt c).tiles[n].mustWrite = false ∧ ((s.coreAt c).tiles[n].pinned && (s.coreAt c).tiles[n].present) = false) →
      ∃ (v : State) (ts : List Tile), v.mem = s.mem ∧ s.hardSave c u st =
        (match v.writeRanges u.ctx (s.saveArea u) ((s.coreAt c).hardRanges u st s.tick ts s.fresh) with
          | .ok w => .ok (w, (s.coreAt c).savePriv)
          | .error e => .error e)) ∧
    (∀ st tick ts n, (∀ f ∈ savedFields (s.coreAt c) u st tick,
        areaNat ((s.coreAt c).hardRanges u st tick ts n) f.1 f.2.1 = f.2.2 % 2 ^ (8 * f.2.1)) ∧
      (canonical (s.coreAt c) → savedArrays (s.coreAt c) ((s.coreAt c).hardRanges u st tick ts n))) ∧
    (∀ x va n m ps, s.memPiecesAs true x va n 2 = .ok ps → s.writeBar ps = none → untouched s (ps.map fun p => (p.addr, p.len)) →
      (∀ d, (s.die d).watch = []) → ps.Pairwise (fun p q => p.addr + p.len ≤ q.addr ∨ q.addr + q.len ≤ p.addr) →
      ∃ t, s.writeRange x va n m = .ok t ∧
        (∀ i p, ps[i]? = some p → ∀ j, j < p.len → getByte t.mem (p.addr + j) = getByte m (((ps.take i).map (·.len)).sum + j)) ∧
        ∀ a, (∀ p ∈ ps, a < p.addr ∨ p.addr + p.len ≤ a) → getByte t.mem a = getByte s.mem a) ∧
    ((∃ e, ((s.coreAt c).eng e).phase = .running .fresh) → exec (.unitStop c) s = .next s) ∧
    (quiet (s.coreAt c) → (s.coreAt c).stop = none → graceRuns u.reasons = true → (s.coreAt c).sys.budg.toInt < 0 →
      ∃ t, exec (.graceExpiry c) s = .next t ∧ (t.coreAt c).unit = none) ∧
    (quiet (s.coreAt c) → (s.coreAt c).stop = none → ∀ (d : DieId) (l : Nat) (x : Launch), s.launch l = some x →
      x.shareIs d .reserved = true → x.task.startTick.toNat ≤ s.tick.toNat + 100000 → (s.die d).reservedFor l = [c] →
      ∃ t, exec (.gangPreemption d l) s = .next t ∧ (t.coreAt c).unit = none) ∧
    (quiet (s.coreAt c) → u.draining = true → (s.coreAt c).stop = none → (s.coreAt c).drained = true → (s.coreAt c).contNumber.isSome = true →
      (s.launch u.launch).isSome = true → u.reasons ≠ reasonVariant →
      ∃ t, exec (.contDrainComplete c) s = .next t ∧ (t.coreAt c).unit = none) ∧
    ((s.coreAt c).canEnd = true → ∃ t, exec (.unitEnd c) s = .next t ∧ (t.coreAt c).unit = none ∧
      (t.coreAt c).a = Seq.reset ∧ (t.coreAt c).x = Seq.reset ∧
      ∀ l x p, s.launch u.launch = some l → l.id = u.launch → (∀ m ∈ s.launches, m.id = l.id → m = l) → l.held = false →
        (∃ r ∈ l.units, r.num = u.unit) → (∀ r ∈ l.units, r.num ≠ u.unit → r.state = .ended) →
        (l.mark.isSome = true ∨ l.units.length = l.task.units) → recordGoes s l x p →
        launchEnds s t l x p (match l.mark with | some m => m | none => if l.faults = 0 then 0 else 1) l.start
          (l.iused + BitVec.ofNat 48 u.iused) (l.tused + BitVec.ofNat 48 u.tused))

/-- The dispatcher gives a unit to a core (R27, R248, R261, R262, R264, R309, R312 to R316): the next unit of the launch that is
chosen, whose image and table hold, goes to the first free core. One that starts stands at the entry points of its variant, with
the image's semaphores; one saved by a stop has back its sequencers, registers, semaphores and entries; one that yielded stands
at the resume words of its continuation point, with what is live there; budgets start anew where a budget or voluntary reason
was pending. A gang starts on its reserved core with START at STARTTICK. That the image and the table are read once (log 17),
which launch may be placed (log 48), what replaces a lost core of a gang (log 84) and which reserved parts a resumption checks
(log 94) are the model's readings. -/
def Obligations.UnitStarts : Prop :=
  ∀ (s s1 s2 : State) (c f : CoreId) (d : DieId) (x n : Nat) (l l0 l2 : Launch) (ls : List Launch) (m : Image) (es : List OpEntry)
    (e : OpEntry) (r : List CoreId),
    (s.nextIsSaved c = true → exec (.unitResume c) s = exec (.unitPlacement c) s) ∧
    ((s.dropCredit (dieOf c)).pick c = some (x, s1) → s1.candidates x c = l :: ls → l0 = { l with level := s1.startLevel l } →
      s1.checkLaunch l0 (dieOf c) = .ok (m, es, e) → l.task.persist = false → l.task.gang = false → m.usesBank = false →
      s2 = s1.noteChecked l.id (dieOf c) m es l0.level e.cores →
      s2.residentOn l0 (dieOf c) < l0.limitOn (dieOf c) (if l0.cores = 0 then e.cores else l0.cores) →
      l0.placeable (dieOf c) 1 = n :: [] → s2.launch l.id = some l2 → l2.mark = none → s2.freeCores l2 (dieOf c) = f :: r →
      exec (.unitPlacement c) s = .next (s2.putUnit f l2 n m e)) ∧
    (l.unitState n = none → ∃ t, t = s.putUnit c l n m e ∧
      (t.coreAt c).unit.map (fun u => (u.launch, u.unit, u.ctx, u.variant)) = some (l.id, n, l.ctx, e.variant) ∧
      (t.coreAt c).a.pc = BitVec.ofNat 17 (4 * (m.entry e.variant).1) ∧
      (t.coreAt c).x.pc = BitVec.ofNat 17 (4 * (m.entry e.variant).2) ∧ (t.coreAt c).sems = m.init ∧
      (t.coreAt c).sys.budi = l.task.ibudi) ∧
    (∀ pr rec cells, Memory.wf s.mem = true → l.unitState n = some (.saved false pr) → s.devRead l.ctx (l.area n) 256 = .ok rec → stopRecordOk rec = true →
      s.readRanges l.ctx (l.area n) hardParts = .ok cells → headerRecordOk (getBytes cells 0x100 256) = true →
      saveCellsOk cells = true → pr.handled = none → recordWait rec 0 = none → recordWait rec 1 = none → pr.seg.rerun = [] →
      getNat cells 5 1 = 0 →
      (∀ j, j < 4 → getNat cells (0x50 + 32 * j) 1 = 1 ∨ (getNat cells (0x50 + 32 * j) 1 = 0 ∧ pr.used.getD j 0 = 0)) →
      ∃ t, t = s.putUnit c l n m e ∧ hardBack (t.coreAt c) cells ∧
        (t.coreAt c).unit.map (fun u => (u.launch, u.unit, u.ctx)) = some (l.id, n, l.ctx) ∧
        (∀ q, ((t.coreAt c).seq q).pc = BitVec.ofNat 17 (getNat cells (seqPlace q + 0x200) 4 / 4 * 4) +
          if fieldNat rec (0xF0 + seqIndex q) 1 = 0x10 then 4 else 0) ∧
        ((t.coreAt c).sys.budi.toNat, (t.coreAt c).sys.budt.toNat, (t.coreAt c).sys.budg.toNat) =
          if getNat cells 0x103 1 % 4 = 0 then (getNat cells 0x108 6, getNat cells 0x10E 6, getNat cells 0x114 4)
          else (l.task.ibudi.toNat, l.task.ibudt.toNat, l.task.ibudg.toNat)) ∧
    (∀ pr h g cells, Memory.wf s.mem = true → l.unitState n = some (.saved true pr) → s.devRead l.ctx (l.area n + 0x100) 256 = .ok h → headerRecordOk h = true →
      (m.conts.find? fun y => y.num == fieldNat h 4 2) = some g → s.readRanges l.ctx (l.area n) (yieldParts g) = .ok cells →
      ∃ t, t = s.putUnit c l n m e ∧ yieldBack (t.coreAt c) g cells ∧
        (t.coreAt c).unit.map (fun u => (u.launch, u.unit, u.ctx, u.variant)) = some (l.id, n, l.ctx, e.variant) ∧
        (t.coreAt c).a.pc = BitVec.ofNat 17 (4 * (g.words e.variant).1) ∧ (t.coreAt c).x.pc = BitVec.ofNat 17 (4 * (g.words e.variant).2) ∧
        (t.coreAt c).sys.seed.toNat = fieldNat h 0x20 8 ∧
        ((t.coreAt c).sys.budi.toNat, (t.coreAt c).sys.budt.toNat, (t.coreAt c).sys.budg.toNat) =
          if fieldNat h 3 1 % 4 = 0 then (fieldNat h 8 6, fieldNat h 0xE 6, fieldNat h 0x14 4)
          else (l.task.ibudi.toNat, l.task.ibudt.toNat, l.task.ibudg.toNat)) ∧
    (s.launch l.id = some l → l.task.gang = true → s.gangStarts l d = true → s.checkLaunch l d = .ok (m, es, e) →
      l.gangPairs d (s.gangReady l d) = [(n, f)] → l.unitState n = none →
      ∃ t, exec (.gangStart d l.id) s = .next t ∧ (t.coreAt f).unit.map (fun u => (u.launch, u.unit)) = some (l.id, n) ∧
        (t.launch l.id).map (·.start) = some l.task.startTick)

/-- The other rows of the dispatcher (R310, R316, R321, R322, R338, R339): a unit that has used its slice while its queue owes
and another context waits receives the tenant reason; a gang reserves cores, or ends where too few are in its grant or
unreserved; the watchdog resets the islands of its partition, stops their units with KIND 0x06 to be saved, marks the launch of
the expired context with STATUS 0x05 and counts its units, and raises 0x0E for the context; a held event is written once its
place is free. That a record takes its number when it is written (log 37), when the watchdog event is written (log 47) and which
cores a gang may use (log 84) are deduced; FCAUSE of a launch that had counted a fault is the model's choice (log 104). -/
def Obligations.DispatcherRows : Prop :=
  ∀ (s s1 : State) (d : DieId) (c : CoreId) (u : Resident) (l : Launch) (m : Image) (es : List OpEntry) (e : OpEntry) (x p : Nat),
    ((∀ k, dieOf k = d → k ≠ c → (s.coreAt k).unit = none) → dieOf c = d → (s.coreAt c).unit = some u →
      (s.die d).sliceCycles ≤ u.resident → (∃ q ∈ (s.die d).queues, q.ctx = u.ctx ∧ q.deficit.toInt < 0) →
      s.otherEligible c u.ctx = true →
      ∃ t, exec (.tenantCheck d) s = .next t ∧ (t.coreAt c).unit.map (fun r => hasReason r.reasons reasonTenant) = some true) ∧
    ((∀ k r, (s.coreAt k).unit = some r → r.resident < (s.die d).sliceCycles) → exec (.tenantCheck d) s = .next s) ∧
    (s.launch l.id = some l → l.task.gang = true → l.mark = none → l.task.startTick.toNat ≤ s.tick.toNat + 1000000 →
      ((s.launches.filter fun y => s.reservationDue d y && decide (y.id ≤ l.id)).map (·.id)) = [l.id] →
      (l.shareIs d .ready = false → l.shareIs d .waiting = true → exec (.gangReservation d l.id) s = .next (s.markLaunch l.id 0x02)) ∧
      (l.shareIs d .ready = true → s.fabric.sync = true → s.checkLaunch l d = .ok (m, es, e) →
        s1 = s.noteChecked l.id d m es l.level e.cores →
        ∀ n all open_, n = l.limitOn d (if l.cores = 0 then e.cores else l.cores) →
          all = (s1.modDie d fun y => { y with reserved := [] }).gangCores l d →
          open_ = ((s1.gangCores l d).filter fun k => (s1.die d).reserved.all fun p => p.1 != k.val) →
          (all.length < n → exec (.gangReservation d l.id) s = .next (s1.markLaunch l.id 0x08)) ∧
          (n ≤ all.length → open_.length < n → exec (.gangReservation d l.id) s = .next (s1.markLaunch l.id 0x02)) ∧
          (n ≤ all.length → n ≤ open_.length → ∃ t, exec (.gangReservation d l.id) s = .next t ∧
            (t.die d).reserved = (s.die d).reserved ++ (open_.take n).map (fun k => (k.val, l.id)) ∧
            (t.launch l.id).map (fun y => y.shareIs d .reserved) = some true))) ∧
    (s.expired d x = true → s.partitionOf x = some p → (s.die d).drains = [] →
      (∀ k, k ≠ c → islandOf k ∈ s.partIslandsOf p d → (s.coreAt k).unit = none) → islandOf c ∈ s.partIslandsOf p d →
      (s.island (islandOf c)).state = .on → (s.coreAt c).unit = some u → u.ctx = x → (s.coreAt c).stop = none →
      (∃ g, ((s.coreAt c).eng g).phase = .running .fresh) → s.launch u.launch = some l → l.id = u.launch → l.mark = none →
      l.task.persist = false → (∃ r ∈ l.units, r.num = u.unit ∧ r.state = .running c) → (∀ m ∈ s.launches, m.id = l.id → m = l) →
      ∃ t, exec (.watchdogExpiry d x) s = .next t ∧ (t.island (islandOf c)).state = .resetting ∧
        (t.coreAt c).stop.map (fun st => (st.kind, st.aim, st.unitCause)) = some (0x06, .save, 0x0E) ∧
        (t.launch l.id).map (fun m => (m.mark, m.faults, m.fcause)) =
          some (some 0x05, min 65535 (l.faults + 1), if l.faults = 0 then 0x0E else l.fcause) ∧
        (t.die d).drains.map (fun r => (r.part, r.ctxs, r.units)) = [(p, [x], [(u.launch, u.unit, x)])] ∧
        (s.catcher 0x0E 10 x = none → (s.ctx p).map (fun y => (y.parent, y.destroying)) = some (none, false) → s.host.ring = none →
          s.host.held = [] → x < 4096 → (∀ k, (s.die k).watch = []) → ∃ rec, t.host.held = [rec] ∧ ∀ f, f ∈ [(0, 1, 1), (1, 1, 3), (3, 1, 0x0E), (4, 2, x % 4096), (8, 8, 0),
              (0x18, 8, u.launch), (0x20, 4, u.unit), (0x28, 8, s.tick.toNat)] →
            fieldNat rec f.1 f.2.1 = f.2.2 % 2 ^ (8 * f.2.1))) ∧
    (s.expired d x = true → s.partitionOf x = some p → (s.die d).drains = [] →
      (∀ i ∈ s.partIslandsOf p d, s.islandEmpty i = true) →
      ∃ t, exec (.watchdogExpiry d x) s = .next t ∧
        (∀ i ∈ s.partIslandsOf p d, (s.island i).state = .on → (t.island i).state = .resetting) ∧
        ((∃ i ∈ s.partIslandsOf p d, (s.island i).state = .on) → (t.die d).drains.map (fun r => (r.part, r.ctxs)) = [(p, [x])]) ∧
        ((∀ i ∈ s.partIslandsOf p d, (s.island i).state ≠ .on ∧ (s.island i).state ≠ .resetting) → ∀ q ∈ (t.die d).queues, q.ctx = x → q.wc = 0)) ∧
    (s.expired d x = false → exec (.watchdogExpiry d x) s = .next s) ∧
    (∀ (rec : List Byte) (a n pa : Nat), (∀ k ∈ s.ctxs, k.held = [] ∧ k.destroying = false) → (∀ k, (s.die k).watch = []) →
      s.host.held = [rec] → rec.length = 64 → s.host.ring = some (a, n) → 0 < n → pa = a + 64 * ((s.host.nextEvent.toNat - 1) % n) →
      getByte s.mem pa = 0 → untouched s [(pa, 64)] →
      ∃ t, exec .eventWriteRetry s = .next t ∧ t.host.held = [] ∧ t.host.nextEvent = s.host.nextEvent + 1 ∧
        (∀ j, j < 64 → j < 0x30 ∨ 0x38 ≤ j → getByte t.mem (pa + j) = rec.getD j 0) ∧
        getNat t.mem (pa + 0x30) 8 = s.host.nextEvent.toNat)

/-- Islands (R278, R279, R281, R282, R284): gating an empty island writes its bank into its record and leaves nothing else; a
rail change brings the level to its target; a reset ends with zeros at level 0; a failure retires the island, with the units on
it, zeroes its bank, is reported and lowers PMAX by 40 W. A gated island with no bank record at reset (log 3), and the lowering
of limits with an island (log 65), are the model's readings. -/
def Obligations.IslandsGateResetFail : Prop :=
  ∀ (s : State) (i : IslandId) (c : CoreId), islandOf c = i →
    ((s.island i).state = .on → s.islandEmpty i = true →
      ∃ t, exec (.islandGating i) s = .next t ∧ (t.island i).state = .gated ∧ (t.island i).level = 0 ∧ t.coreAt c = Core.reset ∧
        (∀ a, s.bankRecord i = some a → ∀ j, j < 64 → getByte t.mem (a + j) = (bankBytes (s.island i).bank).getD j 0)) ∧
    ((s.island i).state = .on →
      ∃ t, exec (.railChangeComplete i) s = .next t ∧ (t.island i).level = (s.island i).target ∧
        (t.island i).bank = (s.island i).bank ∧ (∀ j, j ≠ i → t.island j = s.island j) ∧ t.cores = s.cores ∧ t.mem = s.mem) ∧
    ((s.island i).state = .resetting → s.islandEmpty i = true →
      ∃ t, exec (.islandResetComplete i) s = .next t ∧ (t.island i).state = .on ∧ (t.island i).level = 0 ∧ t.coreAt c = Core.reset ∧
        (∀ n : Fin 16, (t.island i).bank[n] = 0) ∧ (∀ a, s.bankRecord i = some a → ∀ j, j < 64 → getByte t.mem (a + j) = 0)) ∧
    ((s.island i).state = .on ∨ (s.island i).state = .resetting →
      ∃ t, exec (.islandFailure i) s = .next t ∧ (t.island i).state = .failed ∧ t.coreAt c = Core.reset ∧
        t.power.pmax = s.power.pmax - 40000 ∧ (∀ n : Fin 16, (t.island i).bank[n] = 0) ∧ .report 5 i.val ∈ t.host.replies)

/-! ## Serir -/

/-- Numbers (R86, R87, R91, R92): a floating-point pattern that is no NaN is what its value encodes to, whatever the rounding,
and a NaN encodes to the canonical one; a finite pattern of E4M3, E5M2 and E2M1 is what its value quantises to, and what lies
beyond the largest finite magnitude becomes the largest. An integer pattern is two's complement, unsigned for UINT8, in INT4 and
INT2 too; the narrow elements of 2 and 4 bits are read back from the bytes that they are packed into. -/
def Obligations.NumberFormatsRoundTrip : Prop :=
  (∀ (f : Fmt) (x : Nat) (r : Rnd), f ∈ [fmtFp32, fmtBf16, fmtFp16] → x < 2 ^ f.width →
    ((f.decode x).isNan = false → f.encode r (f.decode x) = x) ∧ ((f.decode x).isNan = true → f.encode r (f.decode x) = f.nan)) ∧
  (∀ (f : Fmt) (largest : Nat), (f, largest) ∈ [(fmtE4m3, 448), (fmtE5m2, 57344), (fmtE2m1, 6)] →
    (∀ x neg, x < 2 ^ f.width → (f.decode x).isNan = false → f.decode x ≠ .inf neg → f.decode x ≠ .inf (!neg) →
      f.encodeClamp (f.decode x) = x) ∧
    f.encodeClamp (Num.ofInt largest) = f.largest ∧
    ∀ n : Nat, largest ≤ n → f.encodeClamp (Num.ofInt n) = f.largest ∧ f.encodeClamp (Num.ofInt n).neg = f.largest + 2 ^ (f.width - 1)) ∧
  (∀ (t : VType) (x : Nat), t ∈ [.int8, .int16, .int32] → x < 2 ^ (8 * VType.size t) →
    intOf t x = (if x < 2 ^ (8 * VType.size t - 1) then (x : Int) else x - 2 ^ (8 * VType.size t)) ∧ wrapTo t (intOf t x) = x) ∧
  (∀ x, x < 256 → intOf .uint8 x = x ∧ wrapTo .uint8 x = x) ∧
  (∀ (d : PackDesc) (x scale : Nat), (d.mtype, d.bits) ∈ [(8, 4), (9, 2)] → x < 2 ^ d.bits →
    d.value x scale = Num.ofInt (if x < 2 ^ (d.bits - 1) then (x : Int) else x - 2 ^ d.bits) ∧
    wrapNat d.bits (if x < 2 ^ (d.bits - 1) then (x : Int) else x - 2 ^ d.bits) = x) ∧
  (∀ (bits : Nat) (xs : List Nat) (old i : Nat), bits ∈ [2, 4] → (∀ x ∈ xs, x < 2 ^ bits) → old < 256 →
    (i < xs.length → packedAt bits (packPatterns bits xs old) i = xs.getD i 0) ∧
    ((packPatterns bits xs old).length * 8 < (xs.length * bits) + 8) ∧
    (xs.length * bits % 8 ≠ 0 → ((packPatterns bits xs old).getD (xs.length * bits / 8) 0).toNat / 2 ^ (xs.length * bits % 8) =
      old / 2 ^ (xs.length * bits % 8)))

/-- The element-wise commands (R152 to R163, R169): a command that passes its checks takes its turn, all elements of a short
one, the next pass of a long one. It writes every element of the turn that its mask selects with its result and keeps the
others; nothing outside Serir and the URS changes but what the turn is charged. The working precisions of exp2 and log2 are the
model's reading (log 23). -/
def Obligations.VectorElementResults : Prop :=
  ∀ (s : State) (y : Sync) (t dt : VType) (m : Bool) (d a b : Opd) (sh : Fin 32) (F : Form) (n : Nat) (long : Bool),
    F ∈ forms2 y t m d a b ++ forms3 y t m d a b ++ forms1 y t dt m d a sh → n = s.cur.countOf F.d (8 * VType.size F.td) →
    long = isLong (F.uses n) → vecReady s F.m (F.uses n) long F.w n →
    (long = true ∨ n ≤ F.w ∨ (apart s.cur F.d F.a (VType.size F.td == VType.size F.t1) ∧
      ∀ o, F.b = some o → apart s.cur F.d o (VType.size F.td == VType.size F.t1))) →
    ∃ u, exec F.i s = .next u ∧ u.cur.vEng.phase = turnPhase s long F.w F.busy n ∧ turnRest s u long ∧
      ∀ e, e < n → elem u.cur F.d (VType.size F.td) e =
        if inTurn s long F.w n e && s.cur.active F.m e then
          F.f (elem s.cur F.a (VType.size F.t1) e) (match F.b with | some o => elem s.cur o (VType.size F.t1) e | none => 0)
            (elem s.cur F.d (VType.size F.td) e) (s.cur.maskBit e)
            (drawFor F.sr s.cur.serir.lanes (e - (turn s long F.w n).1)) % 2 ^ (8 * VType.size F.td)
        else elem s.cur F.d (VType.size F.td) e

/-- Compares, masks and views (R150, R160, R162, R178): a compare writes the bits of its turn that the selected mask names, and
without a mask clears the bits from n on; the mask commands act bit by bit; VMPOP counts; VVIEW sets its view and empties its
queue. -/
def Obligations.VectorMasksAndViews : Prop :=
  ∀ (s : State) (y : Sync) (t : VType) (m : Bool) (j x z : Fin 8) (a b : Opd) (w : Fin 16) (n : Nat) (long : Bool) (base : BitVec 11)
    (len : BitVec 6) (cnt : BitVec 11) (kd : MxKind),
    (∀ p, p ∈ compares y t m j a b → n = s.cur.countOf a (8 * VType.size t) → long = isLong [srcUse a t n, srcUse b t n] →
      vecReady s m [srcUse a t n, srcUse b t n] long (passWidth t) n →
      ∃ u, exec p.1 s = .next u ∧ u.cur.vEng.phase = turnPhase s long (passWidth t) 1 n ∧ turnRest s u long ∧
        (∀ e, e < 16384 → (u.cur.serir.masks[j]).getLsbD e =
          if inTurn s long (passWidth t) n e && s.cur.active m e then p.2 (elem s.cur a (VType.size t) e) (elem s.cur b (VType.size t) e)
          else (m || decide (e < n)) && (s.cur.serir.masks[j]).getLsbD e) ∧
        (∀ i, i ≠ j → u.cur.serir.masks[i] = s.cur.serir.masks[i])) ∧
    (∃ u, exec (.vmsk y j) s = .next u ∧ u.cur.serir.sel = j ∧ onceDone s u 1 1) ∧
    (∀ p, p ∈ [(Instr.vmand y j x z, s.cur.serir.masks[x] &&& s.cur.serir.masks[z]),
        (.vmor y j x z, s.cur.serir.masks[x] ||| s.cur.serir.masks[z]), (.vmxor y j x z, s.cur.serir.masks[x] ^^^ s.cur.serir.masks[z]),
        (.vmnot y j x, ~~~s.cur.serir.masks[x])] →
      ∃ u, exec p.1 s = .next u ∧ u.cur.serir.masks = s.cur.serir.masks.set j p.2 ∧ onceDone s u 1 1) ∧
    (∃ u c, exec (.vmpop y w x) s = .next u ∧ c = (List.range 16384).countP (fun e => (s.cur.serir.masks[x]).getLsbD e) ∧
      u.cur.serir.z[w] = BitVec.ofNat 64 c ∧ onceDone s u 1 c) ∧
    (∃ u, exec (.vview y t x base len cnt kd) s = .next u ∧
      u.cur.serir.views[x] = { set := true, type := t, kind := kd, base := base, len := len, count := cnt } ∧
      u.cur.serir.queues[x] = none ∧ (∀ i, i ≠ x → u.cur.serir.views[i] = s.cur.serir.views[i]) ∧ onceDone s u 1 1)

/-- Reductions and rearrangement (R168, R170, R171), for every state in which the checks pass and the data that active elements
read are correctable: VRED writes one element; VPERM takes the elements that its index names, 0 outside; VTRN transposes 32
rows. VDEQ takes its turn and widens a microscaled row (R90, R167). Quantisation (R164 to R166), for every state in which the
checks pass: VSCL writes a scale byte for each 32 elements, VQNT the elements of each block and then their scales to a SOF
entry, for a planar target the planes of R82. The length and destination of VRED are deduced (log 28). -/
def Obligations.VectorReductionsAndShapes : Prop :=
  (∀ (s : State) (y : Sync) (t : VType) (m : Bool) (d a b : Opd) (op : RedOp) (n q w : Nat), canonical s.cur → w = passWidth t →
    (n = s.cur.countOf a (8 * VType.size t) → usesPass s.cur [dstUse d t 1 false, srcUse a t n] →
      s.cur.ursFault m [srcUse a t n] 0 n = none →
      ∃ u, exec (.vred y t m d a op) s = .next u ∧ onceDone s u (ceilDiv n w + 6) 1 ∧
        elem u.cur d (VType.size t) 0 = vReduce op t (((List.range n).filter (s.cur.active m)).map (elem s.cur a (VType.size t)))
          % 2 ^ (8 * VType.size t)) ∧
    (n = s.cur.countOf d (8 * VType.size t) → q = s.cur.countOf a (8 * VType.size t) →
      usesPass s.cur [dstUse d t n false, srcUse a t n, srcUse b .int32 n] → s.cur.ursFault m [srcUse b .int32 n] 0 n = none →
      (∀ js, (∀ j, j ∈ js → j < q ∧ ∃ e, e < n ∧ s.cur.active m e = true ∧ elem s.cur b 4 e = j) →
        s.cur.elemFault a (8 * VType.size t) js = none) →
      ∃ u, exec (.vperm y t m d a b) s = .next u ∧ onceDone s u (2 * ceilDiv n w) 1 ∧ ∀ e, e < n → elem u.cur d (VType.size t) e =
        if s.cur.active m e then
          (if elem s.cur b 4 e < 2 ^ 31 ∧ elem s.cur b 4 e < q then elem s.cur a (VType.size t) (elem s.cur b 4 e) else 0)
        else elem s.cur d (VType.size t) e) ∧
    (n = s.cur.countOf d (8 * VType.size t) → n = s.cur.countOf a (8 * VType.size t) → n % 32 = 0 →
      usesPass s.cur [dstUse d t n false, srcUse a t n] →
      (∀ js, (∀ j, j ∈ js → ∃ e, e < n ∧ s.cur.active m e = true ∧ j = 32 * (e % (n / 32)) + e / (n / 32)) →
        s.cur.elemFault a (8 * VType.size t) js = none) →
      ∃ u, exec (.vtrn y t m d a) s = .next u ∧ onceDone s u (2 * ceilDiv n w) 1 ∧
        ∀ i k, i < n / 32 → k < 32 → elem u.cur d (VType.size t) (i + n / 32 * k) =
          if s.cur.active m (i + n / 32 * k) then elem s.cur a (VType.size t) (32 * i + k)
          else elem s.cur d (VType.size t) (i + n / 32 * k)) ∧
    (∀ (v : Fin 8) (r : Fin 128) (kd : MxKind) (us : List Use) (long : Bool), a = .row v r → kd = s.cur.serir.views[v].kind →
      d.isRow = true → n = s.cur.countOf d 32 →
      us = [dstUse d .fp32 n false, { opd := a, type := some .mx, kind := none, bits := mxBits kd, n := n, dest := false, reads := true },
        srcUse b .uint8 (ceilDiv n 32)] → long = isLong us → usesPass s.cur us →
      s.cur.deqFault m kd a b (turn s long 64 n).1 (turn s long 64 n).2 = none →
      (long = false → s.vecDone = 0) → (long = true → s.cur.stop = none ∧ s.vecDone < n ∧ s.vecDone % 64 = 0) →
      (long = true ∨ n ≤ 64 ∨ (apart s.cur d a false ∧ apart s.cur d b false)) →
      ∃ u, exec (.vdeq y m d a b) s = .next u ∧ u.cur.vEng.phase = turnPhase s long 64 1 n ∧ turnRest s u long ∧
        ∀ e, e < n → elem u.cur d 4 e =
          if inTurn s long 64 n e && s.cur.active m e then
            fmtFp32.encode .rne (mxValue kd (if mxBits kd = 4 then elem s.cur a 1 (e / 2) / 16 ^ (e % 2) % 16 else elem s.cur a 1 e)
              (elem s.cur b 1 (e / 32)))
          else elem s.cur d 4 e)) ∧
  (∀ (s : State) (y : Sync) (t : VType) (d a : Opd) (n busy : Nat) (j : Fin 16) (kd : MxKind) (qt : QTarget) (p : Fin 16),
    canonical s.cur → t = .fp32 ∨ t = .bf16 → d.isRow = true → a.isRow = true → n = s.cur.countOf a (8 * VType.size t) →
    busy = 2 * ceilDiv n (passWidth t) → s.cur.ursFault false [srcUse a t n] 0 n = none →
    let block := fun i => (List.range 32).map fun e => valueOf t (elem s.cur a (VType.size t) (32 * i + e))
    (usesPass s.cur [dstUse d .uint8 (n / 32) false, srcUse a t n] → n % 32 = 0 →
      ∃ u, exec (.vscl y t d a qt) s = .next u ∧ onceDone s u busy 1 ∧
        ∀ i, i < n / 32 → elem u.cur d 1 i = targetScale qt (block i) % 256) ∧
    (usesPass s.cur [{ opd := d, type := some .mx, kind := some kd, bits := mxBits kd, n := n, dest := true, reads := false },
        srcUse a t n] → n % 32 = 0 →
      ∃ u, exec (.vqnt y t d a kd j) s = .next u ∧ onceDone s u busy 1 ∧
        u.cur.patterns (.sof j) 1 0 (n / 32) = (List.range (n / 32)).map (fun i => (mxBlock kd (block i)).1 % 256) ∧
        (d ≠ .sof j → u.cur.patterns d 1 0 (n * mxBits kd / 8) =
          (packBits (mxBits kd) ((List.range (n / 32)).map fun i => (mxBlock kd (block i)).2).flatten).map (· % 256))) ∧
    (usesPass s.cur [dstUse d .uint8 (128 * (p.val + 1) * (n / 1024)) false, srcUse a t n] → n % 1024 = 0 →
      ∃ u, exec (.vqntPb y t d a p j) s = .next u ∧ onceDone s u busy 1 ∧
        u.cur.patterns (.sof j) 1 0 (n / 32) = (List.range (n / 32)).map (fun i => (planarRow (p.val + 1) (block i) false).1 % 256) ∧
        (d ≠ .sof j → ∀ b i r k, b < n / 1024 → i ≤ p.val → r < 32 → k < 32 →
          (elem u.cur d 4 (32 * ((p.val + 1) * b + i) + r)).testBit k =
            (wrapNat 16 ((planarRow (p.val + 1) (block (32 * b + r)) false).2.getD k 0)).testBit i)))

/-- Scratchpad, gathers and tiles (R172 to R177), for every state in which the checks pass: VLD and VST move the words of their
turn, VGATH and VSCAT the elements of their step at the offsets that their index names, VACC and VACW 1,024 elements between a
row and a tile; all under their mask. Deferral queues (R179 to R182), for every state in which the checks pass: VDEFER appends
the records of its selected elements to path p, in an empty queue slot after slot in order; VDRAIN takes the oldest full slot of
its path, or with final the open one, copies its records and sets the bits of its validity mask below the count, all clear where
there is no such slot. That a later step of VGATH and VSCAT reads its index row and data as earlier steps left them is deduced
(log 77). -/
def Obligations.VectorMovesAndDeferral : Prop :=
  (∀ (s : State) (y : Sync) (t : VType) (m : Bool) (d a : Opd) (off : BitVec 22) (n lo hi : Nat) (z : Fin 16) (x : Fin 32) (long : Bool),
    canonical s.cur → (long = false → s.vecDone = 0) → (long = true → s.cur.stop = none ∧ s.vecDone < n) →
    (n = s.cur.ldBytes d / 4 → off.toNat + 4 * n ≤ 2 ^ 22 → (turn s long 512 n) = (lo, hi) →
      (long = isLong [ldUse d n true] → usesPass s.cur [ldUse d n true] → s.cur.ldFault m off.toNat lo hi = none →
        ∃ u, exec (.vld y m d off) s = .next u ∧ u.cur.vEng.phase = turnPhase s long 512 1 n ∧ turnRest s u long ∧
          ∀ e, e < n → (u.cur.ldWords d e 1).headD 0 =
            if inTurn s long 512 n e && s.cur.active m e then getNat s.cur.spad (off.toNat + 4 * e) 4
            else (s.cur.ldWords d e 1).headD 0) ∧
      (long = isLong [ldUse d n false] → usesPass s.cur [ldUse d n false] → s.cur.ursFault m [ldUse d n false] lo hi = none →
        ∃ u, exec (.vst y m d off) s = .next u ∧ u.cur.vEng.phase = turnPhase s long 512 1 n ∧ u.mem = s.mem ∧ u.cur.urs = s.cur.urs ∧
          (∀ e, e < n → getNat u.cur.spad (off.toNat + 4 * e) 4 =
            if inTurn s long 512 n e && s.cur.active m e then (s.cur.ldWords d e 1).headD 0
            else getNat s.cur.spad (off.toNat + 4 * e) 4) ∧
          (∀ b, b < off.toNat ∨ off.toNat + 4 * n ≤ b → getByte u.cur.spad b = getByte s.cur.spad b))) ∧
    (n = s.cur.countOf d (8 * VType.size t) → long = true → turn s true (2048 / VType.size t) n = (lo, hi) → ∀ at_ : Nat → Nat,
      (∀ e, lo ≤ e → e < hi → s.cur.active m e = true →
        (at_ e : Int) = (s.cur.serir.z[z].toNat % 2 ^ 22 : Nat) + intOf .int32 (elem s.cur a 4 e) * VType.size t ∧
          at_ e + VType.size t ≤ 2 ^ 22 ∧ at_ e % VType.size t = 0) →
      (usesPass s.cur [dstUse d t n false, srcUse a .int32 n] → s.cur.ursFault m [srcUse a .int32 n] lo hi = none →
        (∀ e, lo ≤ e → e < hi → s.cur.active m e = true → s.cur.spadFault (at_ e) (VType.size t) = none) →
        ∃ u, exec (.vgath y t m d a z) s = .next u ∧ u.cur.vEng.phase = turnPhase s true (2048 / VType.size t) 1 n ∧
          u.cur.spad = s.cur.spad ∧ u.mem = s.mem ∧
          ∀ e, e < n → elem u.cur d (VType.size t) e =
            if inTurn s true (2048 / VType.size t) n e && s.cur.active m e then getNat s.cur.spad (at_ e) (VType.size t)
            else elem s.cur d (VType.size t) e) ∧
      (usesPass s.cur [srcUse d t n, srcUse a .int32 n] → s.cur.ursFault m [srcUse d t n, srcUse a .int32 n] lo hi = none →
        ∃ u, exec (.vscat y t m d a z) s = .next u ∧ u.cur.vEng.phase = turnPhase s true (2048 / VType.size t) 1 n ∧
          u.cur.urs = s.cur.urs ∧ u.mem = s.mem ∧
          (∀ e, lo ≤ e → e < hi → s.cur.active m e = true → (∀ g, e < g → g < hi → s.cur.active m g = true → at_ g ≠ at_ e) →
            getNat u.cur.spad (at_ e) (VType.size t) = elem s.cur d (VType.size t) e) ∧
          (∀ b, (∀ e, lo ≤ e → e < hi → s.cur.active m e = true → b < at_ e ∨ at_ e + VType.size t ≤ b) →
            getByte u.cur.spad b = getByte s.cur.spad b))) ∧
    (s.cur.tileFault x.val = none → s.cur.tiles[x].present = true → s.cur.tiles[x].busy = false →
      ((∃ v r, d = .row v r) → usesPass s.cur [dstUse d t 1024 false] → s.cur.invalidFault [tileRange x.val] = none →
        s.cur.ursBadAt (tileBase x.val) 64 (s.cur.actives m 0 1024) = none →
        ∃ u, exec (.vacc y t m d x) s = .next u ∧ onceDone s u 32 1 ∧
          ∀ e, e < 1024 → elem u.cur d (VType.size t) e =
            if s.cur.active m e then (vfmt t).encode .rne (accNum s.cur.tiles[x].anchor.toNat (BitVec.ofNat 64 (getNat s.cur.urs (tileBase x.val + 8 * e) 8)))
              % 2 ^ (8 * VType.size t)
            else elem s.cur d (VType.size t) e) ∧
      (usesPass s.cur [srcUse a .fp32 1024] → s.cur.ursFault m [srcUse a .fp32 1024] 0 1024 = none →
        ∃ u, exec (.vacw y m x a) s = .next u ∧ onceDone s u 32 1 ∧ u.cur.tiles[x].dirty = true ∧
          ∀ e, e < 1024 → BitVec.ofNat 64 (getNat u.cur.urs (tileBase x.val + 8 * e) 8) =
            if s.cur.active m e then (accOfNum s.cur.tiles[x].anchor.toNat (fmtFp32.decode (elem s.cur a 4 e))).1
            else BitVec.ofNat 64 (getNat s.cur.urs (tileBase x.val + 8 * e) 8)))) ∧
  (∀ (s : State) (y : Sync) (t : VType) (m f : Bool) (o : Opd) (n w c vals : Nat) (q p j : Fin 8) (v : Fin 4) (es : List Nat) (e : DeferQueue),
    canonical s.cur → vals = v.val + 1 → s.cur.serir.views[q].set = true → w = (s.cur.serir.views[q].len.toNat + 1) * 256 / VType.size t →
    c = (s.cur.serir.views[q].count.toNat + 1) / vals → (o.level ≤ 1) → o.sofSpan v.val = true → s.cur.liveCover o vals = none →
    (s.cur.serir.views[q].type = t → n = s.cur.countOf o (8 * VType.size t) → es = (List.range n).filter (fun i => s.cur.active m i) →
      s.cur.liveFault o vals n t false = none → s.cur.invalidFault (s.cur.liveRanges o vals (VType.size t) n) = none →
      (∀ r, r < vals → s.cur.liveBad o r (VType.size t) es = none) →
      (s.cur.serir.queues[q] = some e → e.type = t → e.values = vals → e.need p es.length ≤ e.slots.length - e.used →
        (∀ rows, (∀ r, r ∈ rows → r / vals ∈ e.slotsFor p es.length) → s.cur.queueCover q rows = none) →
        ∃ u, exec (.vdefer y t m q o v p) s = .next u ∧ onceDone s u (vals * ceilDiv n (passWidth t)) es.length ∧
          u.cur.serir.queues[q] = (let g := Nat.repeat (fun d => (d.append p).1) es.length e
            if g.used = 0 then none else some g)) ∧
      (s.cur.serir.queues[q] = none → ceilDiv es.length w ≤ c → 0 < es.length →
        (∀ rows, (∀ r, r ∈ rows → r / vals < ceilDiv es.length w) → s.cur.queueCover q rows = none) →
        ∃ u g, exec (.vdefer y t m q o v p) s = .next u ∧ onceDone s u (vals * ceilDiv n (passWidth t)) es.length ∧
          u.cur.serir.queues[q] = some g ∧ g.type = t ∧ g.values = vals ∧ g.width = w ∧ g.slots.length = c ∧ g.head = 0 ∧
          g.used = ceilDiv es.length w ∧ g.tail = ceilDiv es.length w % c ∧
          (∀ i, i < es.length / w → g.slots[i]? = some (.full p)) ∧
          (es.length % w ≠ 0 → g.slots[es.length / w]? = some (.open_ p (es.length % w))) ∧
          ∀ i r, i < es.length → r < vals →
            getNat u.cur.urs (s.cur.queueRow q (i / w * vals + r) + i % w * VType.size t) (VType.size t) =
              (s.cur.livePatterns o r (VType.size t) n).getD (es.getD i 0) 0)) ∧
    (s.cur.liveFault o vals w t true = none →
      ((s.cur.serir.queues[q] = none ∨ (s.cur.serir.queues[q] = some e ∧ e.type = t ∧ e.values = vals ∧ e.pick p f = none)) →
        ∃ u, exec (.vdrain y t o q v p f j) s = .next u ∧ onceDone s u (vals * ceilDiv w (passWidth t)) 0 ∧
          u.cur.serir.queues = s.cur.serir.queues ∧ u.cur.urs = s.cur.urs ∧ u.cur.sof = s.cur.sof ∧ u.cur.serir.masks[j] = 0) ∧
      (∀ i k, s.cur.serir.queues[q] = some e → e.type = t → e.values = vals → e.pick p f = some (i, k) → k ≤ w →
        s.cur.queueCover q ((List.range vals).map (i * vals + ·)) = none →
        (∀ rs, rs = (List.range vals).map (fun r => (s.cur.queueRow q (i * vals + r), k * VType.size t)) →
          s.cur.invalidFault rs = none ∧ s.cur.badRange rs = none) →
        ∃ u, exec (.vdrain y t o q v p f j) s = .next u ∧ onceDone s u (vals * ceilDiv w (passWidth t)) k ∧
          (∀ b, b < 16384 → (u.cur.serir.masks[j]).getLsbD b = decide (b < k)) ∧
          (e.used = 1 → e.head = i → u.cur.serir.queues[q] = none) ∧
          u.cur.serir.queues[q] = (let g := DeferQueue.retire e.slots.length { e with slots := setAt e.slots i .drained }
            if g.used = 0 then none else some g) ∧
          ∀ b r, b < k → r < vals → (u.cur.livePatterns o r (VType.size t) k).getD b 0 =
            getNat s.cur.urs (s.cur.queueRow q (i * vals + r) + b * VType.size t) (VType.size t))))

/-! ## Erg -/

namespace Sys2Proof.Claim

/-- Element (m, n) of a tile, as its word (R77). -/
def tileElem (k : Core) (x : Fin 32) (m n : Nat) : W64 := BitVec.ofNat 64 (getNat k.urs (elemAddr x.val m n) 8)

/-- Bit k of the rows of planes ps as a two's complement number (R96, R100). -/
def planeInt (ps : List Nat) (k : Nat) : Int :=
  ((List.range ps.length).map fun i =>
    if (ps.getD i 0).testBit k then (if i + 1 = ps.length then -((2 ^ i : Nat) : Int) else ((2 ^ i : Nat) : Int)) else 0).sum

/-- A row of a block: the words of its top planes, and its scale. -/
structure BRow where
  planes : List Nat
  scale : Nat

/-- Row m of the block at offset off of the scratchpad, of precision p, at p' planes (R82, R188). -/
def spadRow (k : Core) (off p p' m : Nat) : BRow :=
  ⟨(List.range p').map fun i => getNat k.spad (off + 128 * (p - p' + i) + 4 * m) 4, (getByte k.spad (off + 128 * p + m)).toNat⟩

/-- Row m of array r: from the plane latches, or from the block that a load brings (R185, R189). -/
def arrayRow (k : Core) (load : Option Nat) (r m : Nat) : BRow :=
  let p := k.declared.1
  let p' := k.effective.1
  match load with
  | some off => spadRow k (off + blockSize p * r) p p' m
  | none =>
    ⟨(List.range p').map fun i => getNat k.erg.planes (2080 * r + 128 * (p - p' + i) + 4 * m) 4,
     (getByte k.erg.planes (2080 * r + 2048 + m)).toNat⟩

/-- Element (m, n) of tile x after a step with array r and the B block at boff (R190): its word and SAT. -/
def stepped (k : Core) (load : Option Nat) (boff : Nat) (clr : Bool) (r : Nat) (x : Fin 32) (m n : Nat) : W64 × Bool :=
  let a := arrayRow k load r m
  let b := spadRow k boff k.declared.2 k.effective.2 n
  stepElem k.tiles[x].anchor.toNat (if clr then 0 else tileElem k x m n) a.planes b.planes a.scale b.scale

/-- Every tile after a step over arrays: tile first + r takes the products of array r; the others stay (R190). -/
def steppedTiles (s u : State) (load : Option Nat) (boff : Nat) (clr : Bool) (first : Nat) (arrays : List Nat) : Prop :=
  (∀ (r : Nat) (x : Fin 32), r ∈ arrays → x.val = first + r →
    (∀ m n, m < 32 → n < 32 → tileElem u.cur x m n = (stepped s.cur load boff clr r x m n).1) ∧
    u.cur.tiles[x].dirty = true ∧ u.cur.tiles[x].anchor = s.cur.tiles[x].anchor ∧
    (u.cur.tiles[x].sat = true ↔ (clr = false ∧ s.cur.tiles[x].sat = true) ∨
      ∃ m n, m < 32 ∧ n < 32 ∧ (stepped s.cur load boff clr r x m n).2 = true) ∧
    (u.cur.tiles[x].pois = true ↔ (clr = false ∧ s.cur.tiles[x].pois = true) ∨
      ∃ m n, m < 32 ∧ n < 32 ∧ accPoison (stepped s.cur load boff clr r x m n).1 = true) ∧
    (∀ i, i < 32 → u.cur.valid.getLsbD (512 + 32 * x.val + i) = true)) ∧
  (∀ x : Fin 32, (∀ r, r ∈ arrays → x.val ≠ first + r) →
    u.cur.tiles[x] = s.cur.tiles[x] ∧ ∀ m n, m < 32 → n < 32 → tileElem u.cur x m n = tileElem s.cur x m n)

/-- A state of the M stream changed nothing else: sequencers, other engines, Serir, the scratchpad, memory, the other cores. -/
def ergRest (s t : State) : Prop :=
  (∀ q, t.cur.seq q = s.cur.seq q) ∧ (∀ e, e ≠ .m → t.cur.eng e = s.cur.eng e) ∧ t.cur.serir = s.cur.serir ∧
  t.cur.spad = s.cur.spad ∧ t.mem = s.mem ∧ (∀ c, c ≠ s.core → t.coreAt c = s.coreAt c)

/-- A command tile by tile, where no tile fails: the state after and the bytes. -/
def eachOk (f : State → Fin 32 → Except EFault (State × Nat)) : List Nat → State → Option (State × Nat)
  | [], s => some (s, 0)
  | n :: r, s => match f s (Fin.ofNat 32 n) with
    | .error _ => none
    | .ok (t, b) => (eachOk f r t).map fun p => (p.1, b + p.2)

/-- Element (i, j) of the state of a group, with its anchor (R207). -/
def groupElem (k : Core) (first dim i j : Nat) : W64 × Nat :=
  let x : Fin 32 := Fin.ofNat 32 (first + dim / 32 * (i / 32) + j / 32)
  (tileElem k x (i % 32) (j % 32), k.tiles[x].anchor.toNat)

/-- An output element of R208 from row i of the state and q. -/
def queryElem (k : Core) (first dim : Nat) (qs : List Nat) (i : Nat) : Nat :=
  if qs.any (fun x => (fmtFp32.decode x).isNan) then 0x7FC00000
  else match rowsum ((List.range dim).map (groupElem k first dim i)) (qs.map q2) with
    | none => 0x7FC00000
    | some x => fmtFp32.encode .rne x

end Sys2Proof.Claim

/-- The block product (R100, R101): the plane sum is the exact inner product of the rows read as two's complement numbers; a
contribution is added exactly, clamped at the extremes with SAT, an extreme absorbs, opposite extremes and NaN scales poison. -/
def Obligations.BlockProductExact : Prop :=
  (∀ as bs : List Nat, planeSum as bs = ((List.range 32).map fun k => planeInt as k * planeInt bs k).sum) ∧
  (∀ w : W64, accPoison (accAdd w none).1 = true ∧ accQ (accAdd w none).1 = accQ w) ∧
  (∀ (w : W64) (c : Int) (sat : Bool),
    ((accQ w = accMax ∧ c = -accMax) ∨ (accQ w = -accMax ∧ c = accMax) →
      accPoison (accAdd w (some (c, sat))).1 = true ∧ accQ (accAdd w (some (c, sat))).1 = accQ w) ∧
    ((accQ w = accMax ∧ c ≠ -accMax) ∨ (accQ w = -accMax ∧ c ≠ accMax) → accAdd w (some (c, sat)) = (w, sat)) ∧
    (accQ w ≠ accMax → accQ w ≠ -accMax → accPoison (accAdd w (some (c, sat))).1 = accPoison w ∧
      (c = accMax ∨ c = -accMax → accQ (accAdd w (some (c, sat))).1 = c ∧ (accAdd w (some (c, sat))).2 = sat) ∧
      (c ≠ accMax → c ≠ -accMax → accQ (accAdd w (some (c, sat))).1 = max (-accMax) (min accMax (accQ w + c)) ∧
        (accAdd w (some (c, sat))).2 = (sat || decide (accQ w + c < -accMax) || decide (accMax < accQ w + c)))))

/-- MPREC, MLDA and MNEST (R187, R189, R193): a precision is declared with no array loaded; blocks go into arrays, plane by
plane; a nest that its checks admit becomes the shadow set. -/
def Obligations.ErgLoadsBlocks : Prop :=
  ∀ (s : State) (y : Sync) (pa pb first count : Fin 16) (off : BitVec 22), Memory.wf s.cur.erg.planes = true →
    (∃ u, exec (.mprec y pa pb) s = .next u ∧ u.cur.erg = { s.cur.erg with pa := pa, pb := pb, loaded := 0, laValid := false } ∧
      u.cur.mEng.phase = .done 1 1 0 1 ∧ ergRest s u ∧ u.cur.urs = s.cur.urs) ∧
    (first.val + count.val < 16 → off.toNat + 128 * (s.cur.erg.pa.val + 2) * (count.val + 1) ≤ 2 ^ 22 →
      s.cur.spadFault off.toNat (128 * (s.cur.erg.pa.val + 2) * (count.val + 1)) = none →
      ∃ u, exec (.mlda y off first count) s = .next u ∧ ergRest s u ∧ u.cur.urs = s.cur.urs ∧ u.cur.erg.laValid = false ∧
        u.cur.mEng.phase = .done (2 + ((count.val + 1) * (s.cur.erg.pa.val + 2) + 15) / 16)
          (2 + ((count.val + 1) * (s.cur.erg.pa.val + 2) + 15) / 16) 0 1 ∧
        (∀ r, r < 16 → u.cur.erg.loaded.getLsbD r = (s.cur.erg.loaded.getLsbD r || (decide (first.val ≤ r) && decide (r ≤ first.val + count.val)))) ∧
        (∀ j x, j ≤ count.val → x < 128 * (s.cur.erg.pa.val + 1) →
          getByte u.cur.erg.planes (2080 * (first.val + j) + x) = getByte s.cur.spad (off.toNat + 128 * (s.cur.erg.pa.val + 2) * j + x)) ∧
        (∀ j m, j ≤ count.val → m < 32 → getByte u.cur.erg.planes (2080 * (first.val + j) + 2048 + m) =
          getByte s.cur.spad (off.toNat + 128 * (s.cur.erg.pa.val + 2) * j + 128 * (s.cur.erg.pa.val + 1) + m)) ∧
        (∀ x, x < 2080 * first.val ∨ 2080 * (first.val + count.val + 1) ≤ x → getByte u.cur.erg.planes x = getByte s.cur.erg.planes x)) ∧
    (2 ^ 22 < off.toNat + 128 * (s.cur.erg.pa.val + 2) * (count.val + 1) →
      exec (.mlda y off first count) s = .next (s.failErg ⟨0x05, 0, infoOf (localVa (2 ^ 22 : Nat))⟩)) ∧
    (s.cur.spadFault off.toNat 256 = none → s.cur.nestFault (getBytes s.cur.spad off.toNat 256) = none →
      ∃ u, exec (.mnest y off) s = .next u ∧ u.cur.erg = { s.cur.erg with shadow := { bytes := getBytes s.cur.spad off.toNat 256, valid := true } } ∧
        u.cur.mEng.phase = .done 4 4 0 1 ∧ ergRest s u ∧ u.cur.urs = s.cur.urs)

/-- MSTEP, MCLR and MANCH (R190, R191, R196, R197): on tiles that the unit owns and that are present, every element takes what
R100 to R102 give it, the tile's row of the ownership table follows, and every other tile stays. -/
def Obligations.ErgStepsTiles : Prop :=
  ∀ (s : State) (y : Sync) (off : BitVec 22) (f c : Fin 32) (clr : Bool) (an : BitVec 8) (ns : List Nat), canonical s.cur →
    (∀ n, n ∈ ns → n < 32) → s.cur.tileFaults ns = none → s.cur.anyAbsent ns = false →
    (ns = s.cur.loadedArrays.map (fun r => f.val + r) → off.toNat + blockSize s.cur.declared.2 ≤ 2 ^ 22 →
      s.cur.stepFault ns clr off.toNat = none →
      ∃ u, exec (.mstep y off f clr) s = .next u ∧ ergRest s u ∧ steppedTiles s u none off.toNat clr f.val s.cur.loadedArrays ∧
        u.cur.mEng.phase = .done (s.cur.effective.1 * s.cur.effective.2 + 4) (s.cur.declared.1 * s.cur.declared.2 + 4) 0 1) ∧
    (ns = (List.range (c.val + 1)).map (fun i => f.val + i) →
      (∃ u, exec (.mclr y f c an) s = .next u ∧ ergRest s u ∧ u.cur.mEng.phase = .done (4 * (c.val + 1)) (4 * (c.val + 1)) 0 1 ∧
        ∀ x : Fin 32, if x.val ∈ ns then
            u.cur.tiles[x] = { s.cur.tiles[x] with anchor := an, sat := false, pois := false, dirty := true } ∧
            (∀ m n, m < 32 → n < 32 → tileElem u.cur x m n = 0) ∧
            (∀ i, i < 32 → u.cur.valid.getLsbD (512 + 32 * x.val + i) = true)
          else u.cur.tiles[x] = s.cur.tiles[x] ∧ ∀ m n, m < 32 → n < 32 → tileElem u.cur x m n = tileElem s.cur x m n) ∧
      (s.cur.tileReadFault ns = none →
        ∃ u, exec (.manch y f c an) s = .next u ∧ ergRest s u ∧ u.cur.mEng.phase = .done (8 * (c.val + 1)) (8 * (c.val + 1)) 0 1 ∧
        ∀ x : Fin 32, if x.val ∈ ns then
            u.cur.tiles[x].anchor = an ∧ u.cur.tiles[x].dirty = true ∧ u.cur.tiles[x].pois = s.cur.tiles[x].pois ∧
            (u.cur.tiles[x].sat = true ↔ s.cur.tiles[x].sat = true ∨ ∃ m n, m < 32 ∧ n < 32 ∧
              (accReanchor (tileElem s.cur x m n) s.cur.tiles[x].anchor.toNat an.toNat).2 = true) ∧
            (∀ m n, m < 32 → n < 32 →
              tileElem u.cur x m n = (accReanchor (tileElem s.cur x m n) s.cur.tiles[x].anchor.toNat an.toNat).1)
          else u.cur.tiles[x] = s.cur.tiles[x] ∧ ∀ m n, m < 32 → n < 32 → tileElem u.cur x m n = tileElem s.cur x m n))

/-- MGO and its steps (R24, R194, R195): the sets are swapped, and without an active one the entry is done; a step loads the
arrays when LA names another set, runs as MSTEP on its B block and first tile, is charged, posts its event, and stands at the
next index; the first clears the valid bit of the shadow set, or, where its tiles leave the table, swaps the sets back and is
not started. The index of a nest step (log 29) and what a check that fails at the first step leaves (log 92) are the model's
readings. -/
def Obligations.ErgNestsStep : Prop :=
  (∀ (s : State) (y : Sync), s.cur.stop = none →
    ∃ u, exec (.mgo y) s = .next u ∧ u.cur.erg = { s.cur.erg with
        active := s.cur.erg.shadow, shadow := { s.cur.erg.active with valid := s.cur.erg.active.valid && s.cur.erg.shadow.valid } } ∧
      u.cur.mEng.phase = (if s.cur.erg.shadow.valid = false then .done 4 4 0 1 else .running (.nest [0, 0, 0, 0, 0, 0] 0 false)) ∧
      ergRest s u ∧ u.cur.urs = s.cur.urs) ∧
  (∀ (s : State) (bs : List Byte) (n : Nest) (counts idx : List Nat) (z aoff boff t0 : Nat) (load : Bool) (ns : List Nat) (x : Nat),
    s.cur.mEng.phase = .running (.nest idx z false) → s.cur.erg.active = { bytes := bs, valid := true } → n = parseNest bs → s.cur.stop = none →
    canonical s.cur → Memory.wf s.cur.erg.planes = true → counts = n.levels.map (·.count) → nestOver counts idx = false → n.na ≤ 16 →
    (aoff : Int) = n.at_ n.abase (·.astr) idx → (boff : Int) = n.at_ n.bbase (·.bstr) idx → (t0 : Int) = n.at_ n.tbase (·.tstr) idx →
    t0 + n.na ≤ s.cur.tileCount → s.cur.tileCount ≤ 32 → aoff + blockSize s.cur.declared.1 * n.na ≤ 2 ^ 22 →
    boff + blockSize s.cur.declared.2 ≤ 2 ^ 22 → load = (s.cur.erg.nestA != some (BitVec.ofNat 22 aoff)) →
    ns = (List.range n.na).map (fun i => t0 + i) → s.cur.tileFaults ns = none → s.cur.anyAbsent ns = false →
    (load = true → s.cur.spadFault aoff (blockSize s.cur.declared.1 * n.na) = none) →
    s.cur.stepFault ns (n.clears idx) boff = none →
    (∀ e, n.ev = some e → n.posts idx = true → s.waitsOf s.core e = [] ∧ e.val < 48 ∧ (s.semCount s.core e).toNat < 65535) →
    x = (if idx.all (· == 0) then 4 else 0) + (if load then (n.na * (s.cur.declared.1 + 1) + 15) / 16 else 0) →
    ∃ u, exec .mgoStep s = .next u ∧
      steppedTiles s u (if load then some aoff else none) boff (n.clears idx) t0 (List.range n.na) ∧
      u.cur.mEng.phase = (if nestOver counts (nextIndex idx counts) then .done 0 0 0 1 else .running (.nest (nextIndex idx counts) 0 false)) ∧
      u.cur.erg.nestA = some (BitVec.ofNat 22 aoff) ∧ u.cur.erg.active = s.cur.erg.active ∧
      u.cur.erg.shadow = { s.cur.erg.shadow with valid := s.cur.erg.shadow.valid && !(idx.all (· == 0)) } ∧
      (∀ r, r < 16 → u.cur.erg.loaded.getLsbD r = if load then decide (r < n.na) else s.cur.erg.loaded.getLsbD r) ∧
      u.cur.sys.budi = chargeBudget 48 s.cur.sys.budi (s.cur.effective.1 * s.cur.effective.2 + x) ∧
      (∀ e, n.ev = some e → n.posts idx = true → (u.semCount s.core e).toNat = (s.semCount s.core e).toNat + 1) ∧
      u.cur.spad = s.cur.spad ∧ u.mem = s.mem ∧ (∀ q, u.cur.seq q = s.cur.seq q)) ∧
  (∀ (s : State) (bs : List Byte) (n : Nest) (z : Nat), s.cur.mEng.phase = .running (.nest [0, 0, 0, 0, 0, 0] z false) →
    s.cur.erg.active = { bytes := bs, valid := true } → n = parseNest bs → nestOver (n.levels.map (·.count)) [0, 0, 0, 0, 0, 0] = false →
    s.cur.tileCount < n.tbase + n.na →
    exec .mgoStep s = .next ((s.modCore s.core fun k => { k with erg := { k.erg with active := k.erg.shadow, shadow := k.erg.active } }).failCmd
      s.core .m ⟨0x0C, 2, BitVec.ofNat 64 (n.tbase % 32)⟩))

/-- Pins, spills and fills (R198 to R202, R204 to R206): the commands act tile by tile; what each does to a tile; and a slot
written in the main format reads back as a valid slot with the tile's words. -/
def Obligations.ErgPinsSpillsFills : Prop :=
  ∀ (s : State) (y : Sync) (f c n : Fin 32) (key : BitVec 16) (fb : Bool) (ns : List Nat) (u : State) (b : Nat),
    (ns = (List.range (c.val + 1)).map (fun i => f.val + i) → s.cur.tileFaults ns = none → s.cur.anyAbsent ns = false →
      (eachOk (fun t x => t.pin x key) ns (s.irreversible s.core) = some (u, b) →
        exec (.mpin y f c key) s = .next (u.ergDone 2 2 b)) ∧
      (eachOk State.unpinTile ns (s.irreversible s.core) = some (u, b) → exec (.munpin y f c) s = .next (u.ergDone 2 2 b)) ∧
      (s.cur.tileReadFault ns = none → eachOk (State.spillTile fb) ns (s.irreversible s.core) = some (u, b) →
        exec (.mspill y f c fb) s = .next (u.ergDone (16 * (c.val + 1)) (16 * (c.val + 1)) b)) ∧
      (eachOk State.refill ns s = some (u, b) →
        exec (.mfill y f c) s = .next (u.ergDone (16 * (c.val + 1)) (16 * (c.val + 1)) b))) ∧
    (s.cur.tiles[n].pinned = true → s.cur.tiles[n].key = key → s.pin n key = .ok (s, 0)) ∧
    (∀ (x : Ctx) (r : Option SlotImage), s.cur.tiles[n].pinned = false → s.ctx s.myCtx = some x →
      s.readSlot s.myCtx (pinSlot x.pinbase key n.val) n.val (some key) = .ok r →
      ∃ t, s.pin n key = .ok (t, 64) ∧ t.mem = s.mem ∧ t.cur.urs = s.cur.urs ∧
        t.cur.tiles[n] = { s.cur.tiles[n] with
          pinned := true, key := key, owner := BitVec.ofNat 12 s.myCtx, spilla := pinSlot x.pinbase key n.val,
          present := s.cur.tiles[n].present && r.isNone, dirty := s.cur.tiles[n].dirty || r.isNone } ∧
        ∀ x : Fin 32, x ≠ n → t.cur.tiles[x] = s.cur.tiles[x]) ∧
    (∀ t : State, s.cur.tiles[n].pinned = true → s.slotWrite false s.cur.tiles[n].owner.toNat s.cur.tiles[n].spilla [0, 0] = .ok t →
      ∃ v, s.unpinTile n = .ok (v, 2) ∧ v.mem = t.mem ∧ v.cur.tiles[n] = { t.cur.tiles[n] with pinned := false, key := 0 }) ∧
    (s.cur.tiles[n].pinned = false → s.unpinTile n = .ok (s, 0)) ∧
    (∀ (slot : A80) (s1 t : State), slot = (if s.cur.tiles[n].pinned then s.cur.tiles[n].spilla else s.areaSlot n.val) →
      s1 = s.modCur (fun k => k.modTile n fun x => { x with spilla := slot }) →
      s1.slotWrite false s.cur.tiles[n].owner.toNat slot (s1.cur.slotBytes n fb s.cur.mEng.seqno) = .ok t →
      ∃ v, s.spillTile fb n = .ok (v, if fb then 4224 else 8320) ∧ v.mem = t.mem ∧ v.cur.tiles[n] = { t.cur.tiles[n] with dirty := false }) ∧
    (∀ i : SlotImage, s.readSlot s.cur.tiles[n].owner.toNat s.cur.tiles[n].spilla n.val
        (if s.cur.tiles[n].pinned then some s.cur.tiles[n].key else none) = .ok (some i) →
      s.refill n = .ok (s.modCur (fun k => k.fillTile n i), if i.fallback then 4224 else 8320)) ∧
    (s.cur.unit.isSome = true → s.cur.stop = none → s.cur.tiles[n].present = false → s.fillSlot s.core n = .ok u →
      exec (.tileFill s.core n) s = .next u) ∧
    (∀ (k : Core) (i : SlotImage), Memory.wf k.urs = true →
      (i.fallback = false → i.image.length = 8192 →
        (k.fillTile n i).tiles[n] = { k.tiles[n] with
          anchor := i.anchor, sat := i.sat, pois := i.pois, dirty := false, present := true, filling := false } ∧
        ∀ m j, m < 32 → j < 32 → tileElem (k.fillTile n i) n m j = BitVec.ofNat 64 (fieldNat i.image (256 * m + 8 * j) 8)) ∧
      (i.fallback = true → i.image.length = 4096 → ∀ m j, m < 32 → j < 32 →
        tileElem (k.fillTile n i) n m j =
          (accOfNum i.anchor.toNat (fmtFp32.decode (fieldNat i.image (128 * m + 4 * j) 4))).1)) ∧
    (∀ (k : Core) (q : BitVec 48), (k.slotBytes n false q).length = 8320 ∧ fieldNat (k.slotBytes n false q) 0 2 = 1 ∧
      headerOk ((k.slotBytes n false q).take 64) n.val k.tiles[n].owner.toNat
        (if k.tiles[n].pinned then some k.tiles[n].key else none) = true ∧
      (crc32c ((k.slotBytes n false q).take 60 ++ (k.slotBytes n false q).drop 128)).toNat = fieldNat (k.slotBytes n false q) 0x3C 4 ∧
      ∀ m j, m < 32 → j < 32 → BitVec.ofNat 64 (fieldNat (k.slotBytes n false q) (128 + 256 * m + 8 * j) 8) = tileElem k n m j)

/-- MDELTA, its tokens and MQUERY (R207 to R210): the group is held busy; a token updates every element of S by the row's w, or
poisons, and writes o from the state after it; MQUERY writes o from the state as it stands, its operands under the views as they
were at its start (R78). That the descriptor is read at each token as it then stands is deduced (log 62), as is what a fault at
token 0 leaves (log 93). -/
def Obligations.ErgDeltaRule : Prop :=
  ∀ (s : State) (y : Sync) (first : Fin 32) (d : Fin 4) (c : Fin 64) (off : BitVec 22) (dim : Nat) (ns : List Nat) (dst q : Opd) (t : Nat),
    canonical s.cur → s.cur.noBad = true → s.cur.stop = none → dim = 32 * (d.val + 1) →
    ns = (List.range ((d.val + 1) * (d.val + 1))).map (fun i => first.val + i) → (∀ n, n ∈ ns → n < 32) →
    s.cur.tileFaults ns = none → s.cur.anyAbsent ns = false →
    (∀ (bs : List Byte) (desc : TokenDesc), bs = getBytes s.cur.spad off.toNat 64 → desc = parseToken bs → s.cur.spadFault off.toNat 64 = none →
      s.cur.tokenFault bs dim (c.val + 1) = none →
      (s.cur.tokenInvalid desc dim (c.val + 1) 0 ns = none →
        ∃ u, exec (.mdelta y first d c off) s = .next u ∧ u.cur.mEng.phase = .running (.tokens 0) ∧ ergRest s u ∧ u.cur.urs = s.cur.urs ∧
          ∀ x : Fin 32, u.cur.tiles[x] = { s.cur.tiles[x] with busy := s.cur.tiles[x].busy || decide (x.val ∈ ns) }) ∧
      (∀ (h : Head) (ks vs qs : List Nat) (al be : Nat) (nan : Bool) (kf : List Int),
        s.cur.mEng.phase = .running (.tokens t) → s.cur.mEng.head = some h → decodeCmd .m h.word.toNat = .ok (.mdelta y first d c off) →
        t ≤ c.val → s.cur.tokenInvalid desc dim (c.val + 1) t ns = none → ks = s.cur.ursRow (desc.row 0 t) dim →
        vs = s.cur.ursRow (desc.row 1 t) dim → qs = s.cur.ursRow (desc.row 2 t) dim → al = getNat s.cur.urs (desc.alpha + 4 * t) 4 →
        be = getNat s.cur.urs (desc.beta + 4 * t) 4 → nan = (ks ++ vs ++ [al, be]).any (fun x => (fmtFp32.decode x).isNan) → kf = ks.map q2 →
        ∃ u, exec .mdeltaToken s = .next u ∧
          u.cur.mEng.phase = (if t = c.val then .done 0 0 0 1 else .running (.tokens (t + 1))) ∧
          u.cur.sys.budi = chargeBudget 48 s.cur.sys.budi (4 * (d.val + 1) ^ 2 + 8 + if t = 0 then 4 else 0) ∧
          (∀ i j, i < dim → j < dim → (groupElem u.cur first.val dim i j).1 =
            (if nan then accWord true (accQ (groupElem s.cur first.val dim i j).1)
            else (tokenElem s.cur.tiles[first].anchor.toNat (groupElem s.cur first.val dim i j)
              (tokenRow s.cur.tiles[first].anchor.toNat ((List.range dim).map (groupElem s.cur first.val dim i)) kf (vs.getD i 0)
                (q2 al) (q2 be)).1 (q2 al) (kf.getD j 0)).1)) ∧
          (∀ x : Fin 32, x.val ∈ ns → u.cur.tiles[x].dirty = true ∧ u.cur.tiles[x].busy = decide (t < c.val) ∧
            u.cur.tiles[x].anchor = s.cur.tiles[x].anchor) ∧
          (desc.out = true → ∀ i, i < dim → getNat u.cur.urs (desc.row 3 t + 4 * i) 4 = queryElem u.cur first.val dim qs i))) ∧
    (dst.isRow = true ∨ (∃ j, dst = .sof j) → ∀ k, k = s.cur.withViews s.cur.mEng.views →
      k.useFault .m [dstUse dst .fp32 dim false, srcUse q .fp32 dim] = none →
      k.coverFault [dstUse dst .fp32 dim false, srcUse q .fp32 dim] = none →
      k.invalidFault (ns.map tileRange ++ ([dstUse dst .fp32 dim false, srcUse q .fp32 dim].map k.readRange).flatten) = none →
      ∃ u, exec (.mquery y first d dst q) s = .next u ∧ u.cur.mEng.phase = .done ((d.val + 1) ^ 2 + 6) ((d.val + 1) ^ 2 + 6) 0 1 ∧ ergRest s u ∧
        (∀ e, e < dim → elem (u.cur.withViews s.cur.mEng.views) dst 4 e = queryElem s.cur first.val dim (k.patterns q 4 0 dim) e) ∧
        u.cur.tiles = s.cur.tiles ∧ ∀ i j, i < dim → j < dim → groupElem u.cur first.val dim i j = groupElem s.cur first.val dim i j)

/-! ## Wadi -/

namespace Sys2Proof.Claim

/-- The bytes of parts, in transfer order. -/
def bytesOf (s : State) (ps : List (List Part)) : List Byte := (ps.flatten.map s.partBytes).flatten

/-- Runs whose addresses pass every check of R221 and lie in the cluster and in memory, with no byte written twice, no watchpoint
armed, nothing under way that was translated through a table entry among the destinations (R296), every source byte with one value
(R240, R290), and the writes not left for later (R242): their parts are sp and dp. -/
def localMove (s : State) (srcs dsts : List Run) (reads : Bool) (sp dp : List (List Part)) : Prop :=
  s.checkRuns s.core false true srcs = (sp, none) ∧ s.checkRuns s.core true reads dsts = (dp, none) ∧
  anyRemote sp.flatten = false ∧ anyRemote dp.flatten = false ∧ dp.flatten.Pairwise (fun p q => p.meets q = false) ∧
  (∀ d, (s.die d).watch = []) ∧ Memory.wf s.mem = true ∧ (∀ c, Memory.wf (s.coreAt c).spad = true) ∧
  (s.cur.eng s.copyEng).chunks = [] ∧ (s.cur.eng s.copyEng).lag = false ∧ untouched s (physRanges dp.flatten) ∧
  ∀ p, p ∈ sp.flatten → p.place = .phys → oneValue s none (s.tenOf 10 (s.ctxOf s.core) p.va.toNat) p.addr p.len

/-- Only bytes of the parts have changed, and nothing of the sequencers and the other engines. -/
def onlyIn (s u : State) (dp : List (List Part)) : Prop :=
  (∀ c a, (∀ p, p ∈ dp.flatten → p.place = .spad c → a < p.addr ∨ p.addr + p.len ≤ a) →
    getByte (u.coreAt c).spad a = getByte (s.coreAt c).spad a) ∧
  (∀ a, (∀ p, p ∈ dp.flatten → p.place = .phys → a < p.addr ∨ p.addr + p.len ≤ a) → getByte u.mem a = getByte s.mem a) ∧
  (∀ q, u.cur.seq q = s.cur.seq q) ∧ (∀ f, f ≠ s.copyEng → u.cur.eng f = s.cur.eng f) ∧ u.cur.urs = s.cur.urs

/-- What the bytes of a destination become (R218, R219): those of the source, the pattern of a fill from position lo on, or
element by element the reduction with what was there. -/
def copied (kind : CopyKind) (lo n : Nat) (src old : List Byte) : List Byte :=
  match kind with
  | .copy => src
  | .fill pat => (List.range n).map fun i => pat.getD ((lo + i) % 8) 0
  | .reduce op ty => ((List.range (n / redSize ty)).map fun i =>
      leBytes (redSize ty) (redElem op ty (fieldNat old (redSize ty * i) (redSize ty)) (fieldNat src (redSize ty * i) (redSize ty)))).flatten

/-- Cycles per line: a reduction takes two (R233). -/
def lineCost (kind : CopyKind) : Nat := match kind with | .reduce _ _ => 2 | _ => 1

/-- The bytes of a dense row segment, and of its scale (R227). -/
def segBytes (s u : State) (d : PackDesc) (need : Perm) (g : Seg) : List Byte :=
  (((s.runParts s.core (d.segRun need g 0)).1).map u.partBytes).flatten

/-- The value of logical element (i, k) of a dense matrix, zero outside it (R227, R228). -/
def logical (s : State) (d : PackDesc) (i k : Nat) : Machine.Num :=
  if i < d.rows ∧ k < d.cols then
    let r := if d.trans then k else i
    let c := if d.trans then i else k
    let g : Seg := { row := r, col := 32 * (c / 32), n := min 32 ((if d.trans then d.rows else d.cols) - 32 * (c / 32)) }
    d.value (packedAt d.bits (segBytes s s d 1 g) (c % 32))
      (if d.mtype = 7 then leNat (((s.runParts s.core (d.sclRun g 0)).1).map s.partBytes).flatten else 0)
  else .ofInt 0

end Sys2Proof.Claim

/-- CCOPY, CRED and CFILL (R214 to R219, R221, R233): a transfer that its checks admit writes its destination runs and nothing
else, and is done with its busy cycles and bytes; the first check that fails is the entry's fault, with nothing written. That an
engine writes at once or octet by octet is the agenda's, the model's choice (log 11). -/
def Obligations.CopyTransfersMove : Prop :=
  ∀ (s : State) (y : Sync) (off : BitVec 22) (op : RedOp) (ty : RedType) (bs : List Byte) (i : Instr) (kind : CopyKind) (rsv : Bool)
    (d : CopyDesc) (sp dp : List (List Part)),
    (i, kind, rsv) ∈ [(Instr.ccopy y off, CopyKind.copy, copyReserved bs), (.cred y off op ty, .reduce op ty, copyReserved bs),
      (.cfill y off, .fill (bs.take 8), copyReserved bs && fillReserved bs)] →
    (s.cur.eng s.copyEng).tmpl = [] → s.cur.spadFault off.toNat 64 = none → bs = getBytes s.cur.spad off.toNat 64 → d = parseCopy bs kind →
    (∀ f, s.cur.copyFault s.copyEng rsv d 65536 = some f → exec i s = .next (s.failCmd s.core s.copyEng f)) ∧
    (s.cur.copyFault s.copyEng rsv d 65536 = none →
      localMove s (d.srcRuns 0 d.size) (d.dstRuns 0 d.size) d.red.isSome sp dp → overlaps sp.flatten dp.flatten = false →
      ∃ u, exec i s = .next u ∧ onlyIn s u dp ∧
        bytesOf u dp = copied kind 0 d.size (bytesOf s sp) (bytesOf s dp) ∧
        (u.cur.eng s.copyEng).phase = .done (8 + lineCost kind * ((d.size + 63) / 64)) (8 + lineCost kind * ((d.size + 63) / 64))
          (d.charge 0 d.size) 1)

/-- CPREF, CFLUSH, CJUMP and CHAIN_FETCH (R218, R230 to R232): prefetch and flush change no byte; a jump enters or leaves chain
mode; a fetch in chain mode makes the word at the program counter the head, advances it, and starts the entry where nothing
holds it. -/
def Obligations.CopyStreamsChain : Prop :=
  ∀ (s : State) (y : Sync) (off : BitVec 22) (bs : List Byte) (e : Eng), e = s.copyEng →
    ((s.cur.eng e).tmpl = [] → s.cur.spadFault off.toNat 64 = none → bs = getBytes s.cur.spad off.toNat 64 →
      (∀ (d : CopyDesc) (n : Nat), d = parseCopy bs .copy → n = 8 + (d.size + 4095) / 4096 →
        s.cur.copyFault e (copyReserved bs && sourceOnly bs) d 16777216 = none →
        (∃ u, exec (.cpref y off) s = .next u ∧ onlyIn s u [] ∧ (u.cur.eng e).phase = .done n n 0 1) ∧
        ((∀ r, r ∈ d.srcRuns 0 d.size → (s.runParts s.core r).2 = none) →
          ∃ u, exec (.cflush y off) s = .next u ∧ onlyIn s u [] ∧ (u.cur.eng e).phase = .done n n 0 1)) ∧
      (fieldNat bs 10 1 < 2 → (∀ j, 11 ≤ j → j < 64 → fieldNat bs j 1 = 0) → fieldNat bs 0 10 % 8 = 0 →
        ∃ u, exec (.cjump y off) s = .next u ∧ onlyIn s u [] ∧ (u.cur.eng e).phase = .done 2 2 0 1 ∧
          (u.cur.eng e).chainPc = (if fieldNat bs 10 1 = 1 then none else some (BitVec.ofNat 80 (fieldNat bs 0 10))))) ∧
    (∀ (pc : A80) (ps : List (List Part)) (w : W64) (i : Instr), (s.cur.eng e).phase = .idle → (s.cur.eng e).head = none →
      (s.cur.eng e).chainPc = some pc → s.cur.unit.isSome = true → s.cur.stop = none →
      s.checkRuns s.core false true [{ start := pc, off := 0, n := 8, pos := 0, fab := false, need := 1 }] = (ps, none) →
      w = BitVec.ofNat 64 (leNat (bytesOf s ps)) → decodeCmd e w.toNat = .ok i → s.waitsOf s.core (syncOf w.toNat).wsem = [] →
      ((syncOf w.toNat).wmode = .none ∨ ∀ u, s.cur.unit = some u → declares u.wmask (streamIndex (.eng e)) (syncOf w.toNat).wsem = true) →
      ((syncOf w.toNat).sop = .none ∨ ∀ u, s.cur.unit = some u → declares u.smask (streamIndex (.eng e)) (syncOf w.toNat).ssem = true) →
      ∃ u, exec .chainFetch s = .next u ∧ (u.cur.eng e).head = some { word := w, chain := some pc } ∧
        (u.cur.eng e).chainPc = some (pc + 8) ∧
        (u.cur.eng e).phase = (if waitHolds (syncOf w.toNat).wmode (s.semCount s.core (syncOf w.toNat).wsem) then .running .fresh else .waiting) ∧
        u.cur.sys.budt = chargeBudget 48 s.cur.sys.budt (if inLocal pc || inCluster pc then 0 else 8) ∧
        u.mem = s.mem ∧ ∀ q, u.cur.seq q = s.cur.seq q)

/-- CNEST, CGO and its chunks (R223 to R226, R233): a nest that its checks admit becomes the shadow set; CGO swaps the sets and
checks its template; a chunk moves its positions of the copy at the index, is charged, and stands at the next chunk or the next
copy, with the event posted where the levels say so. The index of a chunk (log 29) and the bytes of overlapping copies (log 30)
are the model's readings. -/
def Obligations.CopyNestsChunk : Prop :=
  ∀ (s : State) (y : Sync) (off : BitVec 22) (e : Eng), e = s.copyEng →
    (s.cur.spadFault off.toNat 256 = none → s.cur.copyNestFault e (getBytes s.cur.spad off.toNat 256) = none →
      ∃ u, exec (.cnest y off) s = .next u ∧
        u.cur.copyNest e = { s.cur.copyNest e with shadow := { bytes := getBytes s.cur.spad off.toNat 256, valid := true } } ∧
        (u.cur.eng e).phase = .done 4 4 0 1 ∧ onlyIn s u []) ∧
    (s.cur.stop = none → s.cur.refetching e = false →
      ((s.cur.copyNest e).shadow.valid = true → ∃ d, s.cur.template e off (s.cur.copyNest e).shadow.bytes = .ok d) →
      ∃ u, exec (.cgo y off) s = .next u ∧ onlyIn s u [] ∧
        u.cur.copyNest e = { active := (s.cur.copyNest e).shadow, shadow := { (s.cur.copyNest e).active with valid := false } } ∧
        (u.cur.eng e).phase =
          (if (s.cur.copyNest e).shadow.valid = false then .done 4 4 0 1 else .running (.nest [0, 0, 0, 0, 0, 0] 0 false))) ∧
    (∀ (h : Head) (bs : List Byte) (d x : CopyDesc) (ls : List CopyLevel) (counts idx : List Nat) (j lo hi n : Nat) (sp dp : List (List Part)) (tb : List Byte),
      (s.cur.eng e).phase = .running (.nest idx j false) → (s.cur.eng e).head = some h → s.cur.refetching e = false → s.cur.nestRun e = some bs →
      s.cur.templateKept e (BitVec.ofNat 22 h.word.toNat) bs = .ok (d, tb) → ls = copyLevels bs → counts = ls.map (·.count) →
      copiesOver counts idx = false → x = d.at_ ls idx → lo = 4096 * j → hi = min d.size (4096 * j + 4096) → lo < d.size →
      s.cur.stop = none → localMove s (x.srcRuns lo hi) (x.dstRuns lo hi) d.red.isSome sp dp → overlaps sp.flatten dp.flatten = false →
      (j = 0 → s.overlapOf s.core x = none) → (j ≠ 0 → (s.cur.eng e).overlap = none) →
      (∀ v, copyEvent bs = some v → copyPosts ls idx = true → s.waitsOf s.core v = [] ∧ v.val < 48 ∧ (s.semCount s.core v).toNat < 65535) →
      n = lineCost d.kind * ((hi - lo + 63) / 64) + (if j = 0 then 8 else 0) + (if j = 0 ∧ idx.all (· == 0) = true then 4 else 0) →
      ∃ u, exec .cgoChunk s = .next u ∧ onlyIn s u dp ∧
        bytesOf u dp = copied d.kind lo (hi - lo) (bytesOf s sp) (bytesOf s dp) ∧
        (u.cur.eng e).phase = (if hi < d.size then .running (.nest idx (j + 1) false)
          else if copiesOver counts (nextCopy idx counts) then .done 0 0 0 1 else .running (.nest (nextCopy idx counts) 0 false)) ∧
        u.cur.sys.budi = chargeBudget 48 s.cur.sys.budi n ∧
        u.cur.sys.budt = chargeBudget 48 s.cur.sys.budt (x.charge lo hi) ∧
        (∀ v, copyEvent bs = some v → copyPosts ls idx = true → hi = d.size →
          (u.semCount s.core v).toNat = (s.semCount s.core v).toNat + 1))

/-- CPACK and CUNPACK (R82, R96 to R98, R227 to R229): a planar block holds the scale and the elements of its rows, bit by bit;
CPACK writes the blocks of the dense matrix, zero outside it; CUNPACK writes each dense element from its block. -/
def Obligations.PlanarBlocksPackAndUnpack : Prop :=
  (∀ (p : Nat) (rows : List (List Sys2Proof.Machine.Num)) (m k : Nat), 1 ≤ p → p ≤ 16 → rows.length = 32 → (∀ r, r ∈ rows → r.length = 32) → m < 32 → k < 32 →
    planarAt p (planarBlock p rows) m k =
      ((planarRow p (rows.getD m []) false).2.getD k 0, (planarRow p (rows.getD m []) false).1)) ∧
  (∀ (s : State) (y : Sync) (off : BitVec 22) (q : Fin 16) (p : Nat) (bs : List Byte) (d : PackDesc) (sp dp : List (List Part)),
    p = q.val + 1 → (s.cur.eng s.copyEng).tmpl = [] → s.cur.spadFault off.toNat 64 = none → bs = getBytes s.cur.spad off.toNat 64 → d = parsePack bs →
    (∀ srcs, srcs = (d.allSegs.map fun g => d.segRun 1 g.2.1 g.2.2)
        ++ (if d.mtype = 7 then d.allSegs.map fun g => d.sclRun g.2.1 (g.2.2 + 64) else []) →
      s.cur.packFault s.copyEng bs false p = none → localMove s srcs (d.blocks.zipIdx.map (d.blockRun 2 p)) false sp dp →
      overlaps sp.flatten dp.flatten = false →
      ∃ u, exec (.cpack y off q) s = .next u ∧ onlyIn s u dp ∧
        (u.cur.eng s.copyEng).phase = .done (d.busy p) (d.busy p) (runBytes srcs) 1 ∧
        ∀ b, b ∈ d.blocks → getBytes u.cur.spad (d.blockAt b) (128 * (p + 1)) =
          planarBlock p ((List.range 32).map fun m => (List.range 32).map fun k => logical s d (32 * b.1 + m) (32 * b.2 + k))) ∧
    (∀ dsts, dsts = d.allSegs.map (fun g => d.segRun 2 g.2.1 g.2.2) → s.cur.packFault s.copyEng bs true p = none →
      localMove s (d.blocks.zipIdx.map (d.blockRun 1 p) ++ d.allSegs.filterMap fun g => d.partial_ g.2.1 g.2.2) dsts false sp dp →
      overlaps (sp.take d.blocks.length).flatten dp.flatten = false →
      ∃ u, exec (.cunpack y off q) s = .next u ∧ onlyIn s u dp ∧
        (u.cur.eng s.copyEng).phase = .done (d.busy p) (d.busy p) (runBytes dsts) 1 ∧
        ∀ b g i, b ∈ d.blocks → g ∈ d.segs b → i < g.n →
          packedAt d.bits (segBytes s u d 2 g) i =
            (let a := if d.trans then (g.col + i, g.row) else (g.row, g.col + i)
             let z := planarAt p (getBytes s.cur.spad (d.blockAt b) (128 * (p + 1))) (a.1 % 32) (a.2 % 32)
             d.pattern p z.1 z.2)))

/-! ## Power -/

/-- Swinu messages (R345 to R350, R369): a message that passes its checks is in force at once or waits for its VFROM, and is
acknowledged by a message of TYPE 3 with its signatures; one that fails is acknowledged with its status and changes nothing;
fragments are joined, and dropped 5 ms after the first; what waits takes effect at its VFROM and expires at its VTO; a Barchan
that hangs or is not up drops them. How fragments that do not fit are taken (log 53) and the header of an acknowledgement (log
87) are the model's choices; the signature schemes are taken from their standards (log 98, presumed). -/
def Obligations.SwinuMessagesTakeEffect : Prop :=
  ∀ (s : State) (msg : List Byte) (seq : W64) (c : Curve) (r : RankCaps) (st : Nat), seq = BitVec.ofNat 64 (fieldNat msg 8 8) →
    (s.barchanUp = false → exec (.curve msg) s = .next s ∧ exec (.rankCaps msg) s = .next s ∧
      ∀ id idx n bytes, exec (.swinuFragment id idx n bytes) s = .next s) ∧
    (s.barchanUp = true → s.swinuStatus msg ≠ 0 →
      (fieldNat msg 6 1 ≠ 2 → exec (.curve msg) s = .next (s.acknowledge (s.swinuStatus msg) msg)) ∧
      (fieldNat msg 6 1 ≠ 1 → exec (.rankCaps msg) s = .next (s.acknowledge (s.swinuStatus msg) msg))) ∧
    (∀ n content, (moduleRsa n content).length = 384 ∧ (moduleSlh n content).length = 16224) ∧
    (∃ h, s.acknowledge st msg = State.reply { s with fresh := s.fresh + 5 } (.ack (signedMessage (s.fresh + 4) (h ++ s.ackBody st msg))) ∧
      h.length = 64 ∧ (s.ackBody st msg).length = 32 ∧ fieldNat h 0 4 = 0x53574E55 ∧ fieldNat h 4 2 = 1 ∧ fieldNat h 6 1 = 3 ∧
      fieldNat h 7 1 = 0 ∧ fieldNat h 0x18 8 < fieldNat h 0x20 8 ∧ fieldNat h 0x28 4 = 32 ∧ (∀ i, 0x2C ≤ i → i < 64 → fieldNat h i 1 = 0)) ∧
    (∀ l, (if fieldNat msg 6 1 = 1 then s.power.lastCurveSeq else s.power.lastCapsSeq) = some l → seq.toNat ≤ l.toNat →
      s.swinuStatus msg ≠ 0) ∧
    (fieldNat msg 0x20 8 ≤ s.tick.toNat → s.swinuStatus msg ≠ 0) ∧
    (∀ n, n = 64 + fieldNat msg 0x28 4 → facilitySigned (msg.take n) ((msg.drop n).take 384) (msg.drop (n + 384)) = false →
      s.swinuStatus msg ≠ 0) ∧
    (s.barchanUp = true → s.swinuStatus msg = 0 → fieldNat msg 6 1 = 1 →
      c = { vfrom := fieldNat msg 0x18 8, vto := fieldNat msg 0x20 8, points := (List.range (fieldNat msg 64 2)).map fun i =>
        (fieldNat msg (80 + 16 * i) 8, fieldNat msg (88 + 16 * i) 4) } →
      ∃ t h sig, exec (.curve msg) s = .next t ∧ t.power.lastCurveSeq = some seq ∧ t.power.orphanCurve = false ∧
        (c.vfrom ≤ s.tick.toNat → t.power.curve = some c ∧ t.power.nextCurve = none) ∧
        (s.tick.toNat < c.vfrom → t.power.curve = s.power.curve ∧ t.power.nextCurve = some c) ∧ t.power.level = t.packageLevel ∧
        t.host.replies.head? = some (.ack (h ++ t.ackBody (if t.power.level < 190000 then 6 else 0) msg ++ sig))) ∧
    (s.barchanUp = true → s.swinuStatus msg = 0 → fieldNat msg 6 1 = 2 →
      r = { vfrom := fieldNat msg 0x18 8, vto := fieldNat msg 0x20 8, caps := (List.range 16).map fun i =>
        if fieldNat msg (64 + 4 * i) 4 = 2 ^ 32 - 1 then none else some (fieldNat msg (64 + 4 * i) 4) } →
      ∃ t h sig, exec (.rankCaps msg) s = .next t ∧ t.power.lastCapsSeq = some seq ∧
        (r.vfrom ≤ s.tick.toNat → t.power.caps = some r ∧ t.power.nextCaps = none) ∧
        (s.tick.toNat < r.vfrom → t.power.caps = s.power.caps ∧ t.power.nextCaps = some r) ∧
        t.host.replies.head? = some (.ack (h ++ t.ackBody (if t.power.level < 190000 then 6 else 0) msg ++ sig))) ∧
    (∀ (id : W64) (idx n : BitVec 16) (bytes : List Byte) (a : Assembly) (whole : List Byte),
      (bytes.length < 4 ∨ 1404 < bytes.length ∨ n.toNat = 0 ∨ 18 < n.toNat ∨ n.toNat ≤ idx.toNat ∨ fieldNat bytes 0 4 ≠ 0 →
        exec (.swinuFragment id idx n bytes) s = .next s) ∧
      (s.barchanUp = true → 4 ≤ bytes.length → bytes.length ≤ 1404 → n.toNat ≤ 18 → idx.toNat < n.toNat → fieldNat bytes 0 4 = 0 →
        (∀ x ∈ s.power.assemblies, s.tick.toNat < x.since.toNat + 5000000) →
        ((∀ x ∈ s.power.assemblies, x.id ≠ id) → s.power.assemblies.length < 4 → 1 < n.toNat →
          exec (.swinuFragment id idx n bytes) s = .next { s with power := { s.power with
            assemblies := s.power.assemblies ++ [{ id := id, count := n.toNat, since := s.tick, parts := [(idx.toNat, bytes.drop 4)] }] } }) ∧
        ((∀ x ∈ s.power.assemblies, x.id ≠ id) → 4 ≤ s.power.assemblies.length → exec (.swinuFragment id idx n bytes) s = .next s) ∧
        (s.power.assemblies = [a] → a.id = id → a.count = n.toNat → (a.parts.all fun p => p.1 != idx.toNat) = true →
          Assembly.whole { a with parts := a.parts ++ [(idx.toNat, bytes.drop 4)] } = some whole → fieldNat whole 6 1 = 1 →
          exec (.swinuFragment id idx n bytes) s =
            exec (.curve whole) { s with power := { s.power with assemblies := [] } })) ∧
      exec (.swinuReassemblyTimeout id) s = .next { s with power := { s.power with
        assemblies := s.power.assemblies.filter fun x => !(x.id == id && decide (x.since.toNat + 5000000 ≤ s.tick.toNat)) } }) ∧
    (∃ t, exec .messageTakesEffect s = .next t ∧ t.power.level = t.packageLevel ∧
      (s.power.nextCurve = some c → t.power.curve = (if c.vfrom ≤ s.tick.toNat then some c else s.power.curve) ∧
        t.power.nextCurve = (if c.vfrom ≤ s.tick.toNat then none else some c)) ∧
      (s.power.nextCaps = some r → t.power.caps = (if r.vfrom ≤ s.tick.toNat then some r else s.power.caps) ∧
        t.power.nextCaps = (if r.vfrom ≤ s.tick.toNat then none else some r))) ∧
    (∃ t, exec .messageExpiry s = .next t ∧ t.power.level = t.packageLevel ∧
      (s.power.nextCurve = none → s.power.curve = some c → t.power.curve = (if c.vto ≤ s.tick.toNat then none else some c) ∧
        t.power.orphanCurve = (s.power.orphanCurve || decide (c.vto ≤ s.tick.toNat))) ∧
      (∀ next, s.power.nextCurve = some next → s.tick.toNat < next.vfrom → t.power.orphanCurve = s.power.orphanCurve ∧
        t.power.nextCurve = some next) ∧
      (s.power.nextCaps = none → s.power.caps = some r → t.power.caps = (if r.vto ≤ s.tick.toNat then none else some r)))

namespace Sys2Proof.Claim

/-- Ranges of pages of a stack: ascending from lo on, none empty, none touching the next. -/
def pagesOk : Nat → List (Nat × Nat) → Prop
  | _, [] => True
  | lo, (a, b) :: r => lo ≤ a ∧ a < b ∧ b ≤ 1048576 ∧ pagesOk (b + 1) r

end Sys2Proof.Claim

/-- The other rows of power (R352 to R355, R362, R364, R366, R369, R370, R378, R379): a measurement and a limiter's floor are
noted; a period brings every running launch to the level of the period; slow that does not reach its level within 2 ms becomes
park; a unit that does not yield to park within 2 ms is pre-empted; grades lift after 20 ms, in park the die that was parked
last; the orphan cap follows 50 ms without a heartbeat; a parked stack's pages move and return; a spared row is redirected.
Divisors and levels where the rules leave a choice (log 54, 64), power without traffic (log 88), lifts after a shed (log 89) and
the copies of a parked stack (log 90) are the model's choices. -/
def Obligations.PowerRowsAct : Prop :=
  ∀ (s s1 : State) (mw bank row : Nat) (f : Fin 17) (c : CoreId) (d : DieId) (u : Resident) (p : Nat × Nat × Nat),
    (∃ t, exec (.powerMeasurement mw) s = .next t ∧ t.power.measured = mw) ∧
    (s.power.grade ≠ .park → exec (.powerMeasurement mw) s = .next { s with power := { s.power with measured := mw } }) ∧
    exec (.currentLimiter f) s = .next { s with power := { s.power with current := f } } ∧
    (s1 = State.relevel { s with power := { s.power with periods := s.power.periods + 1 } } →
      s1.power.grade ≠ .shed → s1.power.grade ≠ .park → (s1.launches.map (·.id)).Nodup →
      ∃ t, exec .schedulerPeriod s = .next t ∧ t.power.periods = s.power.periods + 1 ∧ t.power.level = t.packageLevel ∧
        ∀ x, x ∈ s1.periodLevels → (t.launch x.1.id).map (·.level) = some (Fin.ofNat 8 x.2)) ∧
    (s.power.grade = .slow → s.power.level < s.power.measured → s.power.since.toNat + 2000000 ≤ s.tick.toNat → ∃ t, exec .slowBoundExpiry s = .next t ∧ t.power.grade = .park) ∧
    (s.power.grade ≠ .slow ∨ s.power.measured ≤ s.power.level ∨ s.tick.toNat < s.power.since.toNat + 2000000 → exec .slowBoundExpiry s = .next s) ∧
    ((s.coreAt c).unit = some u → (s.die (dieOf c)).parked = true → hasReason u.reasons reasonPark = true → s.power.grade ≠ .park →
      (s.die (dieOf c)).parkTick.toNat + 2000000 ≤ s.tick.toNat →
      exec (.parkYieldTimeout c) s = .next (s.hardPreempt c)) ∧
    ((s.coreAt c).unit = some u → (s.die (dieOf c)).parked = true → hasReason u.reasons reasonPark = true →
      (s.die (dieOf c)).parkTick.toNat + 2000000 ≤ s.tick.toNat → quiet (s.coreAt c) → (s.coreAt c).stop = none →
      ∃ t, exec (.parkYieldTimeout c) s = .next t ∧ (t.coreAt c).unit = none) ∧
    ((s.coreAt c).unit = none ∨ s.tick.toNat < (s.die (dieOf c)).parkTick.toNat + 2000000 → exec (.parkYieldTimeout c) s = .next s) ∧
    (s.power.grade = .park → d ∈ s.power.parkDone →
      ((s.die d).stack = .returning ∨ (s.die d).stack = .active ∧ s.memctl.shadow.getLsbD d.val = true ∧
          s.power.since.toNat + 1000000000 ≤ s.tick.toNat →
        ∃ t, exec (.parkMigrationStart d) s = .next t ∧ (t.die d).stack = .migrating ∧ ∀ e, e ≠ d → t.die e = s.die e) ∧
      ((s.die d).stack = .active → s.memctl.shadow.getLsbD d.val = false ∨ s.tick.toNat < s.power.since.toNat + 1000000000 → exec (.parkMigrationStart d) s = .next s)) ∧
    (∃ t, exec (.stackMigrationComplete d) s = .next t ∧ (∀ e, e ≠ d → t.die e = s.die e) ∧
      (t.die d).stack = (match (s.die d).stack with | .migrating => .parked | .returning => .active | x => x) ∧
      (pagesOk 0 (s.die d).lpPages → (s.die d).stack = .migrating ∨ (s.die d).stack = .returning →
        (t.die d).lpPages = (if (s.die d).stack = .migrating then [(0, 1048576)] else []) ∧ ∀ j, j < 0x1000000000 →
          getByte t.mem (lpShadow + d.val * 0x1000000000 + j) =
            if inRanges (s.die d).lpPages (j / 65536) = decide ((s.die d).stack = .returning) then getByte s.mem (d.val * 0x1000000000 + j)
            else getByte s.mem (lpShadow + d.val * 0x1000000000 + j))) ∧
    (s.power.grade = .floor → 190000 ≤ s.power.level → ∃ t, exec .gradeLift s = .next t ∧ t.power.grade = .normal) ∧
    (s.power.grade = .slow → ∀ b, s.power.lift = some b →
      (b.toNat + 20000000 ≤ s.tick.toNat → ∃ t, exec .gradeLift s = .next t ∧ t.power.grade = .normal) ∧
      (s.tick.toNat < b.toNat + 20000000 → exec .gradeLift s = .next s)) ∧
    (s.power.grade = .park → ∀ b r, s.power.lift = some b → b.toNat + 20000000 ≤ s.tick.toNat →
      (∀ e ∈ s.power.parkOrder, (s.die e).parked = false) → s.power.parkDone = d :: r →
      ∃ t, exec .gradeLift s = .next t ∧ (t.die d).parked = false ∧ t.power.parkDone = r ∧
        (r = [] → t.power.grade = .slow) ∧ (r ≠ [] → t.power.grade = .park ∧ t.power.parkOrder = d :: s.power.parkOrder)) ∧
    (s.barchanUp = true → ∃ t, exec .heartbeat s = .next t ∧ t.power.beat = s.tick ∧ t.power.orphanBeat = false ∧
      t.power.orphanCurve = s.power.orphanCurve ∧ t.power.level = t.packageLevel) ∧
    (s.barchanUp = false → exec .heartbeat s = .next s) ∧
    (s.power.beat.toNat + 50000000 ≤ s.tick.toNat →
      ∃ t, exec .heartbeatTimeout s = .next t ∧ t.power.orphan = true ∧ t.power.level = t.packageLevel ∧ t.power.level ≤ Config.orphanCap) ∧
    (s.tick.toNat < s.power.beat.toNat + 50000000 → exec .heartbeatTimeout s = .next s) ∧
    (s.memctl.copying = [p] → p.1 = bank → p.2.1 = row →
      exec (.spareCopyComplete bank row) s = .next { s with memctl := { s.memctl with
        copying := [], spared := (s.memctl.spared.filter fun q => !(q.1 == bank && q.2.1 == row)) ++ [p],
        retiredSpares := s.memctl.retiredSpares ++
          ((s.memctl.spared.filter fun q => q.1 == bank && q.2.1 == row).map fun q => (q.1, q.2.2)),
        corrected := s.memctl.corrected.filter fun q => !(q.1 == bank && q.2.1 == row) } })

/-! ## The host -/

namespace Sys2Proof.Claim

/-- What a register reads after v is written to it (R289, R307, R351, R360, R375, R385, R398 to R400), while every stack is active. -/
def regAfter (s : State) (r : RegRef) (v : W64) : Option W64 :=
  let n := v.toNat
  match r with
  | .l2lim _ => if n % 32 ≤ 16 ∧ s.service = .full then some (BitVec.ofNat 64 (n % 32)) else s.readReg r
  | .l2part _ => if n % 8 ≤ 4 then some (BitVec.ofNat 64 (n % 8)) else s.readReg r
  | .dsched d => some (BitVec.ofNat 64 (n / 65536 % 65536 * 65536 +
      if 16 ≤ n % 32 ∧ n % 32 ≤ 28 then n % 32 else (s.die d).qshift.val))
  | .pcap _ => some (BitVec.ofNat 64 (n % 65536))
  | .prank _ => some (BitVec.ofNat 64 (n % 16))
  | .account _ _ => some (BitVec.ofNat 64 (n % 2 ^ 48))
  | .hbmflr p => if ((s.partitions.filter fun x => x.1.num != p).map fun x => x.2.hbmflr.toNat).sum + n % 65536 ≤ 1600
      then some (BitVec.ofNat 64 (n % 65536)) else s.readReg r
  | .lppark => some (BitVec.ofNat 64 (n % 256))
  | .moncfg _ _ => some (v &&& 0xBFFF1F00)
  | .fnode => if s.fabric.anyUp then s.readReg r else some (BitVec.ofNat 64 (n % 2 ^ 19))
  | .fwina _ _ | .fwinb _ _ => some v
  | .fexpa p k => match s.ctx p, (s.ctx p).bind (·.part) with
    | some c, some y => if c.exportInside { y.exports[k] with a := v &&& 0xFFFFFFFFF } then some (v &&& 0xFFFFFFFFF) else s.readReg r
    | _, _ => none
  | .fexpb p k => match s.ctx p, (s.ctx p).bind (·.part) with
    | some c, some y =>
      if c.exportInside { y.exports[k] with b := v &&& 0xFFFFFFC0000000FF } then some (v &&& 0xFFFFFFC0000000FF) else s.readReg r
    | _, _ => none
  | .route _ => some (BitVec.ofNat 64 (n % 2 ^ 32))
  | .ppower _ | .pthrot _ | .pkgpwr | .rbcount _ | .monmin _ _ | .monmax _ _ | .monhist _ _ _ | .fstat => s.readReg r

end Sys2Proof.Claim

/-- The host's memory accesses, registers and monitors (R289, R299, R385 to R387): a write reaches memory, a read is replied; an
address that no decoder covers faults; a register that exists is read and takes the fields that may be written; an unknown one
is Invalid Input; a monitor keeps least, most and histogram. A module that is not up answers none of this (R388). That an
address outside the HDM decoder and host memory faults is unverified (log 19), that a module which is not up does not reply is
deduced (log 52), and that a write to a read-only register succeeds without effect is the model's choice (log 50). -/
def Obligations.HostAccessesAndRegisters : Prop :=
  ∀ (s : State) (a n : Nat) (bs : List Byte) (r : RegRef) (v w : W64) (d : DieId) (m : Fin 16) (c : Nat) (b : Fin 256) (x : BitVec 32)
    (y : BitVec 48),
    (bs ≠ [] → s.deaf a = false → s.hostReaches a bs.length = true → untouched s [(a, bs.length)] → s.anyLive a bs.length = false → s.firstRetired a bs.length = none →
      (∀ e, (s.die e).watch = []) →
      ∃ t, exec (.hostMemoryWrite a bs) s = .next t ∧ (∀ j, j < bs.length → getByte t.mem (a + j) = bs.getD j 0) ∧
        (∀ j, j < a ∨ a + bs.length ≤ j → getByte t.mem j = getByte s.mem j) ∧ t.cores = s.cores ∧ t.ctxs = s.ctxs) ∧
    (s.deaf a = true → exec (.hostMemoryWrite a bs) s = .next s ∧ exec (.hostMemoryRead a n) s = .next s) ∧
    (bs ≠ [] → s.deaf a = false → s.hostReaches a bs.length = false → exec (.hostMemoryWrite a bs) s = .fault .hostAddress) ∧
    (n ≠ 0 → s.deaf a = false → s.hostReaches a n = true → exec (.hostMemoryRead a n) s =
      .next (s.reply (.data (if (s.firstUnc a n).isSome then [] else getBytes s.mem a n)))) ∧
    (n ≠ 0 → s.deaf a = false → s.hostReaches a n = false → exec (.hostMemoryRead a n) s = .fault .hostAddress) ∧
    (s.mailboxUp = true →
      (s.readReg r = some w → exec (.readRegister r) s = .next (s.reply (.mailbox true w))) ∧
      (s.readReg r = none → exec (.readRegister r) s = .next (s.reply (.mailbox false 0)) ∧
        exec (.writeRegister r v) s = .next (s.reply (.mailbox false 0))) ∧
      (∀ (i : Instr) (q : RegRef) (z : W64), (i, q, z) ∈ [(Instr.writeRegister r v, r, v), (.l2limWrite d x, .l2lim d, x.zeroExtend 64),
          (.phaseAccountWrite c b y, .account c b, y.zeroExtend 64), (.fnodeWrite v, .fnode, v)] →
        (s.readReg q).isSome = true → (∀ e, (s.die e).stack = .active) →
        ∃ t, exec i s = .next t ∧ t.host.replies.head? = some (.mailbox true 0) ∧ t.readReg q = regAfter s q z) ∧
      (∃ t, exec (.monitorClear d m) s = .next t ∧ (t.die d).monitors[m].least = 0xFFFFFFFF ∧ (t.die d).monitors[m].most = 0 ∧
        (∀ j : Fin 32, (t.die d).monitors[m].hist[j] = 0) ∧ ∀ e, e ≠ d → t.die e = s.die e)) ∧
    (s.mailboxUp = false → exec (.readRegister r) s = .next s ∧ exec (.writeRegister r v) s = .next s) ∧
    (∀ src, src = (s.die d).monitors[m].cfg.toNat / 2 ^ 24 % 64 →
      ((s.die d).monitors[m].cfg.getLsbD 31 = true → 1 ≤ src → src ≤ 7 →
        ∃ t, exec (.monitorSample d m x) s = .next t ∧
          (t.die d).monitors[m].least.toNat = min (s.die d).monitors[m].least.toNat x.toNat ∧
          (t.die d).monitors[m].most.toNat = max (s.die d).monitors[m].most.toNat x.toNat ∧
          (∀ j : Fin 32, (t.die d).monitors[m].hist[j].toNat = (s.die d).monitors[m].hist[j].toNat +
            if j.val = min 31 (x.toNat / 2 ^ ((s.die d).monitors[m].cfg.toNat / 256 % 32)) ∧ (s.die d).monitors[m].hist[j].toNat < 2 ^ 32 - 1
            then 1 else 0)) ∧
      ((s.die d).monitors[m].cfg.getLsbD 31 = false →
        ∃ t, exec (.monitorSample d m x) s = .next t ∧ (t.die d).monitors[m] = (s.die d).monitors[m]))

/-- Partitions and what the host does to them (R281, R324, R328, R333, R334, R338, R359, R373, R374, R387): each command's
effect and reply; a reset is answered when it is complete. The number of a new partition (log 34), the reply of a reset that
fails (log 85) and the answers to commands that cannot be carried out (log 51) are the model's choices. -/
def Obligations.HostCommandsAct : Prop :=
  ∀ (s : State) (p n : Nat) (spec : PartSpec) (make : Nat → Option Nat → Fin 16 → Ctx) (c : Ctx) (y : Partition) (a e : Nat) (i : IslandId)
    (st : Fin 9) (ch : Fin 32) (h : Bool), s.mailboxUp = true →
    (parseCreate spec.desc = some make → s.islandsFree spec.islands = true → spec.ranges.length ≤ 64 → spec.ranges.all physRange = true →
      spec.privs.toNat < 8 → spec.qcap ≤ 4096 → spec.floor < 65536 → spec.desc.length = 64 → spec.bankArea % 4096 = 0 → spec.pool < 2 ^ 48 →
      s.ctxs.length < 4096 → s.ctx n = none → (∀ m, m < n → (s.ctx m).isSome = true) →
      ∃ t, exec (.createPartition spec) s = .next t ∧ t.host.replies.head? = some (.mailbox true (BitVec.ofNat 64 n)) ∧
        (t.ctx n).map (fun x => (x.qcap, x.floor, x.privs, x.pool.toNat, x.ranges.map fun r => (r.base, r.len, r.perm))) =
          some (spec.qcap, spec.floor, spec.privs, spec.pool, spec.ranges) ∧
        (∀ k : CoreId, (t.ctx n).map (fun x => x.cores.getLsbD k.val) = some (spec.islands.getLsbD (islandOf k).val)) ∧
        ((t.ctx n).bind (·.part)).map (·.islands) = some spec.islands ∧ ∀ m, m ≠ n → t.ctx m = s.ctx m) ∧
    (s.islandsFree spec.islands = false → exec (.createPartition spec) s = .next (s.reply (.mailbox false 0))) ∧
    (s.ctx p = none → ∀ q, q ∈ [Instr.destroyPartition p, .dispose p, .runPartition p, .stopPartition p h] →
      exec q s = .next (s.reply (.mailbox false 0))) ∧
    (s.ctx p = some c → c.num = p → c.part = some y → c.revoked = false →
      (s.holding (fun u => (s.subtree p).contains u.ctx) = [] → ∃ t, exec (.destroyPartition p) s = .next t ∧
        t.host.replies.head? = some (.mailbox true 0) ∧ (t.ctx p).map (fun x => (x.revoking.isSome, x.cores)) = some (true, 0)) ∧
      (s.awaiting = [] → exec (.dispose p) s = .next (s.reply (.mailbox true 0))) ∧
      (∀ (l num org pa : Nat) (ev : W64) (r : Option Nat) (q : W64) (pr : SavePriv),
        s.awaiting = [(l, num, org, none, ev)] → s.hostPlace ev.toNat = some pa → s.within org p = true → ev ≠ 0 →
        fieldNat (getBytes s.mem pa 64) 0x30 8 = ev.toNat → (getBytes s.mem pa 64).headD 0 ≠ 0 → fieldNat (getBytes s.mem pa 64) 2 1 = 1 →
        (s.launch l).bind (·.unitState num) = some (.awaiting r q false pr) → (∀ x, (s.die x).watch = []) → untouched s [(pa, 1)] →
        ∃ t, exec (.dispose p) s = .next t ∧ (t.launch l).bind (·.unitState num) = some (.saved false pr) ∧ getByte t.mem pa = 0) ∧
      (s.awaiting = [] → c.init = 0 ∨ c.ranBefore = true ∨ c.running = true →
        ∃ t, exec (.runPartition p) s = .next t ∧ (t.ctx p).map (fun x => (x.running, x.ranBefore)) = some (true, true) ∧
          t.launches.map (·.id) = s.launches.map (·.id) ∧ t.host.replies.head? = some (.mailbox true 0)) ∧
      (∀ (bs : List Byte) (tk : TaskRec), s.awaiting = [] → c.init ≠ 0 → c.ranBefore = false → c.running = false → c.init.toNat % 128 = 0 →
        s.devRead p c.init 128 = .ok bs → parseTask bs = some tk → s.refusal c (some tk) = 0 → s.newLaunchId p < 2 ^ 48 →
        ∃ t, exec (.runPartition p) s = .next t ∧ (t.ctx p).map (·.running) = some true ∧
          t.launches.map (·.id) = s.launches.map (·.id) ++ [s.newLaunchId p] ∧
          t.host.replies.head? = some (.mailbox true (BitVec.ofNat 64 (s.newLaunchId p)))) ∧
      (∃ t, exec (.stopPartition p false) s = .next t ∧ (t.ctx p).map (·.running) = some false ∧
        t.host.replies.head? = some (.mailbox true 0) ∧
        ∀ k u, (s.coreAt k).unit = some u → s.within u.ctx p = true →
          (t.coreAt k).unit.map (fun r => hasReason r.reasons reasonStop) = some true)) ∧
    (e ≠ 0 → a % 64 = 0 → s.hostReaches a (64 * e) = true → s.host.held = [] →
      ∃ t, exec (.setHostEventRing a e) s = .next t ∧ t.host.ring = some (a, e) ∧ t.host.replies.head? = some (.mailbox true 0)) ∧
    ((s.island i).state = .failed → exec (.resetIsland i) s = .next (s.reply (.mailbox false 0))) ∧
    ((s.island i).state = .on → s.islandEmpty i = true →
      ∃ t, exec (.resetIsland i) s = .next t ∧ (t.island i).state = .resetting ∧ t.host.replies = s.host.replies ∧
        t.host.resets = s.host.resets ++ [i]) ∧
    ((s.island i).state = .gated →
      ∃ t, exec (.resetIsland i) s = .next t ∧ (t.island i).state = .gated ∧ t.host.replies.head? = some (.mailbox true 0)) ∧
    (∀ k, (s.answerResets i k).host.replies =
      List.replicate (s.host.resets.count i) (.mailbox k 0) ++ s.host.replies) ∧
    (∃ t, exec (.retireChannel st ch) s = .next t ∧ (st, ch) ∈ t.memctl.retired ∧ t.host.replies.head? = some (.mailbox true 0) ∧
      t.power.pmax = (if (st, ch) ∈ s.memctl.retired then s.power.pmax else s.power.pmax - 10000))

/-- Bring-up, attestation and loss of power (R388 to R392): the lowest die whose self-test passes serves; training retires what
failed and drains it; full service writes DSWAYS; each SPDM request is answered, a signed answer with both signatures; the
capability list reports the service in force, what failed, and records at rising offsets, found through the DVSEC; without power
nothing remains but the last SEQ accepted of each type, the host's memory and what has been told. The bytes of SPDM answers (log
56), which of them are signed (log 91), the form of the capability records (log 20) and what a loss of power leaves (log 57) are
the model's choices; the signature schemes are taken from their standards (log 98, presumed). -/
def Obligations.BringUpAndAttestation : Prop :=
  ∀ (s : State) (d : DieId) (bad links : BitVec 8) (req : List Byte) (c : CoreId) (u : Resident),
    (s.service = .unpowered →
      (Config.bootVerifies = true → Config.selfTest d = true → (∀ e, e < d → Config.selfTest e = false) →
        exec .powerOn s = .next { s with service := .reduced, serving := some d }) ∧
      (Config.bootVerifies = false ∨ (∀ e, Config.selfTest e = false) → exec .powerOn s = .next { s with service := .bootFailed })) ∧
    (s.service ≠ .unpowered → exec .powerOn s = .next s) ∧
    (s.service = .reduced →
      ∃ t, exec (.trainingComplete bad links) s = .next t ∧ t.service = .draining ∧ t.failedStacks = bad ∧ t.failedLinks = links ∧
        (∀ (e : Fin 8) (ch : Fin 32), bad.getLsbD e.val = true → (Fin.ofNat 9 e.val, ch) ∈ t.memctl.retired) ∧
        ((s.coreAt c).unit = some u → (t.coreAt c).unit.map (fun r => hasReason r.reasons reasonTenant) = some true)) ∧
    (s.service = .draining → s.serving = some d →
      ((∀ k, dieOf k = d → (s.coreAt k).unit = none) →
        ∃ t, exec .fullServiceStart s = .next t ∧ t.service = .full ∧ ∀ e, (t.die e).dsways.val = Config.dswaysRaw.val) ∧
      (dieOf c = d → (s.coreAt c).unit = some u → exec .fullServiceStart s = .next s)) ∧
    (s.service ≠ .unpowered → ∀ (i : Instr) (k : Fin 9), (i, k) ∈ [(Instr.getVersion req, (0 : Fin 9)), (.getCapabilities req, 1),
        (.negotiateAlgorithms req, 2), (.getDigests req, 3), (.getCertificate req, 4), (.challenge req, 5), (.getMeasurements req, 6),
        (.keyExchange req, 7), (.finish req, 8)] →
      ∃ t, exec i s = .next t ∧
        (∀ tr body, tr = (((if k = 0 then [] else s.host.spdm).map (·.2)).reverse ++ [req]).flatten →
          body = Config.spdmBody k.val tr (if k = 6 then Config.measurements.toList else []) →
          t.host.replies.head? = some (if k = 5 ∨ k = 6 ∨ k = 7 then
              .spdm body [(slhElement, moduleSlh s.fresh (sha384 (tr ++ body)))] (moduleRsa s.fresh (tr ++ body))
            else .spdm body [] [])) ∧
        (k = 8 → (∃ q, (7, q) ∈ s.host.spdm) → t.host.session = true) ∧ (k = 0 → t.host.session = false) ∧
        t.mem = s.mem ∧ t.cores = s.cores ∧ t.ctxs = s.ctxs) ∧
    (∃ v, s.capabilities.head? = some (.service v s.serving s.failedStacks s.failedLinks) ∧ (v = 1 ↔ s.service = .full) ∧
      (v = 2 ↔ s.service = .bootFailed)) ∧
    s.capabilities.map CapRecord.id = [1, 2, 3, 4, 5, 6] ∧ (∀ j, capOffset j < capOffset (j + 1)) ∧
    dvsec.length = 14 ∧ fieldNat dvsec 8 2 = 0x0A70 ∧ fieldNat dvsec 0xC 2 = capOffset 0 ∧
    (∀ (j : Nat) (x : CapRecord), s.capabilities[j]? = some x → (capBytes 6 j x).length = 4 * fieldNat (capBytes 6 j x) 3 1 ∧
      fieldNat (capBytes 6 j x) 0 2 = x.id ∧ fieldNat (capBytes 6 j x) 4 2 = if j < 5 then capOffset (j + 1) else 0) ∧
    (∃ t, exec .modulePowerRemoval s = .next t ∧ t.service = .unpowered ∧ t.ctxs = [] ∧ t.launches = [] ∧ t.coreAt c = Core.reset ∧
      t.power.lastCurveSeq = s.power.lastCurveSeq ∧ t.power.lastCapsSeq = s.power.lastCapsSeq ∧
      ∀ a, getByte t.mem a = if regionOf a = .host then getByte s.mem a else 0)

/-! ## The fabric -/

/-- Ports, time and lost nodes (R397 to R399, R408, R411): a flit that is whole, right and next is taken; a port comes up while
FNODE is valid and goes down; a time message sets the slew, and SYNC within 20 ns; SYNC falls after 100 ms without one, but at
the time source; messages between other nodes go on, and wait for a path; a node that nothing was heard of for 50 ms is lost: it
is reported and its records freed. The form of a flit behind its header is the model's own (log 35); how this node becomes the
time source is deduced (log 96). -/
def Obligations.FabricPortsAndTime : Prop :=
  ∀ (s : State) (p : Fin 32) (flit : List Byte) (t0 : W64) (node : Nat),
    (s.fabric.ports[p].up = true → flit.length = 256 → fieldNat flit 252 4 = (crc32c (flit.take 252)).toNat →
      fieldNat flit 0 2 = (s.fabric.ports[p].recvSeq + 1).toNat →
      ∃ t, exec (.flitReceive p flit) s = .next t ∧
        t.fabric.ports[p] = { s.fabric.ports[p] with recvSeq := s.fabric.ports[p].recvSeq + 1, acked := BitVec.ofNat 16 (fieldNat flit 2 2) } ∧
        (∀ q, q ≠ p → t.fabric.ports[q] = s.fabric.ports[q]) ∧ t.fabric.inbox = (p, (flit.drop 8).take 244) :: s.fabric.inbox) ∧
    (s.fabric.ports[p].up = false ∨ flit.length ≠ 256 ∨ fieldNat flit 252 4 ≠ (crc32c (flit.take 252)).toNat ∨
        fieldNat flit 0 2 ≠ (s.fabric.ports[p].recvSeq + 1).toNat → exec (.flitReceive p flit) s = .next s) ∧
    (∃ t, exec (.linkDown p) s = .next t ∧ t.fabric.ports[p].up = false ∧ (∀ q, q ≠ p → t.fabric.ports[q] = s.fabric.ports[q]) ∧
      t.fabric.waiting.map (·.id) = s.fabric.waiting.map (·.id)) ∧
    (s.fabric.valid = true → s.fabric.ports[p].up = false →
      ∃ t, exec (.linkTrained p) s = .next t ∧ t.fabric.ports[p] = { up := true, recvSeq := 0, acked := 0 } ∧
        ∀ q, q ≠ p → t.fabric.ports[q] = s.fabric.ports[q]) ∧
    (s.fabric.valid = false → exec (.linkTrained p) s = .next s ∧ exec (.timeMessage t0) s = .next s) ∧
    (s.fabric.valid = true → ∃ t, exec (.timeMessage t0) s = .next t ∧ t.fabric.slew = (t0.toNat : Int) - s.tick.toNat ∧ t.tick = s.tick ∧
      (t.fabric.sync = true ↔ s.fabric.sync = true ∨ (t0.toNat ≤ s.tick.toNat + 20 ∧ s.tick.toNat ≤ t0.toNat + 20))) ∧
    (s.fabric.source = false → s.fabric.lastTime.toNat + 100000000 ≤ s.tick.toNat →
      ∃ t, exec .syncLoss s = .next t ∧ t.fabric.sync = false ∧ t.fabric.slew = 0) ∧
    (s.fabric.source = true ∨ s.tick.toNat < s.fabric.lastTime.toNat + 100000000 → exec .syncLoss s = .next s) ∧
    (∀ (x : Transit) (r : List Act), s.fabric.valid = true →
      (s.agenda = .timeSource true :: r → ∃ t, step s = .next t ∧ t.fabric.source = true ∧ t.fabric.sync = true ∧ t.tick = s.tick) ∧
      (s.agenda = .transit x :: r → x.dst ≠ s.fabric.node.val → ∃ t, step s = .next t ∧ t.mem = s.mem ∧ t.cores = s.cores ∧
        (s.fabric.path x.dst = [] → (∀ y ∈ s.fabric.hops, s.fabric.ports[y.2.2.2.2].up = false) →
          t.fabric.transit = s.fabric.transit ++ [x] ∧ t.host.replies = s.host.replies) ∧
        (s.fabric.path x.dst ≠ [] → ∃ q, s.fabric.ports[q].up = true ∧ t.fabric.transit = s.fabric.transit ∧
          t.host.replies = .hop q x.src x.dst x.bytes :: s.host.replies))) ∧
    (∀ x, s.fabric.heard.find? (fun p => p.1 == node) = some x → s.tick.toNat < x.2.toNat + 50000000 → exec (.nodeLoss node) s = .next s) ∧
    (node ≠ s.fabric.node.val → node ∉ s.fabric.lost → s.fabric.valid = true →
      (∀ x, s.fabric.heard.find? (fun p => p.1 == node) = some x → x.2.toNat + 50000000 ≤ s.tick.toNat) →
      (s.fabric.heard.find? (fun p => p.1 == node) = none → s.fabric.validSince.toNat + 50000000 ≤ s.tick.toNat) →
      ∃ t, exec (.nodeLoss node) s = .next t ∧ t.fabric.lost = s.fabric.lost ++ [node] ∧
        t.fabric.records = s.fabric.records.filter (fun r => r.ident.node != node) ∧ t.host.replies.head? = some (.report 3 node))

/-- Remote requests (R401 to R407, R411): at the target an access within an export is performed and answered, another is
refused; a reducing chunk is applied once; at the initiator an answer reaches the access or the copy that awaits it; a timeout,
10 ms after the request, counts as no answer unless a wait notice holds it. The form of requests and of closing messages is the
model's own (log 35); that each notice starts the 10 ms again is deduced (log 97). -/
def Obligations.FabricRequestsAnswered : Prop :=
  ∀ (s : State) (r : RemoteReq) (pa n : Nat) (bs : List Byte) (c : RedChunk) (w : RemoteWait) (a : RemoteAns),
    (∀ d, (s.die d).watch = []) →
    (s.fabric.anyUp = true → r.src ≠ s.fabric.node.val →
      (r.op = .load n ∨ r.op = .copyRead n → s.exportPlace r.part r.export_ r.offset n 1 = some pa → s.firstUnc pa n = none →
        s.twoSets (s.exportTen r.part r.export_) pa n = false →
        ∃ t, exec (.remoteAccessArrival r) s = .next t ∧ t.host.replies.head? = some (.remote r.id (.data (getBytes s.mem pa n) none)) ∧
          t.mem = s.mem) ∧
      (r.op = .store bs ∨ r.op = .copyWrite bs → s.exportPlace r.part r.export_ r.offset bs.length 2 = some pa →
        s.anyLive pa bs.length = false → s.firstRetired pa bs.length = none → untouched s [(pa, bs.length)] →
        ∃ t, exec (.remoteAccessArrival r) s = .next t ∧ t.host.replies.head? = some (.remote r.id .done) ∧
          (∀ j, j < bs.length → getByte t.mem (pa + j) = bs.getD j 0) ∧
          (∀ j, j < pa ∨ pa + bs.length ≤ j → getByte t.mem j = getByte s.mem j)) ∧
      (r.op = .load n → s.exportPlace r.part r.export_ r.offset n 1 = none →
        ∃ t, exec (.remoteAccessArrival r) s = .next t ∧ t.host.replies.head? = some (.remote r.id .refused) ∧ t.mem = s.mem) ∧
      (∀ (op : Fin 8) (v : W64), r.op = .amo op v → s.exportPlace r.part r.export_ r.offset 8 permAtomic = some pa →
        s.anyLive pa 8 = false → s.firstUnc pa 8 = none → untouched s [(pa, 8)] →
        ∃ t, exec (.remoteAccessArrival r) s = .next t ∧ t.mem = (s.performAtomic (.amo op v) pa).1.mem ∧
          t.host.replies.head? = some (.remote r.id (.data (leBytes 8 (s.performAtomic (.amo op v) pa).2.toNat) none))) ∧
      (∀ x, r.op = .close x → ∃ t, exec (.remoteAccessArrival r) s = .next t ∧ t.mem = s.mem ∧
        t.fabric.records = s.fabric.records.filter fun y => !closesRecord x y.ident)) ∧
    (∀ p, s.fabric.anyUp = true → c.ident.node ≠ s.fabric.node.val → c.pieces = [p] → s.exportPlace p.part p.export_ p.offset p.bytes.length 3 = some pa →
      s.anyLive pa p.bytes.length = false → s.firstUnc pa p.bytes.length = none → untouched s [(pa, p.bytes.length)] →
      (s.fabric.records = [] → c.chunk < 64 → p.bytes.length % redSize c.ty = 0 →
        ∃ t, exec (.reducingChunkArrival c) s = .next t ∧ t.host.replies.head? = some (.remote c.id .done) ∧
          getBytes t.mem pa p.bytes.length = copied (.reduce c.op c.ty) 0 p.bytes.length p.bytes (getBytes s.mem pa p.bytes.length) ∧
          ∃ x, t.fabric.records = [x] ∧ x.ident = c.ident ∧ x.has c.chunk = true) ∧
      (∀ x, s.fabric.records = [x] → x.ident = c.ident → x.has c.chunk = true →
        ∃ t, exec (.reducingChunkArrival c) s = .next t ∧ t.host.replies.head? = some (.remote c.id .done) ∧ t.mem = s.mem ∧
          t.fabric.records = [x])) ∧
    (∀ q, s.fabric.waiting = [w] → w.stream = .seq q →
      (w.port.isSome = true → answers w.req a = true →
        ∃ t, exec (.remoteResponse w.id a) s = .next t ∧ t.fabric.waiting = [] ∧
          ((t.coreAt w.core).seq q).out = ((s.coreAt w.core).seq q).out.map fun x =>
            if x.id = w.access then { x with answers := x.answers ++ [(w.piece, a)] } else x) ∧
      (s.waitsRecord w = false → w.since.toNat + 10000000 ≤ s.tick.toNat →
        ∃ t, exec (.remoteTimeout w.id) s = .next t ∧ t.fabric.waiting = [] ∧
          ((t.coreAt w.core).seq q).out = ((s.coreAt w.core).seq q).out.map fun x =>
            if x.id = w.access then { x with answers := x.answers ++ [(w.piece, .lost)] } else x)) ∧
    (s.fabric.waiting = [w] → s.waitsRecord w = true ∨ s.tick.toNat < w.since.toNat + 10000000 → exec (.remoteTimeout w.id) s = .next s) ∧
    (∀ e x, s.fabric.waiting = [w] → w.stream = .eng e → ((s.coreAt w.core).eng e).chunks = [x] → x.id = w.id → ((s.coreAt w.core).eng e).fails = [] →
      ((s.coreAt w.core).eng e).phase = .running .fresh → w.port.isSome = true → w.req = .copyRead n → bs.length = n →
      ∃ t, exec (.remoteResponse w.id (.data bs none)) s = .next t ∧ t.fabric.waiting = [] ∧
        ((t.coreAt w.core).eng e).chunks = [] ∧
        ((t.coreAt w.core).eng e).data = ((s.coreAt w.core).eng e).data ++ [(w.piece, bs)]) ∧
    (s.fabric.waiting = [w] → s.fabric.held = [] → w.req = .reduce c →
      ∃ t, exec (.waitNotice w.id) s = .next t ∧ t.fabric.waiting = [{ w with since := s.tick }])

/-! ## Reset -/

/-- After reset no power-on sequence has run, no partition and no launch exists, memory lists nothing and is in its canonical
form, and the registers that the host reads hold the values that their rules give. That unlisted memory reads 0 is the model's
choice (log 5). -/
def Obligations.ResetHoldsStatedValues : Prop :=
  State.reset.service = .unpowered ∧ State.reset.ctxs = [] ∧ State.reset.launches = [] ∧ Memory.wf State.reset.mem = true ∧
  (∀ a, getByte State.reset.mem a = 0) ∧ (∀ c, State.reset.coreAt c = Core.reset ∧ (State.reset.coreAt c).unit = none) ∧
  (∀ (d : DieId) (m : Fin 16), State.reset.readReg (.l2lim d) = some 16 ∧ State.reset.readReg (.dsched d) = some (1000 * 65536 + 20) ∧
    State.reset.readReg (.moncfg d m) = some 0 ∧ State.reset.readReg (.monmin d m) = some 0xFFFFFFFF ∧
    State.reset.readReg (.monmax d m) = some 0) ∧
  State.reset.readReg .fnode = some 0 ∧ State.reset.readReg .fstat = some 0 ∧ State.reset.readReg .lppark = some 0xFF ∧
  State.reset.readReg .pkgpwr = some (BitVec.ofNat 64 (3000 * 2 ^ 32 + 3000 * 2 ^ 16))

/-! ## An invariant of every step -/

namespace Sys2Proof.Claim

/-- What has been accepted of a type of Swinu message, as a number: 0 for none, else one more than its SEQ (R349). -/
def acceptedSeq (o : Option W64) : Nat := match o with | none => 0 | some a => a.toNat + 1

end Sys2Proof.Claim

/-- No step takes back an accepted SEQ (R349, R388): a bound below what has been accepted of each type of message holds after
every step, a loss of power among them, so that no message is ever accepted twice. That nothing is accepted at reset is the
model's choice (log 7); the statement does not rest on it. -/
def Obligations.AcceptedSeqNeverFalls : Prop :=
  ∀ (s t : State) (n m : Nat), n ≤ acceptedSeq s.power.lastCurveSeq → m ≤ acceptedSeq s.power.lastCapsSeq → step s = .next t →
    n ≤ acceptedSeq t.power.lastCurveSeq ∧ m ≤ acceptedSeq t.power.lastCapsSeq
end

