-- ==== Sys2Proof/Laws/Cells.lean ====
section
/-! SUPPORT. Bytes by address: every operation keeps the canonical form; a write reads back, and leaves every other byte. -/

namespace Sys2Proof.Machine

open Sys2Proof

/-! ## The canonical form -/

/-- The canonical form says: addresses strictly rising, no zero byte. -/
theorem Memory.wf_iff (m : Cells) :
    Memory.wf m = true ↔ m.Pairwise (fun x y => x.1 < y.1) ∧ ∀ c ∈ m, c.2 ≠ 0 := by
  induction m with
  | nil => simp [Memory.wf]
  | cons x r ih =>
    obtain ⟨a, b⟩ := x
    cases r with
    | nil => simp [Memory.wf]
    | cons y t =>
      obtain ⟨a', b'⟩ := y
      simp only [Memory.wf, Bool.and_eq_true, bne_iff_ne, ne_eq, decide_eq_true_eq, ih, List.pairwise_cons,
        List.mem_cons, forall_eq_or_imp]
      constructor
      · rintro ⟨⟨hb, hlt⟩, ⟨hp, hpt⟩, hb', hz⟩
        exact ⟨⟨⟨hlt, fun c hc => Nat.lt_trans hlt (hp c hc)⟩, hp, hpt⟩, hb, hb', hz⟩
      · rintro ⟨⟨⟨hlt, _⟩, hp, hpt⟩, hb, hb', hz⟩
        exact ⟨⟨hb, hlt⟩, ⟨hp, hpt⟩, hb', hz⟩

@[simp] theorem Memory.wf_nil : Memory.wf [] = true := rfl

/-- A selection of cells keeps the form. -/
theorem Memory.wf_filter {m : Cells} (p : Host.Cell → Bool) (h : Memory.wf m = true) : Memory.wf (m.filter p) = true := by
  rw [Memory.wf_iff] at h ⊢
  exact ⟨h.1.sublist List.filter_sublist, fun c hc => h.2 c (List.mem_filter.1 hc).1⟩

/-- Three lists whose addresses follow each other. -/
theorem Memory.wf_append3 {x y z : Cells} {a b : Nat} (hx : Memory.wf x = true) (hy : Memory.wf y = true)
    (hz : Memory.wf z = true) (lx : ∀ c ∈ x, c.1 < a) (ly : ∀ c ∈ y, a ≤ c.1 ∧ c.1 < b) (lz : ∀ c ∈ z, b ≤ c.1)
    (hab : a ≤ b) : Memory.wf (x ++ (y ++ z)) = true := by
  rw [Memory.wf_iff] at *
  refine ⟨List.pairwise_append.2 ⟨hx.1, List.pairwise_append.2 ⟨hy.1, hz.1, ?_⟩, ?_⟩, ?_⟩
  · intro c hc d hd
    have := (ly c hc).2; have := lz d hd; omega
  · intro c hc d hd
    have := lx c hc
    rcases List.mem_append.1 hd with hd | hd
    · have := (ly d hd).1; omega
    · have := lz d hd; omega
  · intro c hc
    rcases List.mem_append.1 hc with hc | hc
    · exact hx.2 c hc
    · rcases List.mem_append.1 hc with hc | hc
      · exact hy.2 c hc
      · exact hz.2 c hc

/-- The cells of a byte string lie in its addresses. -/
theorem mem_cellsOf {bs : List Byte} {a : Nat} {c : Host.Cell} (h : c ∈ cellsOf a bs) : a ≤ c.1 ∧ c.1 < a + bs.length := by
  induction bs generalizing a with
  | nil => simp [cellsOf] at h
  | cons b r ih =>
    simp only [cellsOf] at h
    split at h
    · have := ih h; simp; omega
    · rcases List.mem_cons.1 h with h | h
      · subst h; simp
      · have := ih h; simp; omega

/-- The cells of a byte string have the form. -/
theorem Memory.wf_cellsOf (bs : List Byte) (a : Nat) : Memory.wf (cellsOf a bs) = true := by
  induction bs generalizing a with
  | nil => rfl
  | cons b r ih =>
    simp only [cellsOf]
    split
    · exact ih _
    · rename_i hb
      have hr := (Memory.wf_iff _).1 (ih (a + 1))
      rw [Memory.wf_iff]
      refine ⟨List.pairwise_cons.2 ⟨fun c hc => ?_, hr.1⟩, fun c hc => ?_⟩
      · have := (mem_cellsOf hc).1; simp; omega
      · rcases List.mem_cons.1 hc with h | h
        · subst h; exact hb
        · exact hr.2 c h

/-- Writing bytes keeps the form. -/
theorem Memory.wf_putBytes {m : Cells} (a : Nat) (bs : List Byte) (h : Memory.wf m = true) :
    Memory.wf (putBytes m a bs) = true := by
  refine Memory.wf_append3 (a := a) (b := a + bs.length) (Memory.wf_filter _ h) (Memory.wf_cellsOf bs a)
    (Memory.wf_filter _ h) ?_ ?_ ?_ (by omega)
  · intro c hc; simpa using (List.mem_filter.1 hc).2
  · intro c hc; exact mem_cellsOf hc
  · intro c hc; simpa using (List.mem_filter.1 hc).2

/-- Writing a byte keeps the form. -/
theorem Memory.wf_putByte {m : Cells} (a : Nat) (b : Byte) (h : Memory.wf m = true) : Memory.wf (putByte m a b) = true :=
  Memory.wf_putBytes a [b] h

/-- Clearing bytes keeps the form. -/
theorem Memory.wf_clearBytes {m : Cells} (a n : Nat) (h : Memory.wf m = true) : Memory.wf (clearBytes m a n) = true :=
  Memory.wf_filter _ h

/-- Writing under a mask keeps the form. -/
theorem Memory.wf_putMasked {m : Cells} (a : Nat) (l : List (Bool × Byte)) (h : Memory.wf m = true) :
    Memory.wf (putMasked m a l) = true := by
  cases l with
  | nil => exact h
  | cons x r => exact Memory.wf_putBytes a _ h

/-- Writing scattered bytes keeps the form. -/
theorem Memory.wf_putScattered {m : Cells} (l : List (Nat × Byte)) (h : Memory.wf m = true) :
    Memory.wf (putScattered m l) = true := by
  induction l generalizing m with
  | nil => exact h
  | cons x r ih => exact ih (Memory.wf_putByte x.1 x.2 h)

/-- Cells moved to other addresses in the same order keep the form. -/
theorem Memory.wf_shift {l : Cells} (f : Nat → Nat) (h : Memory.wf l = true)
    (hf : ∀ c ∈ l, ∀ d ∈ l, c.1 < d.1 → f c.1 < f d.1) : Memory.wf (l.map fun c => (f c.1, c.2)) = true := by
  rw [Memory.wf_iff] at *
  refine ⟨?_, ?_⟩
  · rw [List.pairwise_map]
    exact h.1.imp_of_mem fun hc hd hlt => hf _ hc _ hd hlt
  · intro c hc
    obtain ⟨d, hd, rfl⟩ := List.mem_map.1 hc
    exact h.2 d hd

/-- The cells of a range, numbered from 0, have the form. -/
theorem Memory.wf_takeCells {m : Cells} (a n : Nat) (h : Memory.wf m = true) : Memory.wf (takeCells m a n) = true := by
  refine Memory.wf_shift (fun x => x - a) (Memory.wf_filter _ h) fun c hc d hd hlt => ?_
  have hc := (List.mem_filter.1 hc).2
  have hd := (List.mem_filter.1 hd).2
  simp at hc hd
  show c.1 - a < d.1 - a
  omega

/-- Putting cells into a range keeps the form. -/
theorem Memory.wf_putCells {m l : Cells} (a n : Nat) (h : Memory.wf m = true) (hl : Memory.wf l = true) :
    Memory.wf (putCells m a n l) = true := by
  refine Memory.wf_append3 (a := a) (b := a + n) (Memory.wf_filter _ h)
    (Memory.wf_shift (fun x => a + x) (Memory.wf_filter _ hl) fun c _ d _ hlt => by show a + c.1 < a + d.1; omega)
    (Memory.wf_filter _ h) ?_ ?_ ?_ (by omega)
  · intro c hc; simpa using (List.mem_filter.1 hc).2
  · intro c hc
    obtain ⟨d, hd, rfl⟩ := List.mem_map.1 hc
    have := (List.mem_filter.1 hd).2
    simp at this
    exact ⟨Nat.le_add_right _ _, by show a + d.1 < a + n; omega⟩
  · intro c hc; simpa using (List.mem_filter.1 hc).2

/-! ## Reading a byte -/

@[simp] theorem getByte_nil (x : Nat) : getByte [] x = 0 := rfl

/-- A list that does not list an address reads 0 there. -/
theorem getByte_absent {m : Cells} {x : Nat} (h : ∀ c ∈ m, c.1 ≠ x) : getByte m x = 0 := by
  induction m with
  | nil => rfl
  | cons c r ih =>
    obtain ⟨k, b⟩ := c
    have hk : k ≠ x := h (k, b) (by simp)
    simp [getByte, hk, ih fun d hd => h d (by simp [hd])]

/-- Where the first of two lists is silent, the second is read. -/
theorem getByte_append_right {m n : Cells} {x : Nat} (h : ∀ c ∈ m, c.1 ≠ x) : getByte (m ++ n) x = getByte n x := by
  induction m with
  | nil => rfl
  | cons c r ih =>
    obtain ⟨k, b⟩ := c
    have hk : k ≠ x := h (k, b) (by simp)
    simp [getByte, hk, ih fun d hd => h d (by simp [hd])]

/-- Where the second of two lists is silent, the first is read. -/
theorem getByte_append_left {m n : Cells} {x : Nat} (h : ∀ c ∈ n, c.1 ≠ x) : getByte (m ++ n) x = getByte m x := by
  induction m with
  | nil => simp [getByte_absent h]
  | cons c r ih =>
    obtain ⟨k, b⟩ := c
    simp only [List.cons_append, getByte, ih]

/-- A selection that keeps an address reads the same there. -/
theorem getByte_filter {m : Cells} {x : Nat} (p : Host.Cell → Bool) (h : ∀ c ∈ m, c.1 = x → p c = true) :
    getByte (m.filter p) x = getByte m x := by
  induction m with
  | nil => rfl
  | cons c r ih =>
    obtain ⟨k, b⟩ := c
    have ih := ih fun d hd => h d (by simp [hd])
    by_cases hk : k = x
    · rw [List.filter_cons_of_pos (h (k, b) (by simp) hk)]
      simp [getByte, hk]
    · by_cases hp : p (k, b) = true
      · rw [List.filter_cons_of_pos hp]
        simp [getByte, hk, ih]
      · rw [List.filter_cons_of_neg hp]
        simp [getByte, hk, ih]

/-- The cells of a byte string read as its bytes. -/
theorem getByte_cellsOf (bs : List Byte) (a x : Nat) (h : a ≤ x) : getByte (cellsOf a bs) x = bs.getD (x - a) 0 := by
  induction bs generalizing a with
  | nil => simp [cellsOf]
  | cons b r ih =>
    by_cases hx : x = a
    · subst hx
      simp only [cellsOf]
      split
      · rename_i hb
        rw [getByte_absent fun c hc => by have := (mem_cellsOf hc).1; omega]
        simp [hb]
      · simp [getByte]
    · have hx' : a + 1 ≤ x := by omega
      have e : x - a = (x - (a + 1)) + 1 := by omega
      simp only [cellsOf]
      split
      · rw [ih _ hx', e]; simp
      · have : ¬ a = x := fun e => hx e.symm
        simp only [getByte, this, if_false, ih _ hx', e]
        simp

/-- A write leaves every other byte. -/
theorem getByte_putBytes_outside (m : Cells) (a : Nat) (bs : List Byte) (x : Nat) (h : x < a ∨ a + bs.length ≤ x) :
    getByte (putBytes m a bs) x = getByte m x := by
  have mid : ∀ c ∈ cellsOf a bs, c.1 ≠ x := fun c hc => by have := mem_cellsOf hc; omega
  unfold putBytes
  rcases h with h | h
  · rw [getByte_append_left, getByte_filter]
    · intro c _ hc; simp; omega
    · intro c hc
      rcases List.mem_append.1 hc with hc | hc
      · exact mid c hc
      · have := (List.mem_filter.1 hc).2; simp at this; omega
  · rw [getByte_append_right, getByte_append_right mid, getByte_filter]
    · intro c _ hc; simp; omega
    · intro c hc; have := (List.mem_filter.1 hc).2; simp at this; omega

/-- A write reads back. -/
theorem getByte_putBytes_inside (m : Cells) (a : Nat) (bs : List Byte) (x : Nat) (h : a ≤ x) (h' : x < a + bs.length) :
    getByte (putBytes m a bs) x = bs.getD (x - a) 0 := by
  unfold putBytes
  rw [getByte_append_right, getByte_append_left, getByte_cellsOf bs a x h]
  · intro c hc; have := (List.mem_filter.1 hc).2; simp at this; omega
  · intro c hc; have := (List.mem_filter.1 hc).2; simp at this; omega

/-- Clearing leaves every other byte, and reads 0. -/
theorem getByte_clearBytes (m : Cells) (a n x : Nat) :
    getByte (clearBytes m a n) x = if a ≤ x ∧ x < a + n then 0 else getByte m x := by
  unfold clearBytes
  split
  · apply getByte_absent
    intro c hc
    have := (List.mem_filter.1 hc).2
    simp at this
    omega
  · apply getByte_filter
    intro c _ hc
    simp
    omega

/-! ## Reading several bytes -/

/-- Spreading the cells of a range reads byte by byte. -/
theorem spreadBytes_eq (m : Cells) (a n : Nat) (hw : m.Pairwise (fun x y => x.1 < y.1)) (h : ∀ c ∈ m, a ≤ c.1) :
    spreadBytes m a n = (List.range n).map fun i => getByte m (a + i) := by
  induction n generalizing m a with
  | zero => cases m <;> rfl
  | succ n ih =>
    rw [List.range_succ_eq_map]
    cases m with
    | nil =>
      simp only [spreadBytes, List.map_cons, List.map_map, getByte_nil]
      rw [ih [] (a + 1) (by simp) (by simp)]
      simp [Function.comp_def]
    | cons c r =>
      obtain ⟨k, b⟩ := c
      obtain ⟨hk, hr⟩ := List.pairwise_cons.1 hw
      have hka : a ≤ k := h (k, b) (by simp)
      simp only [spreadBytes, List.map_cons, List.map_map, Nat.add_zero]
      by_cases e : k = a
      · subst e
        rw [if_pos rfl, ih r (k + 1) hr fun c hc => hk c hc]
        simp only [getByte, if_true, List.cons.injEq, true_and]
        apply List.map_congr_left
        intro i _
        have : ¬ k = k + (i + 1) := by omega
        simp only [Function.comp, Nat.succ_eq_add_one, this, if_false]
        congr 1
        omega
      · rw [if_neg e, ih ((k, b) :: r) (a + 1) hw ?_]
        · rw [getByte_absent (x := a)]
          · simp only [List.cons.injEq, true_and]
            apply List.map_congr_left
            intro i _
            simp only [Function.comp, Nat.succ_eq_add_one]
            congr 1
            omega
          · intro c hc
            rcases List.mem_cons.1 hc with hc | hc
            · subst hc; exact e
            · have : k < c.1 := hk c hc
              omega
        · intro c hc
          rcases List.mem_cons.1 hc with hc | hc
          · subst hc; show a + 1 ≤ k; omega
          · have : k < c.1 := hk c hc
            omega

/-- n bytes are the n bytes read one by one. -/
theorem getBytes_eq {m : Cells} (a n : Nat) (h : Memory.wf m = true) :
    getBytes m a n = (List.range n).map fun i => getByte m (a + i) := by
  have hw := (Memory.wf_iff m).1 h
  unfold getBytes
  rw [spreadBytes_eq _ a n (hw.1.sublist List.filter_sublist)]
  · apply List.map_congr_left
    intro i hi
    have hi := List.mem_range.1 hi
    apply getByte_filter
    intro c _ hc
    simp
    omega
  · intro c hc
    have := (List.mem_filter.1 hc).2
    simp at this
    omega

/-! ## Byte strings -/

/-- A number of n bytes has n bytes. -/
@[simp] theorem leBytes_length (n v : Nat) : (leBytes n v).length = n := by
  induction n generalizing v with
  | zero => rfl
  | succ n ih => simp [leBytes, ih]

/-- Reading n bytes gives n bytes. -/
theorem spreadBytes_length (m : Cells) (a n : Nat) : (spreadBytes m a n).length = n := by
  induction n generalizing m a with
  | zero => cases m <;> rfl
  | succ n ih =>
    cases m with
    | nil => simp [spreadBytes, ih]
    | cons c r => unfold spreadBytes; split <;> simp [ih]

@[simp] theorem getBytes_length (m : Cells) (a n : Nat) : (getBytes m a n).length = n := spreadBytes_length ..

end Sys2Proof.Machine
end

