-- ==== Sys2Proof/Laws/State.lean ====
section
/-! SUPPORT. What each update of a part of the state leaves as it was, field by field, and what it reads back. -/

namespace Sys2Proof.Machine

open Sys2Proof

/-! ## setCore -/

@[simp] theorem State.setCore_core (s : State) (c : CoreId) (k : Core) :
    (s.setCore c k).core = s.core := rfl

@[simp] theorem State.setCore_stream (s : State) (c : CoreId) (k : Core) :
    (s.setCore c k).stream = s.stream := rfl

@[simp] theorem State.setCore_agenda (s : State) (c : CoreId) (k : Core) :
    (s.setCore c k).agenda = s.agenda := rfl

@[simp] theorem State.setCore_fresh (s : State) (c : CoreId) (k : Core) :
    (s.setCore c k).fresh = s.fresh := rfl

@[simp] theorem State.setCore_tick (s : State) (c : CoreId) (k : Core) :
    (s.setCore c k).tick = s.tick := rfl

@[simp] theorem State.setCore_sub (s : State) (c : CoreId) (k : Core) :
    (s.setCore c k).sub = s.sub := rfl

@[simp] theorem State.setCore_cycle (s : State) (c : CoreId) (k : Core) :
    (s.setCore c k).cycle = s.cycle := rfl

@[simp] theorem State.setCore_islands (s : State) (c : CoreId) (k : Core) :
    (s.setCore c k).islands = s.islands := rfl

@[simp] theorem State.setCore_dies (s : State) (c : CoreId) (k : Core) :
    (s.setCore c k).dies = s.dies := rfl

@[simp] theorem State.setCore_mem (s : State) (c : CoreId) (k : Core) :
    (s.setCore c k).mem = s.mem := rfl

@[simp] theorem State.setCore_memBad (s : State) (c : CoreId) (k : Core) :
    (s.setCore c k).memBad = s.memBad := rfl

@[simp] theorem State.setCore_live (s : State) (c : CoreId) (k : Core) :
    (s.setCore c k).live = s.live := rfl

@[simp] theorem State.setCore_tenants (s : State) (c : CoreId) (k : Core) :
    (s.setCore c k).tenants = s.tenants := rfl

@[simp] theorem State.setCore_far (s : State) (c : CoreId) (k : Core) :
    (s.setCore c k).far = s.far := rfl

@[simp] theorem State.setCore_ctxs (s : State) (c : CoreId) (k : Core) :
    (s.setCore c k).ctxs = s.ctxs := rfl

@[simp] theorem State.setCore_launches (s : State) (c : CoreId) (k : Core) :
    (s.setCore c k).launches = s.launches := rfl

@[simp] theorem State.setCore_nextLaunch (s : State) (c : CoreId) (k : Core) :
    (s.setCore c k).nextLaunch = s.nextLaunch := rfl

@[simp] theorem State.setCore_power (s : State) (c : CoreId) (k : Core) :
    (s.setCore c k).power = s.power := rfl

@[simp] theorem State.setCore_service (s : State) (c : CoreId) (k : Core) :
    (s.setCore c k).service = s.service := rfl

@[simp] theorem State.setCore_serving (s : State) (c : CoreId) (k : Core) :
    (s.setCore c k).serving = s.serving := rfl

@[simp] theorem State.setCore_failedStacks (s : State) (c : CoreId) (k : Core) :
    (s.setCore c k).failedStacks = s.failedStacks := rfl

@[simp] theorem State.setCore_failedLinks (s : State) (c : CoreId) (k : Core) :
    (s.setCore c k).failedLinks = s.failedLinks := rfl

@[simp] theorem State.setCore_host (s : State) (c : CoreId) (k : Core) :
    (s.setCore c k).host = s.host := rfl

@[simp] theorem State.setCore_memctl (s : State) (c : CoreId) (k : Core) :
    (s.setCore c k).memctl = s.memctl := rfl

@[simp] theorem State.setCore_fabric (s : State) (c : CoreId) (k : Core) :
    (s.setCore c k).fabric = s.fabric := rfl

/-! ## modCore -/

@[simp] theorem State.modCore_core (s : State) (c : CoreId) (f : Core → Core) :
    (s.modCore c f).core = s.core := rfl

@[simp] theorem State.modCore_stream (s : State) (c : CoreId) (f : Core → Core) :
    (s.modCore c f).stream = s.stream := rfl

@[simp] theorem State.modCore_agenda (s : State) (c : CoreId) (f : Core → Core) :
    (s.modCore c f).agenda = s.agenda := rfl

@[simp] theorem State.modCore_fresh (s : State) (c : CoreId) (f : Core → Core) :
    (s.modCore c f).fresh = s.fresh := rfl

@[simp] theorem State.modCore_tick (s : State) (c : CoreId) (f : Core → Core) :
    (s.modCore c f).tick = s.tick := rfl

@[simp] theorem State.modCore_sub (s : State) (c : CoreId) (f : Core → Core) :
    (s.modCore c f).sub = s.sub := rfl

@[simp] theorem State.modCore_cycle (s : State) (c : CoreId) (f : Core → Core) :
    (s.modCore c f).cycle = s.cycle := rfl

@[simp] theorem State.modCore_islands (s : State) (c : CoreId) (f : Core → Core) :
    (s.modCore c f).islands = s.islands := rfl

@[simp] theorem State.modCore_dies (s : State) (c : CoreId) (f : Core → Core) :
    (s.modCore c f).dies = s.dies := rfl

@[simp] theorem State.modCore_mem (s : State) (c : CoreId) (f : Core → Core) :
    (s.modCore c f).mem = s.mem := rfl

@[simp] theorem State.modCore_memBad (s : State) (c : CoreId) (f : Core → Core) :
    (s.modCore c f).memBad = s.memBad := rfl

@[simp] theorem State.modCore_live (s : State) (c : CoreId) (f : Core → Core) :
    (s.modCore c f).live = s.live := rfl

@[simp] theorem State.modCore_tenants (s : State) (c : CoreId) (f : Core → Core) :
    (s.modCore c f).tenants = s.tenants := rfl

@[simp] theorem State.modCore_far (s : State) (c : CoreId) (f : Core → Core) :
    (s.modCore c f).far = s.far := rfl

@[simp] theorem State.modCore_ctxs (s : State) (c : CoreId) (f : Core → Core) :
    (s.modCore c f).ctxs = s.ctxs := rfl

@[simp] theorem State.modCore_launches (s : State) (c : CoreId) (f : Core → Core) :
    (s.modCore c f).launches = s.launches := rfl

@[simp] theorem State.modCore_nextLaunch (s : State) (c : CoreId) (f : Core → Core) :
    (s.modCore c f).nextLaunch = s.nextLaunch := rfl

@[simp] theorem State.modCore_power (s : State) (c : CoreId) (f : Core → Core) :
    (s.modCore c f).power = s.power := rfl

@[simp] theorem State.modCore_service (s : State) (c : CoreId) (f : Core → Core) :
    (s.modCore c f).service = s.service := rfl

@[simp] theorem State.modCore_serving (s : State) (c : CoreId) (f : Core → Core) :
    (s.modCore c f).serving = s.serving := rfl

@[simp] theorem State.modCore_failedStacks (s : State) (c : CoreId) (f : Core → Core) :
    (s.modCore c f).failedStacks = s.failedStacks := rfl

@[simp] theorem State.modCore_failedLinks (s : State) (c : CoreId) (f : Core → Core) :
    (s.modCore c f).failedLinks = s.failedLinks := rfl

@[simp] theorem State.modCore_host (s : State) (c : CoreId) (f : Core → Core) :
    (s.modCore c f).host = s.host := rfl

@[simp] theorem State.modCore_memctl (s : State) (c : CoreId) (f : Core → Core) :
    (s.modCore c f).memctl = s.memctl := rfl

@[simp] theorem State.modCore_fabric (s : State) (c : CoreId) (f : Core → Core) :
    (s.modCore c f).fabric = s.fabric := rfl

/-! ## modCur -/

@[simp] theorem State.modCur_core (s : State) (f : Core → Core) :
    (s.modCur f).core = s.core := rfl

@[simp] theorem State.modCur_stream (s : State) (f : Core → Core) :
    (s.modCur f).stream = s.stream := rfl

@[simp] theorem State.modCur_agenda (s : State) (f : Core → Core) :
    (s.modCur f).agenda = s.agenda := rfl

@[simp] theorem State.modCur_fresh (s : State) (f : Core → Core) :
    (s.modCur f).fresh = s.fresh := rfl

@[simp] theorem State.modCur_tick (s : State) (f : Core → Core) :
    (s.modCur f).tick = s.tick := rfl

@[simp] theorem State.modCur_sub (s : State) (f : Core → Core) :
    (s.modCur f).sub = s.sub := rfl

@[simp] theorem State.modCur_cycle (s : State) (f : Core → Core) :
    (s.modCur f).cycle = s.cycle := rfl

@[simp] theorem State.modCur_islands (s : State) (f : Core → Core) :
    (s.modCur f).islands = s.islands := rfl

@[simp] theorem State.modCur_dies (s : State) (f : Core → Core) :
    (s.modCur f).dies = s.dies := rfl

@[simp] theorem State.modCur_mem (s : State) (f : Core → Core) :
    (s.modCur f).mem = s.mem := rfl

@[simp] theorem State.modCur_memBad (s : State) (f : Core → Core) :
    (s.modCur f).memBad = s.memBad := rfl

@[simp] theorem State.modCur_live (s : State) (f : Core → Core) :
    (s.modCur f).live = s.live := rfl

@[simp] theorem State.modCur_tenants (s : State) (f : Core → Core) :
    (s.modCur f).tenants = s.tenants := rfl

@[simp] theorem State.modCur_far (s : State) (f : Core → Core) :
    (s.modCur f).far = s.far := rfl

@[simp] theorem State.modCur_ctxs (s : State) (f : Core → Core) :
    (s.modCur f).ctxs = s.ctxs := rfl

@[simp] theorem State.modCur_launches (s : State) (f : Core → Core) :
    (s.modCur f).launches = s.launches := rfl

@[simp] theorem State.modCur_nextLaunch (s : State) (f : Core → Core) :
    (s.modCur f).nextLaunch = s.nextLaunch := rfl

@[simp] theorem State.modCur_power (s : State) (f : Core → Core) :
    (s.modCur f).power = s.power := rfl

@[simp] theorem State.modCur_service (s : State) (f : Core → Core) :
    (s.modCur f).service = s.service := rfl

@[simp] theorem State.modCur_serving (s : State) (f : Core → Core) :
    (s.modCur f).serving = s.serving := rfl

@[simp] theorem State.modCur_failedStacks (s : State) (f : Core → Core) :
    (s.modCur f).failedStacks = s.failedStacks := rfl

@[simp] theorem State.modCur_failedLinks (s : State) (f : Core → Core) :
    (s.modCur f).failedLinks = s.failedLinks := rfl

@[simp] theorem State.modCur_host (s : State) (f : Core → Core) :
    (s.modCur f).host = s.host := rfl

@[simp] theorem State.modCur_memctl (s : State) (f : Core → Core) :
    (s.modCur f).memctl = s.memctl := rfl

@[simp] theorem State.modCur_fabric (s : State) (f : Core → Core) :
    (s.modCur f).fabric = s.fabric := rfl

/-! ## modIsland -/

@[simp] theorem State.modIsland_core (s : State) (i : IslandId) (f : Island → Island) :
    (s.modIsland i f).core = s.core := rfl

@[simp] theorem State.modIsland_stream (s : State) (i : IslandId) (f : Island → Island) :
    (s.modIsland i f).stream = s.stream := rfl

@[simp] theorem State.modIsland_agenda (s : State) (i : IslandId) (f : Island → Island) :
    (s.modIsland i f).agenda = s.agenda := rfl

@[simp] theorem State.modIsland_fresh (s : State) (i : IslandId) (f : Island → Island) :
    (s.modIsland i f).fresh = s.fresh := rfl

@[simp] theorem State.modIsland_tick (s : State) (i : IslandId) (f : Island → Island) :
    (s.modIsland i f).tick = s.tick := rfl

@[simp] theorem State.modIsland_sub (s : State) (i : IslandId) (f : Island → Island) :
    (s.modIsland i f).sub = s.sub := rfl

@[simp] theorem State.modIsland_cycle (s : State) (i : IslandId) (f : Island → Island) :
    (s.modIsland i f).cycle = s.cycle := rfl

@[simp] theorem State.modIsland_cores (s : State) (i : IslandId) (f : Island → Island) :
    (s.modIsland i f).cores = s.cores := rfl

@[simp] theorem State.modIsland_dies (s : State) (i : IslandId) (f : Island → Island) :
    (s.modIsland i f).dies = s.dies := rfl

@[simp] theorem State.modIsland_mem (s : State) (i : IslandId) (f : Island → Island) :
    (s.modIsland i f).mem = s.mem := rfl

@[simp] theorem State.modIsland_memBad (s : State) (i : IslandId) (f : Island → Island) :
    (s.modIsland i f).memBad = s.memBad := rfl

@[simp] theorem State.modIsland_live (s : State) (i : IslandId) (f : Island → Island) :
    (s.modIsland i f).live = s.live := rfl

@[simp] theorem State.modIsland_tenants (s : State) (i : IslandId) (f : Island → Island) :
    (s.modIsland i f).tenants = s.tenants := rfl

@[simp] theorem State.modIsland_far (s : State) (i : IslandId) (f : Island → Island) :
    (s.modIsland i f).far = s.far := rfl

@[simp] theorem State.modIsland_ctxs (s : State) (i : IslandId) (f : Island → Island) :
    (s.modIsland i f).ctxs = s.ctxs := rfl

@[simp] theorem State.modIsland_launches (s : State) (i : IslandId) (f : Island → Island) :
    (s.modIsland i f).launches = s.launches := rfl

@[simp] theorem State.modIsland_nextLaunch (s : State) (i : IslandId) (f : Island → Island) :
    (s.modIsland i f).nextLaunch = s.nextLaunch := rfl

@[simp] theorem State.modIsland_power (s : State) (i : IslandId) (f : Island → Island) :
    (s.modIsland i f).power = s.power := rfl

@[simp] theorem State.modIsland_service (s : State) (i : IslandId) (f : Island → Island) :
    (s.modIsland i f).service = s.service := rfl

@[simp] theorem State.modIsland_serving (s : State) (i : IslandId) (f : Island → Island) :
    (s.modIsland i f).serving = s.serving := rfl

@[simp] theorem State.modIsland_failedStacks (s : State) (i : IslandId) (f : Island → Island) :
    (s.modIsland i f).failedStacks = s.failedStacks := rfl

@[simp] theorem State.modIsland_failedLinks (s : State) (i : IslandId) (f : Island → Island) :
    (s.modIsland i f).failedLinks = s.failedLinks := rfl

@[simp] theorem State.modIsland_host (s : State) (i : IslandId) (f : Island → Island) :
    (s.modIsland i f).host = s.host := rfl

@[simp] theorem State.modIsland_memctl (s : State) (i : IslandId) (f : Island → Island) :
    (s.modIsland i f).memctl = s.memctl := rfl

@[simp] theorem State.modIsland_fabric (s : State) (i : IslandId) (f : Island → Island) :
    (s.modIsland i f).fabric = s.fabric := rfl

/-! ## modDie -/

@[simp] theorem State.modDie_core (s : State) (d : DieId) (f : Die → Die) :
    (s.modDie d f).core = s.core := rfl

@[simp] theorem State.modDie_stream (s : State) (d : DieId) (f : Die → Die) :
    (s.modDie d f).stream = s.stream := rfl

@[simp] theorem State.modDie_agenda (s : State) (d : DieId) (f : Die → Die) :
    (s.modDie d f).agenda = s.agenda := rfl

@[simp] theorem State.modDie_fresh (s : State) (d : DieId) (f : Die → Die) :
    (s.modDie d f).fresh = s.fresh := rfl

@[simp] theorem State.modDie_tick (s : State) (d : DieId) (f : Die → Die) :
    (s.modDie d f).tick = s.tick := rfl

@[simp] theorem State.modDie_sub (s : State) (d : DieId) (f : Die → Die) :
    (s.modDie d f).sub = s.sub := rfl

@[simp] theorem State.modDie_cycle (s : State) (d : DieId) (f : Die → Die) :
    (s.modDie d f).cycle = s.cycle := rfl

@[simp] theorem State.modDie_cores (s : State) (d : DieId) (f : Die → Die) :
    (s.modDie d f).cores = s.cores := rfl

@[simp] theorem State.modDie_islands (s : State) (d : DieId) (f : Die → Die) :
    (s.modDie d f).islands = s.islands := rfl

@[simp] theorem State.modDie_mem (s : State) (d : DieId) (f : Die → Die) :
    (s.modDie d f).mem = s.mem := rfl

@[simp] theorem State.modDie_memBad (s : State) (d : DieId) (f : Die → Die) :
    (s.modDie d f).memBad = s.memBad := rfl

@[simp] theorem State.modDie_live (s : State) (d : DieId) (f : Die → Die) :
    (s.modDie d f).live = s.live := rfl

@[simp] theorem State.modDie_tenants (s : State) (d : DieId) (f : Die → Die) :
    (s.modDie d f).tenants = s.tenants := rfl

@[simp] theorem State.modDie_far (s : State) (d : DieId) (f : Die → Die) :
    (s.modDie d f).far = s.far := rfl

@[simp] theorem State.modDie_ctxs (s : State) (d : DieId) (f : Die → Die) :
    (s.modDie d f).ctxs = s.ctxs := rfl

@[simp] theorem State.modDie_launches (s : State) (d : DieId) (f : Die → Die) :
    (s.modDie d f).launches = s.launches := rfl

@[simp] theorem State.modDie_nextLaunch (s : State) (d : DieId) (f : Die → Die) :
    (s.modDie d f).nextLaunch = s.nextLaunch := rfl

@[simp] theorem State.modDie_power (s : State) (d : DieId) (f : Die → Die) :
    (s.modDie d f).power = s.power := rfl

@[simp] theorem State.modDie_service (s : State) (d : DieId) (f : Die → Die) :
    (s.modDie d f).service = s.service := rfl

@[simp] theorem State.modDie_serving (s : State) (d : DieId) (f : Die → Die) :
    (s.modDie d f).serving = s.serving := rfl

@[simp] theorem State.modDie_failedStacks (s : State) (d : DieId) (f : Die → Die) :
    (s.modDie d f).failedStacks = s.failedStacks := rfl

@[simp] theorem State.modDie_failedLinks (s : State) (d : DieId) (f : Die → Die) :
    (s.modDie d f).failedLinks = s.failedLinks := rfl

@[simp] theorem State.modDie_host (s : State) (d : DieId) (f : Die → Die) :
    (s.modDie d f).host = s.host := rfl

@[simp] theorem State.modDie_memctl (s : State) (d : DieId) (f : Die → Die) :
    (s.modDie d f).memctl = s.memctl := rfl

@[simp] theorem State.modDie_fabric (s : State) (d : DieId) (f : Die → Die) :
    (s.modDie d f).fabric = s.fabric := rfl

/-! ## modCtx -/

@[simp] theorem State.modCtx_core (s : State) (n : Nat) (f : Ctx → Ctx) :
    (s.modCtx n f).core = s.core := rfl

@[simp] theorem State.modCtx_stream (s : State) (n : Nat) (f : Ctx → Ctx) :
    (s.modCtx n f).stream = s.stream := rfl

@[simp] theorem State.modCtx_agenda (s : State) (n : Nat) (f : Ctx → Ctx) :
    (s.modCtx n f).agenda = s.agenda := rfl

@[simp] theorem State.modCtx_fresh (s : State) (n : Nat) (f : Ctx → Ctx) :
    (s.modCtx n f).fresh = s.fresh := rfl

@[simp] theorem State.modCtx_tick (s : State) (n : Nat) (f : Ctx → Ctx) :
    (s.modCtx n f).tick = s.tick := rfl

@[simp] theorem State.modCtx_sub (s : State) (n : Nat) (f : Ctx → Ctx) :
    (s.modCtx n f).sub = s.sub := rfl

@[simp] theorem State.modCtx_cycle (s : State) (n : Nat) (f : Ctx → Ctx) :
    (s.modCtx n f).cycle = s.cycle := rfl

@[simp] theorem State.modCtx_cores (s : State) (n : Nat) (f : Ctx → Ctx) :
    (s.modCtx n f).cores = s.cores := rfl

@[simp] theorem State.modCtx_islands (s : State) (n : Nat) (f : Ctx → Ctx) :
    (s.modCtx n f).islands = s.islands := rfl

@[simp] theorem State.modCtx_dies (s : State) (n : Nat) (f : Ctx → Ctx) :
    (s.modCtx n f).dies = s.dies := rfl

@[simp] theorem State.modCtx_mem (s : State) (n : Nat) (f : Ctx → Ctx) :
    (s.modCtx n f).mem = s.mem := rfl

@[simp] theorem State.modCtx_memBad (s : State) (n : Nat) (f : Ctx → Ctx) :
    (s.modCtx n f).memBad = s.memBad := rfl

@[simp] theorem State.modCtx_live (s : State) (n : Nat) (f : Ctx → Ctx) :
    (s.modCtx n f).live = s.live := rfl

@[simp] theorem State.modCtx_tenants (s : State) (n : Nat) (f : Ctx → Ctx) :
    (s.modCtx n f).tenants = s.tenants := rfl

@[simp] theorem State.modCtx_far (s : State) (n : Nat) (f : Ctx → Ctx) :
    (s.modCtx n f).far = s.far := rfl

@[simp] theorem State.modCtx_launches (s : State) (n : Nat) (f : Ctx → Ctx) :
    (s.modCtx n f).launches = s.launches := rfl

@[simp] theorem State.modCtx_nextLaunch (s : State) (n : Nat) (f : Ctx → Ctx) :
    (s.modCtx n f).nextLaunch = s.nextLaunch := rfl

@[simp] theorem State.modCtx_power (s : State) (n : Nat) (f : Ctx → Ctx) :
    (s.modCtx n f).power = s.power := rfl

@[simp] theorem State.modCtx_service (s : State) (n : Nat) (f : Ctx → Ctx) :
    (s.modCtx n f).service = s.service := rfl

@[simp] theorem State.modCtx_serving (s : State) (n : Nat) (f : Ctx → Ctx) :
    (s.modCtx n f).serving = s.serving := rfl

@[simp] theorem State.modCtx_failedStacks (s : State) (n : Nat) (f : Ctx → Ctx) :
    (s.modCtx n f).failedStacks = s.failedStacks := rfl

@[simp] theorem State.modCtx_failedLinks (s : State) (n : Nat) (f : Ctx → Ctx) :
    (s.modCtx n f).failedLinks = s.failedLinks := rfl

@[simp] theorem State.modCtx_host (s : State) (n : Nat) (f : Ctx → Ctx) :
    (s.modCtx n f).host = s.host := rfl

@[simp] theorem State.modCtx_memctl (s : State) (n : Nat) (f : Ctx → Ctx) :
    (s.modCtx n f).memctl = s.memctl := rfl

@[simp] theorem State.modCtx_fabric (s : State) (n : Nat) (f : Ctx → Ctx) :
    (s.modCtx n f).fabric = s.fabric := rfl

/-! ## modLaunch -/

@[simp] theorem State.modLaunch_core (s : State) (n : Nat) (f : Launch → Launch) :
    (s.modLaunch n f).core = s.core := rfl

@[simp] theorem State.modLaunch_stream (s : State) (n : Nat) (f : Launch → Launch) :
    (s.modLaunch n f).stream = s.stream := rfl

@[simp] theorem State.modLaunch_agenda (s : State) (n : Nat) (f : Launch → Launch) :
    (s.modLaunch n f).agenda = s.agenda := rfl

@[simp] theorem State.modLaunch_fresh (s : State) (n : Nat) (f : Launch → Launch) :
    (s.modLaunch n f).fresh = s.fresh := rfl

@[simp] theorem State.modLaunch_tick (s : State) (n : Nat) (f : Launch → Launch) :
    (s.modLaunch n f).tick = s.tick := rfl

@[simp] theorem State.modLaunch_sub (s : State) (n : Nat) (f : Launch → Launch) :
    (s.modLaunch n f).sub = s.sub := rfl

@[simp] theorem State.modLaunch_cycle (s : State) (n : Nat) (f : Launch → Launch) :
    (s.modLaunch n f).cycle = s.cycle := rfl

@[simp] theorem State.modLaunch_cores (s : State) (n : Nat) (f : Launch → Launch) :
    (s.modLaunch n f).cores = s.cores := rfl

@[simp] theorem State.modLaunch_islands (s : State) (n : Nat) (f : Launch → Launch) :
    (s.modLaunch n f).islands = s.islands := rfl

@[simp] theorem State.modLaunch_dies (s : State) (n : Nat) (f : Launch → Launch) :
    (s.modLaunch n f).dies = s.dies := rfl

@[simp] theorem State.modLaunch_mem (s : State) (n : Nat) (f : Launch → Launch) :
    (s.modLaunch n f).mem = s.mem := rfl

@[simp] theorem State.modLaunch_memBad (s : State) (n : Nat) (f : Launch → Launch) :
    (s.modLaunch n f).memBad = s.memBad := rfl

@[simp] theorem State.modLaunch_live (s : State) (n : Nat) (f : Launch → Launch) :
    (s.modLaunch n f).live = s.live := rfl

@[simp] theorem State.modLaunch_tenants (s : State) (n : Nat) (f : Launch → Launch) :
    (s.modLaunch n f).tenants = s.tenants := rfl

@[simp] theorem State.modLaunch_far (s : State) (n : Nat) (f : Launch → Launch) :
    (s.modLaunch n f).far = s.far := rfl

@[simp] theorem State.modLaunch_ctxs (s : State) (n : Nat) (f : Launch → Launch) :
    (s.modLaunch n f).ctxs = s.ctxs := rfl

@[simp] theorem State.modLaunch_nextLaunch (s : State) (n : Nat) (f : Launch → Launch) :
    (s.modLaunch n f).nextLaunch = s.nextLaunch := rfl

@[simp] theorem State.modLaunch_power (s : State) (n : Nat) (f : Launch → Launch) :
    (s.modLaunch n f).power = s.power := rfl

@[simp] theorem State.modLaunch_service (s : State) (n : Nat) (f : Launch → Launch) :
    (s.modLaunch n f).service = s.service := rfl

@[simp] theorem State.modLaunch_serving (s : State) (n : Nat) (f : Launch → Launch) :
    (s.modLaunch n f).serving = s.serving := rfl

@[simp] theorem State.modLaunch_failedStacks (s : State) (n : Nat) (f : Launch → Launch) :
    (s.modLaunch n f).failedStacks = s.failedStacks := rfl

@[simp] theorem State.modLaunch_failedLinks (s : State) (n : Nat) (f : Launch → Launch) :
    (s.modLaunch n f).failedLinks = s.failedLinks := rfl

@[simp] theorem State.modLaunch_host (s : State) (n : Nat) (f : Launch → Launch) :
    (s.modLaunch n f).host = s.host := rfl

@[simp] theorem State.modLaunch_memctl (s : State) (n : Nat) (f : Launch → Launch) :
    (s.modLaunch n f).memctl = s.memctl := rfl

@[simp] theorem State.modLaunch_fabric (s : State) (n : Nat) (f : Launch → Launch) :
    (s.modLaunch n f).fabric = s.fabric := rfl

/-! ## reply -/

@[simp] theorem State.reply_core (s : State) (r : Reply) :
    (s.reply r).core = s.core := rfl

@[simp] theorem State.reply_stream (s : State) (r : Reply) :
    (s.reply r).stream = s.stream := rfl

@[simp] theorem State.reply_agenda (s : State) (r : Reply) :
    (s.reply r).agenda = s.agenda := rfl

@[simp] theorem State.reply_fresh (s : State) (r : Reply) :
    (s.reply r).fresh = s.fresh := rfl

@[simp] theorem State.reply_tick (s : State) (r : Reply) :
    (s.reply r).tick = s.tick := rfl

@[simp] theorem State.reply_sub (s : State) (r : Reply) :
    (s.reply r).sub = s.sub := rfl

@[simp] theorem State.reply_cycle (s : State) (r : Reply) :
    (s.reply r).cycle = s.cycle := rfl

@[simp] theorem State.reply_cores (s : State) (r : Reply) :
    (s.reply r).cores = s.cores := rfl

@[simp] theorem State.reply_islands (s : State) (r : Reply) :
    (s.reply r).islands = s.islands := rfl

@[simp] theorem State.reply_dies (s : State) (r : Reply) :
    (s.reply r).dies = s.dies := rfl

@[simp] theorem State.reply_mem (s : State) (r : Reply) :
    (s.reply r).mem = s.mem := rfl

@[simp] theorem State.reply_memBad (s : State) (r : Reply) :
    (s.reply r).memBad = s.memBad := rfl

@[simp] theorem State.reply_live (s : State) (r : Reply) :
    (s.reply r).live = s.live := rfl

@[simp] theorem State.reply_tenants (s : State) (r : Reply) :
    (s.reply r).tenants = s.tenants := rfl

@[simp] theorem State.reply_far (s : State) (r : Reply) :
    (s.reply r).far = s.far := rfl

@[simp] theorem State.reply_ctxs (s : State) (r : Reply) :
    (s.reply r).ctxs = s.ctxs := rfl

@[simp] theorem State.reply_launches (s : State) (r : Reply) :
    (s.reply r).launches = s.launches := rfl

@[simp] theorem State.reply_nextLaunch (s : State) (r : Reply) :
    (s.reply r).nextLaunch = s.nextLaunch := rfl

@[simp] theorem State.reply_power (s : State) (r : Reply) :
    (s.reply r).power = s.power := rfl

@[simp] theorem State.reply_service (s : State) (r : Reply) :
    (s.reply r).service = s.service := rfl

@[simp] theorem State.reply_serving (s : State) (r : Reply) :
    (s.reply r).serving = s.serving := rfl

@[simp] theorem State.reply_failedStacks (s : State) (r : Reply) :
    (s.reply r).failedStacks = s.failedStacks := rfl

@[simp] theorem State.reply_failedLinks (s : State) (r : Reply) :
    (s.reply r).failedLinks = s.failedLinks := rfl

@[simp] theorem State.reply_memctl (s : State) (r : Reply) :
    (s.reply r).memctl = s.memctl := rfl

@[simp] theorem State.reply_fabric (s : State) (r : Reply) :
    (s.reply r).fabric = s.fabric := rfl

/-! ## freeValue -/

@[simp] theorem State.freeValue_core (s : State) :
    (s.freeValue.2).core = s.core := rfl

@[simp] theorem State.freeValue_stream (s : State) :
    (s.freeValue.2).stream = s.stream := rfl

@[simp] theorem State.freeValue_agenda (s : State) :
    (s.freeValue.2).agenda = s.agenda := rfl

@[simp] theorem State.freeValue_tick (s : State) :
    (s.freeValue.2).tick = s.tick := rfl

@[simp] theorem State.freeValue_sub (s : State) :
    (s.freeValue.2).sub = s.sub := rfl

@[simp] theorem State.freeValue_cycle (s : State) :
    (s.freeValue.2).cycle = s.cycle := rfl

@[simp] theorem State.freeValue_cores (s : State) :
    (s.freeValue.2).cores = s.cores := rfl

@[simp] theorem State.freeValue_islands (s : State) :
    (s.freeValue.2).islands = s.islands := rfl

@[simp] theorem State.freeValue_dies (s : State) :
    (s.freeValue.2).dies = s.dies := rfl

@[simp] theorem State.freeValue_mem (s : State) :
    (s.freeValue.2).mem = s.mem := rfl

@[simp] theorem State.freeValue_memBad (s : State) :
    (s.freeValue.2).memBad = s.memBad := rfl

@[simp] theorem State.freeValue_live (s : State) :
    (s.freeValue.2).live = s.live := rfl

@[simp] theorem State.freeValue_tenants (s : State) :
    (s.freeValue.2).tenants = s.tenants := rfl

@[simp] theorem State.freeValue_far (s : State) :
    (s.freeValue.2).far = s.far := rfl

@[simp] theorem State.freeValue_ctxs (s : State) :
    (s.freeValue.2).ctxs = s.ctxs := rfl

@[simp] theorem State.freeValue_launches (s : State) :
    (s.freeValue.2).launches = s.launches := rfl

@[simp] theorem State.freeValue_nextLaunch (s : State) :
    (s.freeValue.2).nextLaunch = s.nextLaunch := rfl

@[simp] theorem State.freeValue_power (s : State) :
    (s.freeValue.2).power = s.power := rfl

@[simp] theorem State.freeValue_service (s : State) :
    (s.freeValue.2).service = s.service := rfl

@[simp] theorem State.freeValue_serving (s : State) :
    (s.freeValue.2).serving = s.serving := rfl

@[simp] theorem State.freeValue_failedStacks (s : State) :
    (s.freeValue.2).failedStacks = s.failedStacks := rfl

@[simp] theorem State.freeValue_failedLinks (s : State) :
    (s.freeValue.2).failedLinks = s.failedLinks := rfl

@[simp] theorem State.freeValue_host (s : State) :
    (s.freeValue.2).host = s.host := rfl

@[simp] theorem State.freeValue_memctl (s : State) :
    (s.freeValue.2).memctl = s.memctl := rfl

@[simp] theorem State.freeValue_fabric (s : State) :
    (s.freeValue.2).fabric = s.fabric := rfl

/-! ## turn -/

@[simp] theorem State.turn_agenda (s : State) (c : CoreId) (t : StreamId) :
    (s.turn c t).agenda = s.agenda := rfl

@[simp] theorem State.turn_fresh (s : State) (c : CoreId) (t : StreamId) :
    (s.turn c t).fresh = s.fresh := rfl

@[simp] theorem State.turn_tick (s : State) (c : CoreId) (t : StreamId) :
    (s.turn c t).tick = s.tick := rfl

@[simp] theorem State.turn_sub (s : State) (c : CoreId) (t : StreamId) :
    (s.turn c t).sub = s.sub := rfl

@[simp] theorem State.turn_cycle (s : State) (c : CoreId) (t : StreamId) :
    (s.turn c t).cycle = s.cycle := rfl

@[simp] theorem State.turn_cores (s : State) (c : CoreId) (t : StreamId) :
    (s.turn c t).cores = s.cores := rfl

@[simp] theorem State.turn_islands (s : State) (c : CoreId) (t : StreamId) :
    (s.turn c t).islands = s.islands := rfl

@[simp] theorem State.turn_dies (s : State) (c : CoreId) (t : StreamId) :
    (s.turn c t).dies = s.dies := rfl

@[simp] theorem State.turn_mem (s : State) (c : CoreId) (t : StreamId) :
    (s.turn c t).mem = s.mem := rfl

@[simp] theorem State.turn_memBad (s : State) (c : CoreId) (t : StreamId) :
    (s.turn c t).memBad = s.memBad := rfl

@[simp] theorem State.turn_live (s : State) (c : CoreId) (t : StreamId) :
    (s.turn c t).live = s.live := rfl

@[simp] theorem State.turn_tenants (s : State) (c : CoreId) (t : StreamId) :
    (s.turn c t).tenants = s.tenants := rfl

@[simp] theorem State.turn_far (s : State) (c : CoreId) (t : StreamId) :
    (s.turn c t).far = s.far := rfl

@[simp] theorem State.turn_ctxs (s : State) (c : CoreId) (t : StreamId) :
    (s.turn c t).ctxs = s.ctxs := rfl

@[simp] theorem State.turn_launches (s : State) (c : CoreId) (t : StreamId) :
    (s.turn c t).launches = s.launches := rfl

@[simp] theorem State.turn_nextLaunch (s : State) (c : CoreId) (t : StreamId) :
    (s.turn c t).nextLaunch = s.nextLaunch := rfl

@[simp] theorem State.turn_power (s : State) (c : CoreId) (t : StreamId) :
    (s.turn c t).power = s.power := rfl

@[simp] theorem State.turn_service (s : State) (c : CoreId) (t : StreamId) :
    (s.turn c t).service = s.service := rfl

@[simp] theorem State.turn_serving (s : State) (c : CoreId) (t : StreamId) :
    (s.turn c t).serving = s.serving := rfl

@[simp] theorem State.turn_failedStacks (s : State) (c : CoreId) (t : StreamId) :
    (s.turn c t).failedStacks = s.failedStacks := rfl

@[simp] theorem State.turn_failedLinks (s : State) (c : CoreId) (t : StreamId) :
    (s.turn c t).failedLinks = s.failedLinks := rfl

@[simp] theorem State.turn_host (s : State) (c : CoreId) (t : StreamId) :
    (s.turn c t).host = s.host := rfl

@[simp] theorem State.turn_memctl (s : State) (c : CoreId) (t : StreamId) :
    (s.turn c t).memctl = s.memctl := rfl

@[simp] theorem State.turn_fabric (s : State) (c : CoreId) (t : StreamId) :
    (s.turn c t).fabric = s.fabric := rfl

/-! ## modFabric -/

@[simp] theorem State.modFabric_core (s : State) (f : Fabric → Fabric) :
    (s.modFabric f).core = s.core := rfl

@[simp] theorem State.modFabric_stream (s : State) (f : Fabric → Fabric) :
    (s.modFabric f).stream = s.stream := rfl

@[simp] theorem State.modFabric_agenda (s : State) (f : Fabric → Fabric) :
    (s.modFabric f).agenda = s.agenda := rfl

@[simp] theorem State.modFabric_fresh (s : State) (f : Fabric → Fabric) :
    (s.modFabric f).fresh = s.fresh := rfl

@[simp] theorem State.modFabric_tick (s : State) (f : Fabric → Fabric) :
    (s.modFabric f).tick = s.tick := rfl

@[simp] theorem State.modFabric_sub (s : State) (f : Fabric → Fabric) :
    (s.modFabric f).sub = s.sub := rfl

@[simp] theorem State.modFabric_cycle (s : State) (f : Fabric → Fabric) :
    (s.modFabric f).cycle = s.cycle := rfl

@[simp] theorem State.modFabric_cores (s : State) (f : Fabric → Fabric) :
    (s.modFabric f).cores = s.cores := rfl

@[simp] theorem State.modFabric_islands (s : State) (f : Fabric → Fabric) :
    (s.modFabric f).islands = s.islands := rfl

@[simp] theorem State.modFabric_dies (s : State) (f : Fabric → Fabric) :
    (s.modFabric f).dies = s.dies := rfl

@[simp] theorem State.modFabric_mem (s : State) (f : Fabric → Fabric) :
    (s.modFabric f).mem = s.mem := rfl

@[simp] theorem State.modFabric_memBad (s : State) (f : Fabric → Fabric) :
    (s.modFabric f).memBad = s.memBad := rfl

@[simp] theorem State.modFabric_live (s : State) (f : Fabric → Fabric) :
    (s.modFabric f).live = s.live := rfl

@[simp] theorem State.modFabric_tenants (s : State) (f : Fabric → Fabric) :
    (s.modFabric f).tenants = s.tenants := rfl

@[simp] theorem State.modFabric_far (s : State) (f : Fabric → Fabric) :
    (s.modFabric f).far = s.far := rfl

@[simp] theorem State.modFabric_ctxs (s : State) (f : Fabric → Fabric) :
    (s.modFabric f).ctxs = s.ctxs := rfl

@[simp] theorem State.modFabric_launches (s : State) (f : Fabric → Fabric) :
    (s.modFabric f).launches = s.launches := rfl

@[simp] theorem State.modFabric_nextLaunch (s : State) (f : Fabric → Fabric) :
    (s.modFabric f).nextLaunch = s.nextLaunch := rfl

@[simp] theorem State.modFabric_power (s : State) (f : Fabric → Fabric) :
    (s.modFabric f).power = s.power := rfl

@[simp] theorem State.modFabric_service (s : State) (f : Fabric → Fabric) :
    (s.modFabric f).service = s.service := rfl

@[simp] theorem State.modFabric_serving (s : State) (f : Fabric → Fabric) :
    (s.modFabric f).serving = s.serving := rfl

@[simp] theorem State.modFabric_failedStacks (s : State) (f : Fabric → Fabric) :
    (s.modFabric f).failedStacks = s.failedStacks := rfl

@[simp] theorem State.modFabric_failedLinks (s : State) (f : Fabric → Fabric) :
    (s.modFabric f).failedLinks = s.failedLinks := rfl

@[simp] theorem State.modFabric_host (s : State) (f : Fabric → Fabric) :
    (s.modFabric f).host = s.host := rfl

@[simp] theorem State.modFabric_memctl (s : State) (f : Fabric → Fabric) :
    (s.modFabric f).memctl = s.memctl := rfl

/-! ## stallSeq -/

@[simp] theorem State.stallSeq_core (s : State) (k : Stall) :
    (s.stallSeq k).core = s.core := rfl

@[simp] theorem State.stallSeq_stream (s : State) (k : Stall) :
    (s.stallSeq k).stream = s.stream := rfl

@[simp] theorem State.stallSeq_agenda (s : State) (k : Stall) :
    (s.stallSeq k).agenda = s.agenda := rfl

@[simp] theorem State.stallSeq_fresh (s : State) (k : Stall) :
    (s.stallSeq k).fresh = s.fresh := rfl

@[simp] theorem State.stallSeq_tick (s : State) (k : Stall) :
    (s.stallSeq k).tick = s.tick := rfl

@[simp] theorem State.stallSeq_sub (s : State) (k : Stall) :
    (s.stallSeq k).sub = s.sub := rfl

@[simp] theorem State.stallSeq_cycle (s : State) (k : Stall) :
    (s.stallSeq k).cycle = s.cycle := rfl

@[simp] theorem State.stallSeq_islands (s : State) (k : Stall) :
    (s.stallSeq k).islands = s.islands := rfl

@[simp] theorem State.stallSeq_dies (s : State) (k : Stall) :
    (s.stallSeq k).dies = s.dies := rfl

@[simp] theorem State.stallSeq_mem (s : State) (k : Stall) :
    (s.stallSeq k).mem = s.mem := rfl

@[simp] theorem State.stallSeq_memBad (s : State) (k : Stall) :
    (s.stallSeq k).memBad = s.memBad := rfl

@[simp] theorem State.stallSeq_live (s : State) (k : Stall) :
    (s.stallSeq k).live = s.live := rfl

@[simp] theorem State.stallSeq_tenants (s : State) (k : Stall) :
    (s.stallSeq k).tenants = s.tenants := rfl

@[simp] theorem State.stallSeq_far (s : State) (k : Stall) :
    (s.stallSeq k).far = s.far := rfl

@[simp] theorem State.stallSeq_ctxs (s : State) (k : Stall) :
    (s.stallSeq k).ctxs = s.ctxs := rfl

@[simp] theorem State.stallSeq_launches (s : State) (k : Stall) :
    (s.stallSeq k).launches = s.launches := rfl

@[simp] theorem State.stallSeq_nextLaunch (s : State) (k : Stall) :
    (s.stallSeq k).nextLaunch = s.nextLaunch := rfl

@[simp] theorem State.stallSeq_power (s : State) (k : Stall) :
    (s.stallSeq k).power = s.power := rfl

@[simp] theorem State.stallSeq_service (s : State) (k : Stall) :
    (s.stallSeq k).service = s.service := rfl

@[simp] theorem State.stallSeq_serving (s : State) (k : Stall) :
    (s.stallSeq k).serving = s.serving := rfl

@[simp] theorem State.stallSeq_failedStacks (s : State) (k : Stall) :
    (s.stallSeq k).failedStacks = s.failedStacks := rfl

@[simp] theorem State.stallSeq_failedLinks (s : State) (k : Stall) :
    (s.stallSeq k).failedLinks = s.failedLinks := rfl

@[simp] theorem State.stallSeq_host (s : State) (k : Stall) :
    (s.stallSeq k).host = s.host := rfl

@[simp] theorem State.stallSeq_memctl (s : State) (k : Stall) :
    (s.stallSeq k).memctl = s.memctl := rfl

@[simp] theorem State.stallSeq_fabric (s : State) (k : Stall) :
    (s.stallSeq k).fabric = s.fabric := rfl

/-! ## Sequencers, queues and engine streams of a core -/

@[simp] theorem Core.modSeq_unit (k : Core) (q : SeqId) (f : Seq → Seq) :
    (k.modSeq q f).unit = k.unit := by cases q <;> rfl

@[simp] theorem Core.modSeq_ax0 (k : Core) (q : SeqId) (f : Seq → Seq) :
    (k.modSeq q f).ax0 = k.ax0 := by cases q <;> rfl

@[simp] theorem Core.modSeq_ax1 (k : Core) (q : SeqId) (f : Seq → Seq) :
    (k.modSeq q f).ax1 = k.ax1 := by cases q <;> rfl

@[simp] theorem Core.modSeq_xa0 (k : Core) (q : SeqId) (f : Seq → Seq) :
    (k.modSeq q f).xa0 = k.xa0 := by cases q <;> rfl

@[simp] theorem Core.modSeq_xa1 (k : Core) (q : SeqId) (f : Seq → Seq) :
    (k.modSeq q f).xa1 = k.xa1 := by cases q <;> rfl

@[simp] theorem Core.modSeq_axOut (k : Core) (q : SeqId) (f : Seq → Seq) :
    (k.modSeq q f).axOut = k.axOut := by cases q <;> rfl

@[simp] theorem Core.modSeq_xaOut (k : Core) (q : SeqId) (f : Seq → Seq) :
    (k.modSeq q f).xaOut = k.xaOut := by cases q <;> rfl

@[simp] theorem Core.modSeq_sys (k : Core) (q : SeqId) (f : Seq → Seq) :
    (k.modSeq q f).sys = k.sys := by cases q <;> rfl

@[simp] theorem Core.modSeq_divReq (k : Core) (q : SeqId) (f : Seq → Seq) :
    (k.modSeq q f).divReq = k.divReq := by cases q <;> rfl

@[simp] theorem Core.modSeq_refused (k : Core) (q : SeqId) (f : Seq → Seq) :
    (k.modSeq q f).refused = k.refused := by cases q <;> rfl

@[simp] theorem Core.modSeq_code (k : Core) (q : SeqId) (f : Seq → Seq) :
    (k.modSeq q f).code = k.code := by cases q <;> rfl

@[simp] theorem Core.modSeq_codeBad (k : Core) (q : SeqId) (f : Seq → Seq) :
    (k.modSeq q f).codeBad = k.codeBad := by cases q <;> rfl

@[simp] theorem Core.modSeq_urs (k : Core) (q : SeqId) (f : Seq → Seq) :
    (k.modSeq q f).urs = k.urs := by cases q <;> rfl

@[simp] theorem Core.modSeq_ursBad (k : Core) (q : SeqId) (f : Seq → Seq) :
    (k.modSeq q f).ursBad = k.ursBad := by cases q <;> rfl

@[simp] theorem Core.modSeq_valid (k : Core) (q : SeqId) (f : Seq → Seq) :
    (k.modSeq q f).valid = k.valid := by cases q <;> rfl

@[simp] theorem Core.modSeq_sof (k : Core) (q : SeqId) (f : Seq → Seq) :
    (k.modSeq q f).sof = k.sof := by cases q <;> rfl

@[simp] theorem Core.modSeq_latch (k : Core) (q : SeqId) (f : Seq → Seq) :
    (k.modSeq q f).latch = k.latch := by cases q <;> rfl

@[simp] theorem Core.modSeq_sofBad (k : Core) (q : SeqId) (f : Seq → Seq) :
    (k.modSeq q f).sofBad = k.sofBad := by cases q <;> rfl

@[simp] theorem Core.modSeq_latchBad (k : Core) (q : SeqId) (f : Seq → Seq) :
    (k.modSeq q f).latchBad = k.latchBad := by cases q <;> rfl

@[simp] theorem Core.modSeq_spad (k : Core) (q : SeqId) (f : Seq → Seq) :
    (k.modSeq q f).spad = k.spad := by cases q <;> rfl

@[simp] theorem Core.modSeq_spadBad (k : Core) (q : SeqId) (f : Seq → Seq) :
    (k.modSeq q f).spadBad = k.spadBad := by cases q <;> rfl

@[simp] theorem Core.modSeq_sems (k : Core) (q : SeqId) (f : Seq → Seq) :
    (k.modSeq q f).sems = k.sems := by cases q <;> rfl

@[simp] theorem Core.modSeq_waits (k : Core) (q : SeqId) (f : Seq → Seq) :
    (k.modSeq q f).waits = k.waits := by cases q <;> rfl

@[simp] theorem Core.modSeq_mEng (k : Core) (q : SeqId) (f : Seq → Seq) :
    (k.modSeq q f).mEng = k.mEng := by cases q <;> rfl

@[simp] theorem Core.modSeq_vEng (k : Core) (q : SeqId) (f : Seq → Seq) :
    (k.modSeq q f).vEng = k.vEng := by cases q <;> rfl

@[simp] theorem Core.modSeq_c0Eng (k : Core) (q : SeqId) (f : Seq → Seq) :
    (k.modSeq q f).c0Eng = k.c0Eng := by cases q <;> rfl

@[simp] theorem Core.modSeq_c1Eng (k : Core) (q : SeqId) (f : Seq → Seq) :
    (k.modSeq q f).c1Eng = k.c1Eng := by cases q <;> rfl

@[simp] theorem Core.modSeq_serir (k : Core) (q : SeqId) (f : Seq → Seq) :
    (k.modSeq q f).serir = k.serir := by cases q <;> rfl

@[simp] theorem Core.modSeq_erg (k : Core) (q : SeqId) (f : Seq → Seq) :
    (k.modSeq q f).erg = k.erg := by cases q <;> rfl

@[simp] theorem Core.modSeq_tiles (k : Core) (q : SeqId) (f : Seq → Seq) :
    (k.modSeq q f).tiles = k.tiles := by cases q <;> rfl

@[simp] theorem Core.modSeq_nest0 (k : Core) (q : SeqId) (f : Seq → Seq) :
    (k.modSeq q f).nest0 = k.nest0 := by cases q <;> rfl

@[simp] theorem Core.modSeq_nest1 (k : Core) (q : SeqId) (f : Seq → Seq) :
    (k.modSeq q f).nest1 = k.nest1 := by cases q <;> rfl

@[simp] theorem Core.modSeq_stop (k : Core) (q : SeqId) (f : Seq → Seq) :
    (k.modSeq q f).stop = k.stop := by cases q <;> rfl

@[simp] theorem Core.modSeq_handled (k : Core) (q : SeqId) (f : Seq → Seq) :
    (k.modSeq q f).handled = k.handled := by cases q <;> rfl

@[simp] theorem Core.modSeq_periodBytes (k : Core) (q : SeqId) (f : Seq → Seq) :
    (k.modSeq q f).periodBytes = k.periodBytes := by cases q <;> rfl

@[simp] theorem Core.modSeq_seg (k : Core) (q : SeqId) (f : Seq → Seq) :
    (k.modSeq q f).seg = k.seg := by cases q <;> rfl

@[simp] theorem Core.modSeq_check (k : Core) (q : SeqId) (f : Seq → Seq) :
    (k.modSeq q f).check = k.check := by cases q <;> rfl

@[simp] theorem Core.modEng_unit (k : Core) (e : Eng) (f : Stream → Stream) :
    (k.modEng e f).unit = k.unit := by cases e <;> rfl

@[simp] theorem Core.modEng_a (k : Core) (e : Eng) (f : Stream → Stream) :
    (k.modEng e f).a = k.a := by cases e <;> rfl

@[simp] theorem Core.modEng_x (k : Core) (e : Eng) (f : Stream → Stream) :
    (k.modEng e f).x = k.x := by cases e <;> rfl

@[simp] theorem Core.modEng_ax0 (k : Core) (e : Eng) (f : Stream → Stream) :
    (k.modEng e f).ax0 = k.ax0 := by cases e <;> rfl

@[simp] theorem Core.modEng_ax1 (k : Core) (e : Eng) (f : Stream → Stream) :
    (k.modEng e f).ax1 = k.ax1 := by cases e <;> rfl

@[simp] theorem Core.modEng_xa0 (k : Core) (e : Eng) (f : Stream → Stream) :
    (k.modEng e f).xa0 = k.xa0 := by cases e <;> rfl

@[simp] theorem Core.modEng_xa1 (k : Core) (e : Eng) (f : Stream → Stream) :
    (k.modEng e f).xa1 = k.xa1 := by cases e <;> rfl

@[simp] theorem Core.modEng_axOut (k : Core) (e : Eng) (f : Stream → Stream) :
    (k.modEng e f).axOut = k.axOut := by cases e <;> rfl

@[simp] theorem Core.modEng_xaOut (k : Core) (e : Eng) (f : Stream → Stream) :
    (k.modEng e f).xaOut = k.xaOut := by cases e <;> rfl

@[simp] theorem Core.modEng_sys (k : Core) (e : Eng) (f : Stream → Stream) :
    (k.modEng e f).sys = k.sys := by cases e <;> rfl

@[simp] theorem Core.modEng_divReq (k : Core) (e : Eng) (f : Stream → Stream) :
    (k.modEng e f).divReq = k.divReq := by cases e <;> rfl

@[simp] theorem Core.modEng_refused (k : Core) (e : Eng) (f : Stream → Stream) :
    (k.modEng e f).refused = k.refused := by cases e <;> rfl

@[simp] theorem Core.modEng_code (k : Core) (e : Eng) (f : Stream → Stream) :
    (k.modEng e f).code = k.code := by cases e <;> rfl

@[simp] theorem Core.modEng_codeBad (k : Core) (e : Eng) (f : Stream → Stream) :
    (k.modEng e f).codeBad = k.codeBad := by cases e <;> rfl

@[simp] theorem Core.modEng_urs (k : Core) (e : Eng) (f : Stream → Stream) :
    (k.modEng e f).urs = k.urs := by cases e <;> rfl

@[simp] theorem Core.modEng_ursBad (k : Core) (e : Eng) (f : Stream → Stream) :
    (k.modEng e f).ursBad = k.ursBad := by cases e <;> rfl

@[simp] theorem Core.modEng_valid (k : Core) (e : Eng) (f : Stream → Stream) :
    (k.modEng e f).valid = k.valid := by cases e <;> rfl

@[simp] theorem Core.modEng_sof (k : Core) (e : Eng) (f : Stream → Stream) :
    (k.modEng e f).sof = k.sof := by cases e <;> rfl

@[simp] theorem Core.modEng_latch (k : Core) (e : Eng) (f : Stream → Stream) :
    (k.modEng e f).latch = k.latch := by cases e <;> rfl

@[simp] theorem Core.modEng_sofBad (k : Core) (e : Eng) (f : Stream → Stream) :
    (k.modEng e f).sofBad = k.sofBad := by cases e <;> rfl

@[simp] theorem Core.modEng_latchBad (k : Core) (e : Eng) (f : Stream → Stream) :
    (k.modEng e f).latchBad = k.latchBad := by cases e <;> rfl

@[simp] theorem Core.modEng_spad (k : Core) (e : Eng) (f : Stream → Stream) :
    (k.modEng e f).spad = k.spad := by cases e <;> rfl

@[simp] theorem Core.modEng_spadBad (k : Core) (e : Eng) (f : Stream → Stream) :
    (k.modEng e f).spadBad = k.spadBad := by cases e <;> rfl

@[simp] theorem Core.modEng_sems (k : Core) (e : Eng) (f : Stream → Stream) :
    (k.modEng e f).sems = k.sems := by cases e <;> rfl

@[simp] theorem Core.modEng_waits (k : Core) (e : Eng) (f : Stream → Stream) :
    (k.modEng e f).waits = k.waits := by cases e <;> rfl

@[simp] theorem Core.modEng_serir (k : Core) (e : Eng) (f : Stream → Stream) :
    (k.modEng e f).serir = k.serir := by cases e <;> rfl

@[simp] theorem Core.modEng_erg (k : Core) (e : Eng) (f : Stream → Stream) :
    (k.modEng e f).erg = k.erg := by cases e <;> rfl

@[simp] theorem Core.modEng_tiles (k : Core) (e : Eng) (f : Stream → Stream) :
    (k.modEng e f).tiles = k.tiles := by cases e <;> rfl

@[simp] theorem Core.modEng_nest0 (k : Core) (e : Eng) (f : Stream → Stream) :
    (k.modEng e f).nest0 = k.nest0 := by cases e <;> rfl

@[simp] theorem Core.modEng_nest1 (k : Core) (e : Eng) (f : Stream → Stream) :
    (k.modEng e f).nest1 = k.nest1 := by cases e <;> rfl

@[simp] theorem Core.modEng_stop (k : Core) (e : Eng) (f : Stream → Stream) :
    (k.modEng e f).stop = k.stop := by cases e <;> rfl

@[simp] theorem Core.modEng_handled (k : Core) (e : Eng) (f : Stream → Stream) :
    (k.modEng e f).handled = k.handled := by cases e <;> rfl

@[simp] theorem Core.modEng_periodBytes (k : Core) (e : Eng) (f : Stream → Stream) :
    (k.modEng e f).periodBytes = k.periodBytes := by cases e <;> rfl

@[simp] theorem Core.modEng_seg (k : Core) (e : Eng) (f : Stream → Stream) :
    (k.modEng e f).seg = k.seg := by cases e <;> rfl

@[simp] theorem Core.modEng_check (k : Core) (e : Eng) (f : Stream → Stream) :
    (k.modEng e f).check = k.check := by cases e <;> rfl

@[simp] theorem Core.setInbound_unit (k : Core) (q : SeqId) (b : Bool) (l : List Slot) :
    (k.setInbound q b l).unit = k.unit := by cases q <;> cases b <;> rfl

@[simp] theorem Core.setInbound_a (k : Core) (q : SeqId) (b : Bool) (l : List Slot) :
    (k.setInbound q b l).a = k.a := by cases q <;> cases b <;> rfl

@[simp] theorem Core.setInbound_x (k : Core) (q : SeqId) (b : Bool) (l : List Slot) :
    (k.setInbound q b l).x = k.x := by cases q <;> cases b <;> rfl

@[simp] theorem Core.setInbound_axOut (k : Core) (q : SeqId) (b : Bool) (l : List Slot) :
    (k.setInbound q b l).axOut = k.axOut := by cases q <;> cases b <;> rfl

@[simp] theorem Core.setInbound_xaOut (k : Core) (q : SeqId) (b : Bool) (l : List Slot) :
    (k.setInbound q b l).xaOut = k.xaOut := by cases q <;> cases b <;> rfl

@[simp] theorem Core.setInbound_sys (k : Core) (q : SeqId) (b : Bool) (l : List Slot) :
    (k.setInbound q b l).sys = k.sys := by cases q <;> cases b <;> rfl

@[simp] theorem Core.setInbound_divReq (k : Core) (q : SeqId) (b : Bool) (l : List Slot) :
    (k.setInbound q b l).divReq = k.divReq := by cases q <;> cases b <;> rfl

@[simp] theorem Core.setInbound_refused (k : Core) (q : SeqId) (b : Bool) (l : List Slot) :
    (k.setInbound q b l).refused = k.refused := by cases q <;> cases b <;> rfl

@[simp] theorem Core.setInbound_code (k : Core) (q : SeqId) (b : Bool) (l : List Slot) :
    (k.setInbound q b l).code = k.code := by cases q <;> cases b <;> rfl

@[simp] theorem Core.setInbound_codeBad (k : Core) (q : SeqId) (b : Bool) (l : List Slot) :
    (k.setInbound q b l).codeBad = k.codeBad := by cases q <;> cases b <;> rfl

@[simp] theorem Core.setInbound_urs (k : Core) (q : SeqId) (b : Bool) (l : List Slot) :
    (k.setInbound q b l).urs = k.urs := by cases q <;> cases b <;> rfl

@[simp] theorem Core.setInbound_ursBad (k : Core) (q : SeqId) (b : Bool) (l : List Slot) :
    (k.setInbound q b l).ursBad = k.ursBad := by cases q <;> cases b <;> rfl

@[simp] theorem Core.setInbound_valid (k : Core) (q : SeqId) (b : Bool) (l : List Slot) :
    (k.setInbound q b l).valid = k.valid := by cases q <;> cases b <;> rfl

@[simp] theorem Core.setInbound_sof (k : Core) (q : SeqId) (b : Bool) (l : List Slot) :
    (k.setInbound q b l).sof = k.sof := by cases q <;> cases b <;> rfl

@[simp] theorem Core.setInbound_latch (k : Core) (q : SeqId) (b : Bool) (l : List Slot) :
    (k.setInbound q b l).latch = k.latch := by cases q <;> cases b <;> rfl

@[simp] theorem Core.setInbound_sofBad (k : Core) (q : SeqId) (b : Bool) (l : List Slot) :
    (k.setInbound q b l).sofBad = k.sofBad := by cases q <;> cases b <;> rfl

@[simp] theorem Core.setInbound_latchBad (k : Core) (q : SeqId) (b : Bool) (l : List Slot) :
    (k.setInbound q b l).latchBad = k.latchBad := by cases q <;> cases b <;> rfl

@[simp] theorem Core.setInbound_spad (k : Core) (q : SeqId) (b : Bool) (l : List Slot) :
    (k.setInbound q b l).spad = k.spad := by cases q <;> cases b <;> rfl

@[simp] theorem Core.setInbound_spadBad (k : Core) (q : SeqId) (b : Bool) (l : List Slot) :
    (k.setInbound q b l).spadBad = k.spadBad := by cases q <;> cases b <;> rfl

@[simp] theorem Core.setInbound_sems (k : Core) (q : SeqId) (b : Bool) (l : List Slot) :
    (k.setInbound q b l).sems = k.sems := by cases q <;> cases b <;> rfl

@[simp] theorem Core.setInbound_waits (k : Core) (q : SeqId) (b : Bool) (l : List Slot) :
    (k.setInbound q b l).waits = k.waits := by cases q <;> cases b <;> rfl

@[simp] theorem Core.setInbound_mEng (k : Core) (q : SeqId) (b : Bool) (l : List Slot) :
    (k.setInbound q b l).mEng = k.mEng := by cases q <;> cases b <;> rfl

@[simp] theorem Core.setInbound_vEng (k : Core) (q : SeqId) (b : Bool) (l : List Slot) :
    (k.setInbound q b l).vEng = k.vEng := by cases q <;> cases b <;> rfl

@[simp] theorem Core.setInbound_c0Eng (k : Core) (q : SeqId) (b : Bool) (l : List Slot) :
    (k.setInbound q b l).c0Eng = k.c0Eng := by cases q <;> cases b <;> rfl

@[simp] theorem Core.setInbound_c1Eng (k : Core) (q : SeqId) (b : Bool) (l : List Slot) :
    (k.setInbound q b l).c1Eng = k.c1Eng := by cases q <;> cases b <;> rfl

@[simp] theorem Core.setInbound_serir (k : Core) (q : SeqId) (b : Bool) (l : List Slot) :
    (k.setInbound q b l).serir = k.serir := by cases q <;> cases b <;> rfl

@[simp] theorem Core.setInbound_erg (k : Core) (q : SeqId) (b : Bool) (l : List Slot) :
    (k.setInbound q b l).erg = k.erg := by cases q <;> cases b <;> rfl

@[simp] theorem Core.setInbound_tiles (k : Core) (q : SeqId) (b : Bool) (l : List Slot) :
    (k.setInbound q b l).tiles = k.tiles := by cases q <;> cases b <;> rfl

@[simp] theorem Core.setInbound_nest0 (k : Core) (q : SeqId) (b : Bool) (l : List Slot) :
    (k.setInbound q b l).nest0 = k.nest0 := by cases q <;> cases b <;> rfl

@[simp] theorem Core.setInbound_nest1 (k : Core) (q : SeqId) (b : Bool) (l : List Slot) :
    (k.setInbound q b l).nest1 = k.nest1 := by cases q <;> cases b <;> rfl

@[simp] theorem Core.setInbound_stop (k : Core) (q : SeqId) (b : Bool) (l : List Slot) :
    (k.setInbound q b l).stop = k.stop := by cases q <;> cases b <;> rfl

@[simp] theorem Core.setInbound_handled (k : Core) (q : SeqId) (b : Bool) (l : List Slot) :
    (k.setInbound q b l).handled = k.handled := by cases q <;> cases b <;> rfl

@[simp] theorem Core.setInbound_periodBytes (k : Core) (q : SeqId) (b : Bool) (l : List Slot) :
    (k.setInbound q b l).periodBytes = k.periodBytes := by cases q <;> cases b <;> rfl

@[simp] theorem Core.setInbound_seg (k : Core) (q : SeqId) (b : Bool) (l : List Slot) :
    (k.setInbound q b l).seg = k.seg := by cases q <;> cases b <;> rfl

@[simp] theorem Core.setInbound_check (k : Core) (q : SeqId) (b : Bool) (l : List Slot) :
    (k.setInbound q b l).check = k.check := by cases q <;> cases b <;> rfl

@[simp] theorem Core.setOutbound_unit (k : Core) (q : SeqId) (b : Bool) (l : List Slot) :
    (k.setOutbound q b l).unit = k.unit := by cases q <;> cases b <;> rfl

@[simp] theorem Core.setOutbound_a (k : Core) (q : SeqId) (b : Bool) (l : List Slot) :
    (k.setOutbound q b l).a = k.a := by cases q <;> cases b <;> rfl

@[simp] theorem Core.setOutbound_x (k : Core) (q : SeqId) (b : Bool) (l : List Slot) :
    (k.setOutbound q b l).x = k.x := by cases q <;> cases b <;> rfl

@[simp] theorem Core.setOutbound_axOut (k : Core) (q : SeqId) (b : Bool) (l : List Slot) :
    (k.setOutbound q b l).axOut = k.axOut := by cases q <;> cases b <;> rfl

@[simp] theorem Core.setOutbound_xaOut (k : Core) (q : SeqId) (b : Bool) (l : List Slot) :
    (k.setOutbound q b l).xaOut = k.xaOut := by cases q <;> cases b <;> rfl

@[simp] theorem Core.setOutbound_sys (k : Core) (q : SeqId) (b : Bool) (l : List Slot) :
    (k.setOutbound q b l).sys = k.sys := by cases q <;> cases b <;> rfl

@[simp] theorem Core.setOutbound_divReq (k : Core) (q : SeqId) (b : Bool) (l : List Slot) :
    (k.setOutbound q b l).divReq = k.divReq := by cases q <;> cases b <;> rfl

@[simp] theorem Core.setOutbound_refused (k : Core) (q : SeqId) (b : Bool) (l : List Slot) :
    (k.setOutbound q b l).refused = k.refused := by cases q <;> cases b <;> rfl

@[simp] theorem Core.setOutbound_code (k : Core) (q : SeqId) (b : Bool) (l : List Slot) :
    (k.setOutbound q b l).code = k.code := by cases q <;> cases b <;> rfl

@[simp] theorem Core.setOutbound_codeBad (k : Core) (q : SeqId) (b : Bool) (l : List Slot) :
    (k.setOutbound q b l).codeBad = k.codeBad := by cases q <;> cases b <;> rfl

@[simp] theorem Core.setOutbound_urs (k : Core) (q : SeqId) (b : Bool) (l : List Slot) :
    (k.setOutbound q b l).urs = k.urs := by cases q <;> cases b <;> rfl

@[simp] theorem Core.setOutbound_ursBad (k : Core) (q : SeqId) (b : Bool) (l : List Slot) :
    (k.setOutbound q b l).ursBad = k.ursBad := by cases q <;> cases b <;> rfl

@[simp] theorem Core.setOutbound_valid (k : Core) (q : SeqId) (b : Bool) (l : List Slot) :
    (k.setOutbound q b l).valid = k.valid := by cases q <;> cases b <;> rfl

@[simp] theorem Core.setOutbound_sof (k : Core) (q : SeqId) (b : Bool) (l : List Slot) :
    (k.setOutbound q b l).sof = k.sof := by cases q <;> cases b <;> rfl

@[simp] theorem Core.setOutbound_latch (k : Core) (q : SeqId) (b : Bool) (l : List Slot) :
    (k.setOutbound q b l).latch = k.latch := by cases q <;> cases b <;> rfl

@[simp] theorem Core.setOutbound_sofBad (k : Core) (q : SeqId) (b : Bool) (l : List Slot) :
    (k.setOutbound q b l).sofBad = k.sofBad := by cases q <;> cases b <;> rfl

@[simp] theorem Core.setOutbound_latchBad (k : Core) (q : SeqId) (b : Bool) (l : List Slot) :
    (k.setOutbound q b l).latchBad = k.latchBad := by cases q <;> cases b <;> rfl

@[simp] theorem Core.setOutbound_spad (k : Core) (q : SeqId) (b : Bool) (l : List Slot) :
    (k.setOutbound q b l).spad = k.spad := by cases q <;> cases b <;> rfl

@[simp] theorem Core.setOutbound_spadBad (k : Core) (q : SeqId) (b : Bool) (l : List Slot) :
    (k.setOutbound q b l).spadBad = k.spadBad := by cases q <;> cases b <;> rfl

@[simp] theorem Core.setOutbound_sems (k : Core) (q : SeqId) (b : Bool) (l : List Slot) :
    (k.setOutbound q b l).sems = k.sems := by cases q <;> cases b <;> rfl

@[simp] theorem Core.setOutbound_waits (k : Core) (q : SeqId) (b : Bool) (l : List Slot) :
    (k.setOutbound q b l).waits = k.waits := by cases q <;> cases b <;> rfl

@[simp] theorem Core.setOutbound_mEng (k : Core) (q : SeqId) (b : Bool) (l : List Slot) :
    (k.setOutbound q b l).mEng = k.mEng := by cases q <;> cases b <;> rfl

@[simp] theorem Core.setOutbound_vEng (k : Core) (q : SeqId) (b : Bool) (l : List Slot) :
    (k.setOutbound q b l).vEng = k.vEng := by cases q <;> cases b <;> rfl

@[simp] theorem Core.setOutbound_c0Eng (k : Core) (q : SeqId) (b : Bool) (l : List Slot) :
    (k.setOutbound q b l).c0Eng = k.c0Eng := by cases q <;> cases b <;> rfl

@[simp] theorem Core.setOutbound_c1Eng (k : Core) (q : SeqId) (b : Bool) (l : List Slot) :
    (k.setOutbound q b l).c1Eng = k.c1Eng := by cases q <;> cases b <;> rfl

@[simp] theorem Core.setOutbound_serir (k : Core) (q : SeqId) (b : Bool) (l : List Slot) :
    (k.setOutbound q b l).serir = k.serir := by cases q <;> cases b <;> rfl

@[simp] theorem Core.setOutbound_erg (k : Core) (q : SeqId) (b : Bool) (l : List Slot) :
    (k.setOutbound q b l).erg = k.erg := by cases q <;> cases b <;> rfl

@[simp] theorem Core.setOutbound_tiles (k : Core) (q : SeqId) (b : Bool) (l : List Slot) :
    (k.setOutbound q b l).tiles = k.tiles := by cases q <;> cases b <;> rfl

@[simp] theorem Core.setOutbound_nest0 (k : Core) (q : SeqId) (b : Bool) (l : List Slot) :
    (k.setOutbound q b l).nest0 = k.nest0 := by cases q <;> cases b <;> rfl

@[simp] theorem Core.setOutbound_nest1 (k : Core) (q : SeqId) (b : Bool) (l : List Slot) :
    (k.setOutbound q b l).nest1 = k.nest1 := by cases q <;> cases b <;> rfl

@[simp] theorem Core.setOutbound_stop (k : Core) (q : SeqId) (b : Bool) (l : List Slot) :
    (k.setOutbound q b l).stop = k.stop := by cases q <;> cases b <;> rfl

@[simp] theorem Core.setOutbound_handled (k : Core) (q : SeqId) (b : Bool) (l : List Slot) :
    (k.setOutbound q b l).handled = k.handled := by cases q <;> cases b <;> rfl

@[simp] theorem Core.setOutbound_periodBytes (k : Core) (q : SeqId) (b : Bool) (l : List Slot) :
    (k.setOutbound q b l).periodBytes = k.periodBytes := by cases q <;> cases b <;> rfl

@[simp] theorem Core.setOutbound_seg (k : Core) (q : SeqId) (b : Bool) (l : List Slot) :
    (k.setOutbound q b l).seg = k.seg := by cases q <;> cases b <;> rfl

@[simp] theorem Core.setOutbound_check (k : Core) (q : SeqId) (b : Bool) (l : List Slot) :
    (k.setOutbound q b l).check = k.check := by cases q <;> cases b <;> rfl

@[simp] theorem Core.setOutcomesIn_unit (k : Core) (q : SeqId) (l : List Bool) :
    (k.setOutcomesIn q l).unit = k.unit := by cases q <;> rfl

@[simp] theorem Core.setOutcomesIn_a (k : Core) (q : SeqId) (l : List Bool) :
    (k.setOutcomesIn q l).a = k.a := by cases q <;> rfl

@[simp] theorem Core.setOutcomesIn_x (k : Core) (q : SeqId) (l : List Bool) :
    (k.setOutcomesIn q l).x = k.x := by cases q <;> rfl

@[simp] theorem Core.setOutcomesIn_ax0 (k : Core) (q : SeqId) (l : List Bool) :
    (k.setOutcomesIn q l).ax0 = k.ax0 := by cases q <;> rfl

@[simp] theorem Core.setOutcomesIn_ax1 (k : Core) (q : SeqId) (l : List Bool) :
    (k.setOutcomesIn q l).ax1 = k.ax1 := by cases q <;> rfl

@[simp] theorem Core.setOutcomesIn_xa0 (k : Core) (q : SeqId) (l : List Bool) :
    (k.setOutcomesIn q l).xa0 = k.xa0 := by cases q <;> rfl

@[simp] theorem Core.setOutcomesIn_xa1 (k : Core) (q : SeqId) (l : List Bool) :
    (k.setOutcomesIn q l).xa1 = k.xa1 := by cases q <;> rfl

@[simp] theorem Core.setOutcomesIn_sys (k : Core) (q : SeqId) (l : List Bool) :
    (k.setOutcomesIn q l).sys = k.sys := by cases q <;> rfl

@[simp] theorem Core.setOutcomesIn_divReq (k : Core) (q : SeqId) (l : List Bool) :
    (k.setOutcomesIn q l).divReq = k.divReq := by cases q <;> rfl

@[simp] theorem Core.setOutcomesIn_refused (k : Core) (q : SeqId) (l : List Bool) :
    (k.setOutcomesIn q l).refused = k.refused := by cases q <;> rfl

@[simp] theorem Core.setOutcomesIn_code (k : Core) (q : SeqId) (l : List Bool) :
    (k.setOutcomesIn q l).code = k.code := by cases q <;> rfl

@[simp] theorem Core.setOutcomesIn_codeBad (k : Core) (q : SeqId) (l : List Bool) :
    (k.setOutcomesIn q l).codeBad = k.codeBad := by cases q <;> rfl

@[simp] theorem Core.setOutcomesIn_urs (k : Core) (q : SeqId) (l : List Bool) :
    (k.setOutcomesIn q l).urs = k.urs := by cases q <;> rfl

@[simp] theorem Core.setOutcomesIn_ursBad (k : Core) (q : SeqId) (l : List Bool) :
    (k.setOutcomesIn q l).ursBad = k.ursBad := by cases q <;> rfl

@[simp] theorem Core.setOutcomesIn_valid (k : Core) (q : SeqId) (l : List Bool) :
    (k.setOutcomesIn q l).valid = k.valid := by cases q <;> rfl

@[simp] theorem Core.setOutcomesIn_sof (k : Core) (q : SeqId) (l : List Bool) :
    (k.setOutcomesIn q l).sof = k.sof := by cases q <;> rfl

@[simp] theorem Core.setOutcomesIn_latch (k : Core) (q : SeqId) (l : List Bool) :
    (k.setOutcomesIn q l).latch = k.latch := by cases q <;> rfl

@[simp] theorem Core.setOutcomesIn_sofBad (k : Core) (q : SeqId) (l : List Bool) :
    (k.setOutcomesIn q l).sofBad = k.sofBad := by cases q <;> rfl

@[simp] theorem Core.setOutcomesIn_latchBad (k : Core) (q : SeqId) (l : List Bool) :
    (k.setOutcomesIn q l).latchBad = k.latchBad := by cases q <;> rfl

@[simp] theorem Core.setOutcomesIn_spad (k : Core) (q : SeqId) (l : List Bool) :
    (k.setOutcomesIn q l).spad = k.spad := by cases q <;> rfl

@[simp] theorem Core.setOutcomesIn_spadBad (k : Core) (q : SeqId) (l : List Bool) :
    (k.setOutcomesIn q l).spadBad = k.spadBad := by cases q <;> rfl

@[simp] theorem Core.setOutcomesIn_sems (k : Core) (q : SeqId) (l : List Bool) :
    (k.setOutcomesIn q l).sems = k.sems := by cases q <;> rfl

@[simp] theorem Core.setOutcomesIn_waits (k : Core) (q : SeqId) (l : List Bool) :
    (k.setOutcomesIn q l).waits = k.waits := by cases q <;> rfl

@[simp] theorem Core.setOutcomesIn_mEng (k : Core) (q : SeqId) (l : List Bool) :
    (k.setOutcomesIn q l).mEng = k.mEng := by cases q <;> rfl

@[simp] theorem Core.setOutcomesIn_vEng (k : Core) (q : SeqId) (l : List Bool) :
    (k.setOutcomesIn q l).vEng = k.vEng := by cases q <;> rfl

@[simp] theorem Core.setOutcomesIn_c0Eng (k : Core) (q : SeqId) (l : List Bool) :
    (k.setOutcomesIn q l).c0Eng = k.c0Eng := by cases q <;> rfl

@[simp] theorem Core.setOutcomesIn_c1Eng (k : Core) (q : SeqId) (l : List Bool) :
    (k.setOutcomesIn q l).c1Eng = k.c1Eng := by cases q <;> rfl

@[simp] theorem Core.setOutcomesIn_serir (k : Core) (q : SeqId) (l : List Bool) :
    (k.setOutcomesIn q l).serir = k.serir := by cases q <;> rfl

@[simp] theorem Core.setOutcomesIn_erg (k : Core) (q : SeqId) (l : List Bool) :
    (k.setOutcomesIn q l).erg = k.erg := by cases q <;> rfl

@[simp] theorem Core.setOutcomesIn_tiles (k : Core) (q : SeqId) (l : List Bool) :
    (k.setOutcomesIn q l).tiles = k.tiles := by cases q <;> rfl

@[simp] theorem Core.setOutcomesIn_nest0 (k : Core) (q : SeqId) (l : List Bool) :
    (k.setOutcomesIn q l).nest0 = k.nest0 := by cases q <;> rfl

@[simp] theorem Core.setOutcomesIn_nest1 (k : Core) (q : SeqId) (l : List Bool) :
    (k.setOutcomesIn q l).nest1 = k.nest1 := by cases q <;> rfl

@[simp] theorem Core.setOutcomesIn_stop (k : Core) (q : SeqId) (l : List Bool) :
    (k.setOutcomesIn q l).stop = k.stop := by cases q <;> rfl

@[simp] theorem Core.setOutcomesIn_handled (k : Core) (q : SeqId) (l : List Bool) :
    (k.setOutcomesIn q l).handled = k.handled := by cases q <;> rfl

@[simp] theorem Core.setOutcomesIn_periodBytes (k : Core) (q : SeqId) (l : List Bool) :
    (k.setOutcomesIn q l).periodBytes = k.periodBytes := by cases q <;> rfl

@[simp] theorem Core.setOutcomesIn_seg (k : Core) (q : SeqId) (l : List Bool) :
    (k.setOutcomesIn q l).seg = k.seg := by cases q <;> rfl

@[simp] theorem Core.setOutcomesIn_check (k : Core) (q : SeqId) (l : List Bool) :
    (k.setOutcomesIn q l).check = k.check := by cases q <;> rfl

@[simp] theorem Core.modUnit_a (k : Core) (f : Resident → Resident) :
    (k.modUnit f).a = k.a := rfl

@[simp] theorem Core.modUnit_x (k : Core) (f : Resident → Resident) :
    (k.modUnit f).x = k.x := rfl

@[simp] theorem Core.modUnit_ax0 (k : Core) (f : Resident → Resident) :
    (k.modUnit f).ax0 = k.ax0 := rfl

@[simp] theorem Core.modUnit_ax1 (k : Core) (f : Resident → Resident) :
    (k.modUnit f).ax1 = k.ax1 := rfl

@[simp] theorem Core.modUnit_xa0 (k : Core) (f : Resident → Resident) :
    (k.modUnit f).xa0 = k.xa0 := rfl

@[simp] theorem Core.modUnit_xa1 (k : Core) (f : Resident → Resident) :
    (k.modUnit f).xa1 = k.xa1 := rfl

@[simp] theorem Core.modUnit_axOut (k : Core) (f : Resident → Resident) :
    (k.modUnit f).axOut = k.axOut := rfl

@[simp] theorem Core.modUnit_xaOut (k : Core) (f : Resident → Resident) :
    (k.modUnit f).xaOut = k.xaOut := rfl

@[simp] theorem Core.modUnit_sys (k : Core) (f : Resident → Resident) :
    (k.modUnit f).sys = k.sys := rfl

@[simp] theorem Core.modUnit_divReq (k : Core) (f : Resident → Resident) :
    (k.modUnit f).divReq = k.divReq := rfl

@[simp] theorem Core.modUnit_refused (k : Core) (f : Resident → Resident) :
    (k.modUnit f).refused = k.refused := rfl

@[simp] theorem Core.modUnit_code (k : Core) (f : Resident → Resident) :
    (k.modUnit f).code = k.code := rfl

@[simp] theorem Core.modUnit_codeBad (k : Core) (f : Resident → Resident) :
    (k.modUnit f).codeBad = k.codeBad := rfl

@[simp] theorem Core.modUnit_urs (k : Core) (f : Resident → Resident) :
    (k.modUnit f).urs = k.urs := rfl

@[simp] theorem Core.modUnit_ursBad (k : Core) (f : Resident → Resident) :
    (k.modUnit f).ursBad = k.ursBad := rfl

@[simp] theorem Core.modUnit_valid (k : Core) (f : Resident → Resident) :
    (k.modUnit f).valid = k.valid := rfl

@[simp] theorem Core.modUnit_sof (k : Core) (f : Resident → Resident) :
    (k.modUnit f).sof = k.sof := rfl

@[simp] theorem Core.modUnit_latch (k : Core) (f : Resident → Resident) :
    (k.modUnit f).latch = k.latch := rfl

@[simp] theorem Core.modUnit_sofBad (k : Core) (f : Resident → Resident) :
    (k.modUnit f).sofBad = k.sofBad := rfl

@[simp] theorem Core.modUnit_latchBad (k : Core) (f : Resident → Resident) :
    (k.modUnit f).latchBad = k.latchBad := rfl

@[simp] theorem Core.modUnit_spad (k : Core) (f : Resident → Resident) :
    (k.modUnit f).spad = k.spad := rfl

@[simp] theorem Core.modUnit_spadBad (k : Core) (f : Resident → Resident) :
    (k.modUnit f).spadBad = k.spadBad := rfl

@[simp] theorem Core.modUnit_sems (k : Core) (f : Resident → Resident) :
    (k.modUnit f).sems = k.sems := rfl

@[simp] theorem Core.modUnit_waits (k : Core) (f : Resident → Resident) :
    (k.modUnit f).waits = k.waits := rfl

@[simp] theorem Core.modUnit_mEng (k : Core) (f : Resident → Resident) :
    (k.modUnit f).mEng = k.mEng := rfl

@[simp] theorem Core.modUnit_vEng (k : Core) (f : Resident → Resident) :
    (k.modUnit f).vEng = k.vEng := rfl

@[simp] theorem Core.modUnit_c0Eng (k : Core) (f : Resident → Resident) :
    (k.modUnit f).c0Eng = k.c0Eng := rfl

@[simp] theorem Core.modUnit_c1Eng (k : Core) (f : Resident → Resident) :
    (k.modUnit f).c1Eng = k.c1Eng := rfl

@[simp] theorem Core.modUnit_serir (k : Core) (f : Resident → Resident) :
    (k.modUnit f).serir = k.serir := rfl

@[simp] theorem Core.modUnit_erg (k : Core) (f : Resident → Resident) :
    (k.modUnit f).erg = k.erg := rfl

@[simp] theorem Core.modUnit_tiles (k : Core) (f : Resident → Resident) :
    (k.modUnit f).tiles = k.tiles := rfl

@[simp] theorem Core.modUnit_nest0 (k : Core) (f : Resident → Resident) :
    (k.modUnit f).nest0 = k.nest0 := rfl

@[simp] theorem Core.modUnit_nest1 (k : Core) (f : Resident → Resident) :
    (k.modUnit f).nest1 = k.nest1 := rfl

@[simp] theorem Core.modUnit_stop (k : Core) (f : Resident → Resident) :
    (k.modUnit f).stop = k.stop := rfl

@[simp] theorem Core.modUnit_handled (k : Core) (f : Resident → Resident) :
    (k.modUnit f).handled = k.handled := rfl

@[simp] theorem Core.modUnit_periodBytes (k : Core) (f : Resident → Resident) :
    (k.modUnit f).periodBytes = k.periodBytes := rfl

@[simp] theorem Core.modUnit_seg (k : Core) (f : Resident → Resident) :
    (k.modUnit f).seg = k.seg := rfl

@[simp] theorem Core.modUnit_check (k : Core) (f : Resident → Resident) :
    (k.modUnit f).check = k.check := rfl

/-! ## A sequencer -/

@[simp] theorem Seq.setG_a (x : Seq) (r : GReg) (v : W64) (m : Option Mark) :
    (x.setG r v m).a = x.a := rfl

@[simp] theorem Seq.setG_aMark (x : Seq) (r : GReg) (v : W64) (m : Option Mark) :
    (x.setG r v m).aMark = x.aMark := rfl

@[simp] theorem Seq.setG_pc (x : Seq) (r : GReg) (v : W64) (m : Option Mark) :
    (x.setG r v m).pc = x.pc := rfl

@[simp] theorem Seq.setG_loops (x : Seq) (r : GReg) (v : W64) (m : Option Mark) :
    (x.setG r v m).loops = x.loops := rfl

@[simp] theorem Seq.setG_halted (x : Seq) (r : GReg) (v : W64) (m : Option Mark) :
    (x.setG r v m).halted = x.halted := rfl

@[simp] theorem Seq.setG_handler (x : Seq) (r : GReg) (v : W64) (m : Option Mark) :
    (x.setG r v m).handler = x.handler := rfl

@[simp] theorem Seq.setG_hpc (x : Seq) (r : GReg) (v : W64) (m : Option Mark) :
    (x.setG r v m).hpc = x.hpc := rfl

@[simp] theorem Seq.setG_arrival (x : Seq) (r : GReg) (v : W64) (m : Option Mark) :
    (x.setG r v m).arrival = x.arrival := rfl

@[simp] theorem Seq.setG_cont (x : Seq) (r : GReg) (v : W64) (m : Option Mark) :
    (x.setG r v m).cont = x.cont := rfl

@[simp] theorem Seq.setG_stall (x : Seq) (r : GReg) (v : W64) (m : Option Mark) :
    (x.setG r v m).stall = x.stall := rfl

@[simp] theorem Seq.setG_out (x : Seq) (r : GReg) (v : W64) (m : Option Mark) :
    (x.setG r v m).out = x.out := rfl

@[simp] theorem Seq.setG_deferred (x : Seq) (r : GReg) (v : W64) (m : Option Mark) :
    (x.setG r v m).deferred = x.deferred := rfl

@[simp] theorem Seq.setG_seqno (x : Seq) (r : GReg) (v : W64) (m : Option Mark) :
    (x.setG r v m).seqno = x.seqno := rfl

@[simp] theorem Seq.setA_g (x : Seq) (r : AReg) (v : A80) (m : Option Mark) :
    (x.setA r v m).g = x.g := rfl

@[simp] theorem Seq.setA_gMark (x : Seq) (r : AReg) (v : A80) (m : Option Mark) :
    (x.setA r v m).gMark = x.gMark := rfl

@[simp] theorem Seq.setA_pc (x : Seq) (r : AReg) (v : A80) (m : Option Mark) :
    (x.setA r v m).pc = x.pc := rfl

@[simp] theorem Seq.setA_loops (x : Seq) (r : AReg) (v : A80) (m : Option Mark) :
    (x.setA r v m).loops = x.loops := rfl

@[simp] theorem Seq.setA_halted (x : Seq) (r : AReg) (v : A80) (m : Option Mark) :
    (x.setA r v m).halted = x.halted := rfl

@[simp] theorem Seq.setA_handler (x : Seq) (r : AReg) (v : A80) (m : Option Mark) :
    (x.setA r v m).handler = x.handler := rfl

@[simp] theorem Seq.setA_hpc (x : Seq) (r : AReg) (v : A80) (m : Option Mark) :
    (x.setA r v m).hpc = x.hpc := rfl

@[simp] theorem Seq.setA_arrival (x : Seq) (r : AReg) (v : A80) (m : Option Mark) :
    (x.setA r v m).arrival = x.arrival := rfl

@[simp] theorem Seq.setA_cont (x : Seq) (r : AReg) (v : A80) (m : Option Mark) :
    (x.setA r v m).cont = x.cont := rfl

@[simp] theorem Seq.setA_stall (x : Seq) (r : AReg) (v : A80) (m : Option Mark) :
    (x.setA r v m).stall = x.stall := rfl

@[simp] theorem Seq.setA_out (x : Seq) (r : AReg) (v : A80) (m : Option Mark) :
    (x.setA r v m).out = x.out := rfl

@[simp] theorem Seq.setA_deferred (x : Seq) (r : AReg) (v : A80) (m : Option Mark) :
    (x.setA r v m).deferred = x.deferred := rfl

@[simp] theorem Seq.setA_seqno (x : Seq) (r : AReg) (v : A80) (m : Option Mark) :
    (x.setA r v m).seqno = x.seqno := rfl

@[simp] theorem Seq.advance_g (x : Seq) (n : Nat) :
    (x.advance n).g = x.g := rfl

@[simp] theorem Seq.advance_gMark (x : Seq) (n : Nat) :
    (x.advance n).gMark = x.gMark := rfl

@[simp] theorem Seq.advance_a (x : Seq) (n : Nat) :
    (x.advance n).a = x.a := rfl

@[simp] theorem Seq.advance_aMark (x : Seq) (n : Nat) :
    (x.advance n).aMark = x.aMark := rfl

@[simp] theorem Seq.advance_halted (x : Seq) (n : Nat) :
    (x.advance n).halted = x.halted := rfl

@[simp] theorem Seq.advance_handler (x : Seq) (n : Nat) :
    (x.advance n).handler = x.handler := rfl

@[simp] theorem Seq.advance_hpc (x : Seq) (n : Nat) :
    (x.advance n).hpc = x.hpc := rfl

@[simp] theorem Seq.advance_arrival (x : Seq) (n : Nat) :
    (x.advance n).arrival = x.arrival := rfl

@[simp] theorem Seq.advance_out (x : Seq) (n : Nat) :
    (x.advance n).out = x.out := rfl

@[simp] theorem Seq.advance_deferred (x : Seq) (n : Nat) :
    (x.advance n).deferred = x.deferred := rfl

@[simp] theorem Seq.jump_g (x : Seq) (p : BitVec 17) (b : Bool) :
    (x.jump p b).g = x.g := rfl

@[simp] theorem Seq.jump_gMark (x : Seq) (p : BitVec 17) (b : Bool) :
    (x.jump p b).gMark = x.gMark := rfl

@[simp] theorem Seq.jump_a (x : Seq) (p : BitVec 17) (b : Bool) :
    (x.jump p b).a = x.a := rfl

@[simp] theorem Seq.jump_aMark (x : Seq) (p : BitVec 17) (b : Bool) :
    (x.jump p b).aMark = x.aMark := rfl

@[simp] theorem Seq.jump_halted (x : Seq) (p : BitVec 17) (b : Bool) :
    (x.jump p b).halted = x.halted := rfl

@[simp] theorem Seq.jump_handler (x : Seq) (p : BitVec 17) (b : Bool) :
    (x.jump p b).handler = x.handler := rfl

@[simp] theorem Seq.jump_hpc (x : Seq) (p : BitVec 17) (b : Bool) :
    (x.jump p b).hpc = x.hpc := rfl

@[simp] theorem Seq.jump_arrival (x : Seq) (p : BitVec 17) (b : Bool) :
    (x.jump p b).arrival = x.arrival := rfl

@[simp] theorem Seq.jump_out (x : Seq) (p : BitVec 17) (b : Bool) :
    (x.jump p b).out = x.out := rfl

@[simp] theorem Seq.jump_deferred (x : Seq) (p : BitVec 17) (b : Bool) :
    (x.jump p b).deferred = x.deferred := rfl

/-! ## Reading back -/

@[simp] theorem State.coreAt_setCore_self (s : State) (c : CoreId) (k : Core) : (s.setCore c k).coreAt c = k := by
  simp [State.coreAt, State.setCore]

theorem State.coreAt_setCore_ne (s : State) {c d : CoreId} (k : Core) (h : c ≠ d) : (s.setCore c k).coreAt d = s.coreAt d := by
  have : c.val ≠ d.val := fun e => h (Fin.ext e)
  simp [State.coreAt, State.setCore, this]

@[simp] theorem State.coreAt_modCore_self (s : State) (c : CoreId) (f : Core → Core) :
    (s.modCore c f).coreAt c = f (s.coreAt c) := by
  simp [State.modCore]

theorem State.coreAt_modCore_ne (s : State) {c d : CoreId} (f : Core → Core) (h : c ≠ d) :
    (s.modCore c f).coreAt d = s.coreAt d := by
  simp [State.modCore, State.coreAt_setCore_ne, h]

@[simp] theorem State.coreAt_modDie (s : State) (d : DieId) (f : Die → Die) (c : CoreId) :
    (s.modDie d f).coreAt c = s.coreAt c := rfl

@[simp] theorem State.coreAt_modIsland (s : State) (i : IslandId) (f : Island → Island) (c : CoreId) :
    (s.modIsland i f).coreAt c = s.coreAt c := rfl

@[simp] theorem State.coreAt_modLaunch (s : State) (n : Nat) (f : Launch → Launch) (c : CoreId) :
    (s.modLaunch n f).coreAt c = s.coreAt c := rfl

@[simp] theorem State.coreAt_modCtx (s : State) (n : Nat) (f : Ctx → Ctx) (c : CoreId) :
    (s.modCtx n f).coreAt c = s.coreAt c := rfl

@[simp] theorem State.island_modIsland_self (s : State) (i : IslandId) (f : Island → Island) :
    (s.modIsland i f).island i = f (s.island i) := by
  simp [State.island, State.modIsland]

theorem State.island_modIsland_ne (s : State) {i j : IslandId} (f : Island → Island) (h : i ≠ j) :
    (s.modIsland i f).island j = s.island j := by
  have : i.val ≠ j.val := fun e => h (Fin.ext e)
  simp [State.island, State.modIsland, this]

@[simp] theorem State.die_modDie_self (s : State) (d : DieId) (f : Die → Die) : (s.modDie d f).die d = f (s.die d) := by
  simp [State.die, State.modDie]

theorem State.die_modDie_ne (s : State) {d e : DieId} (f : Die → Die) (h : d ≠ e) : (s.modDie d f).die e = s.die e := by
  have : d.val ≠ e.val := fun x => h (Fin.ext x)
  simp [State.die, State.modDie, this]

@[simp] theorem Core.seq_modSeq_self (k : Core) (q : SeqId) (f : Seq → Seq) : (k.modSeq q f).seq q = f (k.seq q) := by
  cases q <;> rfl

theorem Core.seq_modSeq_ne (k : Core) {p q : SeqId} (f : Seq → Seq) (h : p ≠ q) : (k.modSeq p f).seq q = k.seq q := by
  cases p <;> cases q <;> first | rfl | exact absurd rfl h

@[simp] theorem Core.seq_setInbound (k : Core) (p q : SeqId) (b : Bool) (l : List Slot) : (k.setInbound p b l).seq q = k.seq q := by
  cases p <;> cases b <;> cases q <;> rfl

@[simp] theorem Core.seq_setOutbound (k : Core) (p q : SeqId) (b : Bool) (l : List Slot) :
    (k.setOutbound p b l).seq q = k.seq q := by
  cases p <;> cases b <;> cases q <;> rfl

@[simp] theorem Core.seq_modEng (k : Core) (e : Eng) (f : Stream → Stream) (q : SeqId) : (k.modEng e f).seq q = k.seq q := by
  cases e <;> cases q <;> rfl

@[simp] theorem Core.eng_modEng_self (k : Core) (e : Eng) (f : Stream → Stream) : (k.modEng e f).eng e = f (k.eng e) := by
  cases e <;> rfl

theorem Core.eng_modEng_ne (k : Core) {d e : Eng} (f : Stream → Stream) (h : d ≠ e) : (k.modEng d f).eng e = k.eng e := by
  cases d <;> cases e <;> first | rfl | exact absurd rfl h

@[simp] theorem Core.eng_modSeq (k : Core) (q : SeqId) (f : Seq → Seq) (e : Eng) : (k.modSeq q f).eng e = k.eng e := by
  cases q <;> cases e <;> rfl

@[simp] theorem Core.inbound_modSeq (k : Core) (p q : SeqId) (b : Bool) (f : Seq → Seq) :
    (k.modSeq p f).inbound q b = k.inbound q b := by
  cases p <;> cases q <;> cases b <;> rfl

@[simp] theorem Core.inbound_setInbound_self (k : Core) (q : SeqId) (b : Bool) (l : List Slot) :
    (k.setInbound q b l).inbound q b = l := by
  cases q <;> cases b <;> rfl

@[simp] theorem Seq.setG_read_self (x : Seq) (r : GReg) (v : W64) (m : Option Mark) : (x.setG r v m).g[r] = v := by
  simp [Seq.setG]

theorem Seq.setG_read_ne (x : Seq) {r t : GReg} (v : W64) (m : Option Mark) (h : r ≠ t) : (x.setG r v m).g[t] = x.g[t] := by
  have : r.val ≠ t.val := fun e => h (Fin.ext e)
  simp [Seq.setG, this]

@[simp] theorem Seq.setA_read_self (x : Seq) (r : AReg) (v : A80) (m : Option Mark) : (x.setA r v m).a[r] = v := by
  simp [Seq.setA]

theorem Seq.setA_read_ne (x : Seq) {r t : AReg} (v : A80) (m : Option Mark) (h : r ≠ t) : (x.setA r v m).a[t] = x.a[t] := by
  have : r.val ≠ t.val := fun e => h (Fin.ext e)
  simp [Seq.setA, this]

end Sys2Proof.Machine
end

