-- ==== Sys2Proof/Laws/Ops.lean ====
section
/-! SUPPORT. What each shared operation can do, said once: operands, completion, charges, reasons, semaphores, writes of memory. -/

namespace Sys2Proof.Machine

open Sys2Proof

/-! ## Operands -/

/-- A pop that gives a value took the oldest slot, which had returned with no mark (R72). -/
theorem Core.pop_ok {k k' : Core} {q : SeqId} {b : Bool} {v : W64} (h : k.pop q b = .ok (v, k')) :
    ∃ r, k.inbound q b = .ready v none :: r ∧ k' = k.setInbound q b r := by
  unfold Core.pop at h
  split at h
  · split at h <;> cases h
  · cases h
  · rename_i w r e
    cases h
    exact ⟨r, e, rfl⟩
  · unfold markTrap at h; cases h

/-- A read of a general register that gives a value: the constant registers, a pop, or a register that is neither awaited nor
marked (R70, R72, R110). -/
theorem Core.readG_ok {k k' : Core} {q : SeqId} {r : GReg} {v : W64} (h : k.readG q r = .ok (v, k')) :
    ((r = 0 ∨ r = 30 ∨ r = 31) ∧ v = 0 ∧ k' = k) ∨
    (∃ b l, (r = if b then 29 else 28) ∧ k.inbound q b = .ready v none :: l ∧ k' = k.setInbound q b l) ∨
    ((k.seq q).awaits r = false ∧ (k.seq q).gMark[r] = none ∧ v = (k.seq q).g[r] ∧ k' = k) := by
  unfold Core.readG at h
  split at h
  · rename_i e; cases h; exact .inl ⟨e, rfl, rfl⟩
  · split at h
    · rename_i e; obtain ⟨l, a, b⟩ := Core.pop_ok h; exact .inr (.inl ⟨false, l, e, a, b⟩)
    · split at h
      · rename_i e; obtain ⟨l, a, b⟩ := Core.pop_ok h; exact .inr (.inl ⟨true, l, e, a, b⟩)
      · split at h
        · cases h
        · rename_i n
          split at h
          · unfold markTrap at h; cases h
          · rename_i m; cases h; exact .inr (.inr ⟨by simpa using n, m, rfl, rfl⟩)

/-- A read of an address register that gives a value. -/
theorem Core.readA_ok {k : Core} {q : SeqId} {r : AReg} {v : A80} (h : k.readA q r = .ok v) :
    (k.seq q).awaitsA r = false ∧ (k.seq q).aMark[r] = none ∧ v = (k.seq q).a[r] := by
  unfold Core.readA at h
  split at h
  · cases h
  · rename_i n
    split at h
    · unfold markTrap at h; cases h
    · rename_i m; cases h; exact ⟨by simpa using n, m, rfl⟩

/-- A write of a general register that succeeds: discarded, pushed into a queue with room, or put into the register, whose mark it
clears (R70, R72, R110). -/
theorem Core.writeG_ok {k k' : Core} {q : SeqId} {r : GReg} {v : W64} (h : k.writeG q r v = .ok k') :
    ((r = 0 ∨ r = 28 ∨ r = 29) ∧ k' = k) ∨
    (∃ b, (r = if b then 31 else 30) ∧ (k.outbound q b).length < 16 ∧ k' = k.setOutbound q b (k.outbound q b ++ [.ready v none])) ∨
    ((k.seq q).awaits r = false ∧ k' = k.modSeq q fun x => x.setG r v none) := by
  unfold Core.writeG at h
  split at h
  · rename_i e; cases h; exact .inl ⟨e, rfl⟩
  · split at h
    · rename_i e
      unfold Core.push at h
      simp only at h
      split at h
      · cases h
      · rename_i n; cases h; exact .inr (.inl ⟨false, e, by unfold queueSize at n; omega, rfl⟩)
    · split at h
      · rename_i e
        unfold Core.push at h
        simp only at h
        split at h
        · cases h
        · rename_i n; cases h; exact .inr (.inl ⟨true, e, by unfold queueSize at n; omega, rfl⟩)
      · split at h
        · cases h
        · rename_i n; cases h; exact .inr (.inr ⟨by simpa using n, rfl⟩)

/-- A write of an address register that succeeds. -/
theorem Core.writeA_ok {k k' : Core} {q : SeqId} {r : AReg} {v : A80} (h : k.writeA q r v = .ok k') :
    (k.seq q).awaitsA r = false ∧ k' = k.modSeq q fun x => x.setA r v none := by
  unfold Core.writeA at h
  split at h
  · cases h
  · rename_i n; cases h; exact ⟨by simpa using n, rfl⟩

/-! ## Reasons, charges, completion -/

/-- Only units, and of the rest of the state only its cores, differ. -/
def onlyUnits (s t : State) : Prop :=
  t = { s with cores := t.cores } ∧ ∀ d, ∃ u, t.coreAt d = { s.coreAt d with unit := u }

theorem onlyUnits.refl (s : State) : onlyUnits s s := ⟨rfl, fun d => ⟨(s.coreAt d).unit, rfl⟩⟩

theorem onlyUnits.trans {s t u : State} (h : onlyUnits s t) (g : onlyUnits t u) : onlyUnits s u := by
  refine ⟨by rw [g.1, h.1], fun d => ?_⟩
  obtain ⟨a, ha⟩ := h.2 d
  obtain ⟨b, hb⟩ := g.2 d
  exact ⟨b, by rw [hb, ha]⟩

/-- Changing a unit changes only units. -/
theorem onlyUnits_modUnit (s : State) (c : CoreId) (f : Resident → Resident) : onlyUnits s (s.modCore c fun k => k.modUnit f) := by
  refine ⟨rfl, fun d => ?_⟩
  by_cases e : c = d
  · subst e; exact ⟨(s.coreAt c).unit.map f, by rw [State.coreAt_modCore_self]; rfl⟩
  · exact ⟨(s.coreAt d).unit, by rw [State.coreAt_modCore_ne s _ e]⟩

/-- So does changing the units of several cores. -/
theorem onlyUnits_foldl (f : Resident → Resident) (l : List CoreId) (s : State) :
    onlyUnits s (l.foldl (fun t k => t.modCore k fun co => co.modUnit f) s) := by
  induction l generalizing s with
  | nil => exact .refl s
  | cons d r ih => exact (onlyUnits_modUnit s d f).trans (ih _)

/-- A reason changes only units (R255, R265). -/
theorem State.addReason_only (s : State) (c : CoreId) (m : BitVec 7) : onlyUnits s (s.addReason c m) := by
  unfold State.addReason
  repeat' split
  all_goals first | exact .refl s | exact onlyUnits_foldl _ _ s | exact onlyUnits_modUnit s c _ | skip
  all_goals simp only
  all_goals split
  all_goals first | exact onlyUnits_foldl _ _ s | exact onlyUnits_modUnit s c _

/-- So does the reason that a budget gives. -/
theorem State.budgetReason_only (s : State) (c : CoreId) : onlyUnits s (s.budgetReason c) := by
  unfold State.budgetReason
  simp only
  split
  · exact .refl s
  · split
    · exact s.addReason_only c _
    · exact .refl s

/-- A charge changes units, and of its core BUDI and BUDT, which fall by it (R254), and the bytes of the period (R352). -/
theorem State.charge_spec (s : State) (c : CoreId) (i t : Nat) :
    s.charge c i t = { s with cores := (s.charge c i t).cores } ∧
    (∃ u, (s.charge c i t).coreAt c = { s.coreAt c with
      unit := u, periodBytes := (s.coreAt c).periodBytes + t,
      sys := { (s.coreAt c).sys with budi := chargeBudget 48 (s.coreAt c).sys.budi i, budt := chargeBudget 48 (s.coreAt c).sys.budt t } }) ∧
    ∀ d, d ≠ c → ∃ u, (s.charge c i t).coreAt d = { s.coreAt d with unit := u } := by
  unfold State.charge
  generalize e : s.modCore c _ = s1
  obtain ⟨h, g⟩ := s1.budgetReason_only c
  refine ⟨by rw [h, ← e]; rfl, ?_, fun d hd => ?_⟩
  · obtain ⟨u, hu⟩ := g c
    refine ⟨u, ?_⟩
    rw [hu, ← e, State.coreAt_modCore_self]
  · obtain ⟨u, hu⟩ := g d
    exact ⟨u, by rw [hu, ← e, State.coreAt_modCore_ne s _ (Ne.symm hd)]⟩

/-- A completion of the current sequencer: it advances, BUDI falls by 1 and BUDT by t, only units differ otherwise (R111). -/
theorem State.finish_spec (s : State) (words t : Nat) :
    s.finish words t = { s with cores := (s.finish words t).cores } ∧
    (∃ u, (s.finish words t).cur = { s.cur.modSeq s.seqId (fun q => q.advance words) with
      unit := u, periodBytes := s.cur.periodBytes + t,
      sys := { s.cur.sys with budi := chargeBudget 48 s.cur.sys.budi 1, budt := chargeBudget 48 s.cur.sys.budt t } }) ∧
    ∀ d, d ≠ s.core → ∃ u, (s.finish words t).coreAt d = { s.coreAt d with unit := u } := by
  unfold State.finish
  generalize e : s.modCur _ = s1
  obtain ⟨h, ⟨u, hu⟩, g⟩ := s1.charge_spec s.core 1 t
  have hc : s1.coreAt s.core = s.cur.modSeq s.seqId fun q => q.advance words := by
    rw [← e]; exact State.coreAt_modCore_self s s.core _
  refine ⟨by rw [h, ← e]; rfl, ⟨u, ?_⟩, fun d hd => ?_⟩
  · have : (s1.charge s.core 1 t).cur = (s1.charge s.core 1 t).coreAt s.core := by
      unfold State.cur; rw [h, ← e]; rfl
    rw [this, hu, hc]
    cases s.seqId <;> rfl
  · obtain ⟨v, hv⟩ := g d hd
    exact ⟨v, by rw [hv, ← e]; rw [State.modCur, State.coreAt_modCore_ne s _ (Ne.symm hd)]⟩

/-- A progress event changes only a die's task queues (R321). -/
theorem State.progress_spec (s : State) (c : CoreId) : s.progress c = { s with dies := (s.progress c).dies } := by
  unfold State.progress
  split <;> rfl

/-! ## Contexts and launches -/

/-- A changed context that keeps its number is found changed. -/
theorem State.ctx_modCtx_self (s : State) (n : Nat) (f : Ctx → Ctx) (h : ∀ c, (f c).num = c.num) : (s.modCtx n f).ctx n = (s.ctx n).map f := by
  unfold State.ctx State.modCtx
  induction s.ctxs with
  | nil => rfl
  | cons c r ih =>
    by_cases e : c.num = n
    · simp [e, h]
    · simp [e, ih]

/-- Another context is found as before. -/
theorem State.ctx_modCtx_ne (s : State) {n m : Nat} (f : Ctx → Ctx) (h : ∀ c, (f c).num = c.num) (e : n ≠ m) :
    (s.modCtx n f).ctx m = s.ctx m := by
  unfold State.ctx State.modCtx
  induction s.ctxs with
  | nil => rfl
  | cons c r ih =>
    by_cases a : c.num = n
    · have b : c.num ≠ m := fun x => e (a.symm.trans x)
      simp [a, h, e, ih]
    · by_cases b : c.num = m
      · simp [b, Ne.symm e]
      · simp [a, b, ih]

/-- A changed launch that keeps its number is found changed. -/
theorem State.launch_modLaunch_self (s : State) (n : Nat) (f : Launch → Launch) (h : ∀ l, (f l).id = l.id) :
    (s.modLaunch n f).launch n = (s.launch n).map f := by
  unfold State.launch State.modLaunch
  induction s.launches with
  | nil => rfl
  | cons c r ih =>
    by_cases e : c.id = n
    · simp [e, h]
    · simp [e, ih]

/-- Another launch is found as before. -/
theorem State.launch_modLaunch_ne (s : State) {n m : Nat} (f : Launch → Launch) (h : ∀ l, (f l).id = l.id) (e : n ≠ m) :
    (s.modLaunch n f).launch m = s.launch m := by
  unfold State.launch State.modLaunch
  induction s.launches with
  | nil => rfl
  | cons c r ih =>
    by_cases a : c.id = n
    · have b : c.id ≠ m := fun x => e (a.symm.trans x)
      simp [a, h, e, ih]
    · by_cases b : c.id = m
      · simp [b, Ne.symm e]
      · simp [a, b, ih]

/-! ## Semaphores -/

/-- A count that is set reads back (R17). -/
@[simp] theorem State.semCount_setSem_self (s : State) (c : CoreId) (n : Fin 64) (v : BitVec 16) : (s.setSem c n v).semCount c n = v := by
  unfold State.setSem State.semCount
  split <;> simp

/-- Another semaphore of the core keeps its count. -/
theorem State.semCount_setSem_ne (s : State) (c : CoreId) {n m : Fin 64} (v : BitVec 16) (h : n ≠ m) :
    (s.setSem c n v).semCount c m = s.semCount c m := by
  have e : n.val ≠ m.val := fun x => h (Fin.ext x)
  unfold State.setSem State.semCount
  by_cases a : n.val < 48 <;> by_cases b : m.val < 48 <;> simp [a, b, Vector.getElem_set, e]
  · rfl
  · intro x
    omega

/-! ## Writes of memory -/

/-- A sequence of writes keeps the canonical form. -/
theorem Memory.wf_putAll {m : Cells} (ws : List (Nat × List Byte)) (h : Memory.wf m = true) :
    Memory.wf (ws.foldl (fun (m : Cells) (w : Nat × List Byte) => putBytes m w.1 w.2) m) = true := by
  induction ws generalizing m with
  | nil => exact h
  | cons w r ih => exact ih (Memory.wf_putBytes w.1 w.2 h)

/-- Memory, cores, islands, power, the host's and the fabric's state stay: what submitting a launch leaves (R247). -/
def leaves (s t : State) : Prop :=
  t.mem = s.mem ∧ t.memBad = s.memBad ∧ t.cores = s.cores ∧ t.islands = s.islands ∧ t.power = s.power ∧ t.host = s.host ∧
    t.fabric = s.fabric ∧ t.live = s.live ∧ t.tick = s.tick ∧ t.core = s.core ∧ t.stream = s.stream

theorem leaves.refl (s : State) : leaves s s := by
  unfold leaves
  and_intros <;> rfl

theorem leaves.trans {s t u : State} (h : leaves s t) (g : leaves t u) : leaves s u := by
  unfold leaves at *
  simp_all

/-- A fold of steps that leave these. -/
theorem leaves_foldl {α : Type} (f : State → α → State) (hf : ∀ s a, leaves s (f s a)) (l : List α) (s : State) :
    leaves s (l.foldl f s) := by
  induction l generalizing s with
  | nil => exact .refl s
  | cons a r ih => exact (hf s a).trans (ih _)

/-- A change of a die. -/
theorem leaves_modDie (s : State) (d : DieId) (f : Die → Die) : leaves s (s.modDie d f) := .refl s

/-- The count of identifiers. -/
theorem leaves_countLaunch (s : State) (c : Nat) : leaves s (s.countLaunch c) := by
  unfold State.countLaunch
  split <;> exact .refl s

/-- A submission, accepted or refused. -/
theorem State.submit_leaves (s : State) (c : Nat) (bs : List Byte) : leaves s (s.submit c bs).1 := by
  unfold State.submit
  split
  · exact .refl s
  · split
    · rename_i t _ _
      have a (u : State) (l : List DieId) : leaves u (l.foldl (fun u d => u.modDie d fun y => { y with queues := addQueue y.queues c }) u) :=
        leaves_foldl (fun u d => u.modDie d fun y => { y with queues := addQueue y.queues c }) (fun u d => leaves_modDie u d _) l u
      have b : leaves s (State.modCtx { s.countLaunch c with launches := s.launches ++ [freshLaunch (s.newLaunchId c) c t] } c
          fun x => { x with admitted := true }) := leaves_countLaunch s c
      exact (b.trans (a _ (placeDies t.place))).trans (.refl _)
    · exact .refl s

/-- A watchpoint that fires (R302). -/
theorem State.fireWatch_leaves (s : State) (d : DieId) (w : Watchpoint) : leaves s (s.fireWatch d w) := by
  have h := s.submit_leaves w.ctx w.record
  have k : leaves s (let (t, r) := s.submit w.ctx w.record
      if r = BitVec.ofNat 64 (2 ^ 63 + 3) ∨ r = BitVec.ofNat 64 (2 ^ 63 + 4) then
        t.modDie d fun y => { y with watch := y.watch.map fun v => if v = w then { v with pending := true } else v }
      else if w.cond.getLsbD 2 && !r.msb then t.modDie d fun y => { y with watch := y.watch.filter fun v => v != w }
      else t.modDie d fun y => { y with watch := y.watch.map fun v => if v = w then { v with pending := false } else v }) := by
    simp only
    split
    · exact h.trans (leaves_modDie ..)
    · split <;> exact h.trans (leaves_modDie ..)
  unfold State.fireWatch
  split
  · split
    · exact .refl s
    · exact k
  · exact .refl s

/-- The watchpoints that a write fires. -/
theorem State.fireAll_leaves (s : State) (m : Cells) : leaves s (s.fireAll m) := by
  unfold State.fireAll
  refine leaves_foldl _ (fun t d => leaves_foldl _ (fun u w => ?_) _ _) _ _
  split
  · exact u.fireWatch_leaves d w
  · exact .refl u

/-- A write of memory as it is performed: its bytes, one part after another; cores, islands, power, the host's and the fabric's
state stay, whatever watchpoints it fires. -/
theorem State.physPut_spec (s : State) (ws : List (Nat × List Byte)) :
    (s.physPut ws).mem = ws.foldl (fun (m : Cells) (w : Nat × List Byte) => putBytes m w.1 w.2) s.mem ∧
    (s.physPut ws).cores = s.cores ∧ (s.physPut ws).islands = s.islands ∧ (s.physPut ws).power = s.power ∧
    (s.physPut ws).host = s.host ∧ (s.physPut ws).fabric = s.fabric := by
  unfold State.physPut
  obtain ⟨a, _, b, c, d, e, f, _⟩ := State.fireAll_leaves { s with
    mem := ws.foldl (fun (m : Cells) (w : Nat × List Byte) => putBytes m w.1 w.2) s.mem,
    far := ws.foldl (fun (l : List FarByte) (w : Nat × List Byte) => dropFar l w.1 w.2.length) s.far,
    memBad := ws.foldl (fun (b : List Nat) (w : Nat × List Byte) => clearBad b w.1 w.2.length) s.memBad } s.mem
  exact ⟨a, b, c, d, e, f⟩

/-- It keeps the canonical form. -/
theorem State.physPut_wf (s : State) (ws : List (Nat × List Byte)) (h : Memory.wf s.mem = true) :
    Memory.wf (s.physPut ws).mem = true := by
  rw [(s.physPut_spec ws).1]
  exact Memory.wf_putAll ws h

/-- Without octet writes of copies none is due. -/
theorem State.copiesWith_none {s : State} (h : ∀ c e, ((s.coreAt c).eng e).todo = []) (p : CoreId → OctetWrite → Bool) :
    s.copiesWith p = [] := by
  unfold State.copiesWith
  rw [List.flatMap_eq_nil_iff]
  intro k hk
  obtain ⟨i, hi, e⟩ := Vector.getElem_of_mem (Vector.mem_toList_iff.mp (List.of_mem_zip hk).1)
  have t : ∀ g, (k.1.eng g).todo = [] := fun g => e ▸ h ⟨i, hi⟩ g
  simp [t]

/-- Without accesses none is in flight. -/
theorem State.inFlight_none {s : State} (h : ∀ c q, ((s.coreAt c).seq q).out = []) (p : CoreId → Access → Bool) : s.inFlight p = [] := by
  unfold State.inFlight
  rw [List.flatMap_eq_nil_iff]
  intro c _
  simp [h c]

/-- A write that touches no entry that something under way was translated through performs nothing first (R296). -/
theorem State.settleEntries_none {s : State} {rs : List (Nat × Nat)} (h : s.through rs = [])
    (g : ∀ c e, ((s.coreAt c).eng e).todo = []) : s.settleEntries rs = s := by
  unfold State.settleEntries State.settleBy State.flushOctets
  rw [h]
  simp only [List.foldl_nil, State.copiesWith_none g]

/-- Where nothing under way was translated through a table entry that a write touches, the write is performed at once (R296). -/
theorem State.physWrite_direct (s : State) (ws : List (Nat × List Byte)) (h : s.through (rangesOf ws) = [])
    (g : ∀ c e, ((s.coreAt c).eng e).todo = []) : s.physWrite ws = s.physPut ws := by
  unfold State.physWrite theWriter State.writeBy State.settleBy State.flushOctets
  rw [h]
  simp only [List.foldl_nil, State.copiesWith_none g]

/-! ## Accesses performed early, and the writes that wait for them (R296) -/

/-- Noting the tenants of bytes leaves memory. -/
theorem State.noteTenants_mem (s : State) (ten pa n : Nat) : (s.noteTenants ten pa n).mem = s.mem := by
  unfold State.noteTenants
  repeat' split
  all_goals rfl

/-- A fold of steps that leave memory leaves it. -/
theorem mem_foldl {α : Type} (f : State → α → State) (hf : ∀ s a, (f s a).mem = s.mem) (l : List α) (s : State) :
    (l.foldl f s).mem = s.mem := by
  induction l generalizing s with
  | nil => rfl
  | cons a r ih => exact (ih _).trans (hf s a)

/-- So does noting those of the parts of an access. -/
theorem State.noteWritten_mem (s : State) (c : CoreId) (ps : List Piece) : (s.noteWritten c ps).mem = s.mem := by
  refine mem_foldl _ (fun t p => ?_) ps s
  split
  · exact t.noteTenants_mem ..
  · rfl

/-- And of a copy. -/
theorem State.noteDests_mem (s : State) (c : CoreId) (ps : List Part) : (s.noteDests c ps).mem = s.mem := by
  refine mem_foldl _ (fun t p => ?_) ps s
  split
  · exact t.noteTenants_mem ..
  · rfl

/-- So does a load that has taken its bytes. -/
theorem State.loaded_mem (s : State) (who : Option (CoreId × SeqId × Cls)) (ten pa n : Nat) : (s.loaded who ten pa n).mem = s.mem := by
  simp only [State.loaded]
  repeat' split
  all_goals rfl

/-- So do the loads of the parts of an access. -/
theorem State.spendChoice_mem (s : State) (who : CoreId × SeqId × Cls) (ps : List Piece) : (s.spendChoice who ps).mem = s.mem := by
  unfold State.spendChoice
  split
  · rfl
  · refine mem_foldl _ (fun t p => ?_) ps s
    split
    · exact t.loaded_mem ..
    · rfl

/-- And those of a copy. -/
theorem State.spendSources_mem (s : State) (c : CoreId) (ps : List Part) : (s.spendSources c ps).mem = s.mem := by
  unfold State.spendSources
  split
  · rfl
  · refine mem_foldl _ (fun t p => ?_) ps s
    split
    · exact t.loaded_mem ..
    · rfl

/-- So does what an atomic makes seen. -/
theorem State.atomicSeen_mem (s : State) (who : CoreId × SeqId × Cls) (x : Access) : (s.atomicSeen who x).mem = s.mem := by
  unfold State.atomicSeen State.acquireFar
  repeat' split
  all_goals rfl

/-- So do the scratchpad parts of a store. -/
theorem State.spadParts_mem (s : State) (c : CoreId) (l : List (Piece × List Byte)) : (s.spadParts c l).mem = s.mem := by
  unfold State.spadParts
  induction l generalizing s with
  | nil => rfl
  | cons p r ih =>
    refine (ih _).trans ?_
    simp only [State.storePiece]
    split <;> rfl

/-- So does a progress event. -/
theorem State.progress_mem (s : State) (c : CoreId) : (s.progress c).mem = s.mem := by rw [s.progress_spec c]

/-- A writer keeps the canonical form of memory. -/
def keepsForm (wr : Writer) : Prop := ∀ busy s ws, Memory.wf s.mem = true → Memory.wf (wr busy s ws).mem = true

/-- An atomic writes through its writer only. -/
theorem performAtomicBy_wf {wr : Writer} (k : keepsForm wr) (busy : List AccessKey) (s : State) (op : AccessOp) (pa : Nat)
    (h : Memory.wf s.mem = true) : Memory.wf (s.performAtomicBy wr busy op pa).1.mem = true := by
  unfold State.performAtomicBy
  simp only
  repeat' split
  all_goals first | exact h | exact k _ _ _ h

/-- A load or atomic that returns keeps the form. -/
theorem returnLoadBy_wf {wr : Writer} (k : keepsForm wr) (busy : List AccessKey) (s : State) (c : CoreId) (q : SeqId) (x : Access)
    (h : Memory.wf s.mem = true) : Memory.wf (s.returnLoadBy wr busy c q x).mem = true := by
  unfold State.returnLoadBy
  simp only
  split
  · rw [State.progress_mem]
    show Memory.wf (State.atomicSeen _ _ _).mem = true
    rw [State.atomicSeen_mem]
    exact performAtomicBy_wf k _ _ _ _ (by rw [State.noteWritten_mem]; exact h)
  · have e : Memory.wf (s.spendChoice (c, q, x.cls) x.pieces).mem = true := by rw [State.spendChoice_mem]; exact h
    split
    · rw [State.progress_mem]; exact e
    · exact e

/-- A store that is performed keeps the form. -/
theorem performStoreBy_wf {wr : Writer} (k : keepsForm wr) (busy : List AccessKey) (s : State) (c : CoreId) (q : SeqId) (x : Access)
    (h : Memory.wf s.mem = true) : Memory.wf (s.performStoreBy wr busy c q x).mem = true := by
  unfold State.performStoreBy
  rw [State.progress_mem]
  show Memory.wf (State.writeParts wr _ s c _).mem = true
  unfold State.writeParts
  rw [State.spadParts_mem]
  split
  · exact h
  · exact k _ _ _ (by rw [State.noteWritten_mem]; exact h)

/-- One access that is performed keeps the form. -/
theorem performOneBy_wf {wr : Writer} (k : keepsForm wr) (busy : List AccessKey) (s : State) (c : CoreId) (q : SeqId) (id : Nat)
    (h : Memory.wf s.mem = true) : Memory.wf (s.performOneBy wr busy c q id).mem = true := by
  unfold State.performOneBy
  repeat' split
  all_goals first | exact h | exact returnLoadBy_wf k _ _ _ _ _ h | exact performStoreBy_wf k _ _ _ _ _ h

/-- A fold of steps that keep the form keeps it. -/
theorem wf_foldl {α : Type} (f : State → α → State) (hf : ∀ s a, Memory.wf s.mem = true → Memory.wf (f s a).mem = true) (l : List α)
    (s : State) (h : Memory.wf s.mem = true) : Memory.wf (l.foldl f s).mem = true := by
  induction l generalizing s with
  | nil => exact h
  | cons a r ih => exact ih _ (hf s a h)

/-- A write of a copy that is performed keeps the form. -/
theorem putOctet_wf {wr : Writer} (k : keepsForm wr) (busy : List AccessKey) (s : State) (c : CoreId) (o : OctetWrite)
    (h : Memory.wf s.mem = true) : Memory.wf (s.putOctet (wr busy) c o).mem = true := by
  have e : Memory.wf (s.spendSources c o.srcs).mem = true := by rw [State.spendSources_mem]; exact h
  unfold State.putOctet
  simp only
  split
  · exact k _ _ _ (by rw [State.noteDests_mem]; exact e)
  · rename_i n
    unfold State.putPart
    split
    · exact e
    · exact absurd ‹_› n
    · exact e

/-- And the writes of a copy that are due. -/
theorem flushTodo_wf {wr : Writer} (k : keepsForm wr) (busy : List AccessKey) (s : State) (c : CoreId) (e : Eng) (p : OctetWrite → Bool)
    (h : Memory.wf s.mem = true) : Memory.wf (s.flushTodo (wr busy) c e p).mem = true := by
  unfold State.flushTodo
  split
  · exact h
  · exact wf_foldl _ (fun t o ht => putOctet_wf k busy t c o ht) _ _ h

/-- Performing what a write waits for keeps the form. -/
theorem settleBy_wf {wr : Writer} (k : keepsForm wr) (busy : List AccessKey) (s : State) (rs : List (Nat × Nat))
    (h : Memory.wf s.mem = true) : Memory.wf (s.settleBy wr busy rs).mem = true := by
  unfold State.settleBy State.flushOctets
  refine wf_foldl _ (fun t a ht => flushTodo_wf k busy t _ _ _ ht) _ _ ?_
  refine wf_foldl _ (fun t a ht => ?_) _ s h
  split
  · exact ht
  · exact wf_foldl _ (fun u i hu => performOneBy_wf k _ u _ _ i hu) _ t ht

/-- Every writer of the model keeps the form. -/
theorem writeBy_keepsForm (n : Nat) : keepsForm (State.writeBy n) := by
  induction n with
  | zero => exact fun _ s ws h => s.physPut_wf ws h
  | succ n ih => exact fun busy s ws h => State.physPut_wf _ ws (settleBy_wf ih busy s _ h)

/-- A write of memory keeps the canonical form. -/
theorem State.physWrite_wf (s : State) (ws : List (Nat × List Byte)) (h : Memory.wf s.mem = true) :
    Memory.wf (s.physWrite ws).mem = true := writeBy_keepsForm 8 [] s ws h

/-- Where nothing is watched, a write fires nothing (R303). -/
theorem State.fireAll_none {s : State} (h : ∀ d, (s.die d).watch = []) (m : Cells) : s.fireAll m = s := by
  unfold State.fireAll
  induction List.finRange 8 with
  | nil => rfl
  | cons d l ih => simpa only [List.foldl_cons, h d, List.foldl_nil] using ih

/-- Two states differ at most in memory and in which of its bytes are bad. -/
def memOnly (s t : State) : Prop := t = { s with mem := t.mem, memBad := t.memBad }

/-- A further write of memory keeps that. -/
theorem memOnly.write {s t : State} (h : memOnly s t) (m : Cells) (b : List Nat) : memOnly s { t with mem := m, memBad := b } := by
  have q := congrArg (fun v : State => { v with mem := m, memBad := b }) h
  exact q

/-- So does one state after another. -/
theorem memOnly.trans {s t u : State} (h : memOnly s t) (g : memOnly t u) : memOnly s u :=
  Eq.trans g (congrArg (fun v : State => { v with mem := u.mem, memBad := u.memBad }) h)

/-- The cores and the dies stay. -/
theorem memOnly.coreAt {s t : State} (h : memOnly s t) (c : CoreId) : t.coreAt c = s.coreAt c := by
  have q : t.cores = s.cores := by rw [show t = { s with mem := t.mem, memBad := t.memBad } from h]
  unfold State.coreAt
  rw [q]

theorem memOnly.die {s t : State} (h : memOnly s t) (d : DieId) : t.die d = s.die d := by
  have q : t.dies = s.dies := by rw [show t = { s with mem := t.mem, memBad := t.memBad } from h]
  unfold State.die
  rw [q]

/-- So does writing parts of a range. -/
theorem memOnly.putSpans {s : State} (l : Cells) (ps : List Piece) {u : State × Nat} (h : memOnly s u.1) :
    memOnly s (ps.foldl (putSpan l) u).1 := by
  induction ps generalizing u with
  | nil => exact h
  | cons p r ih => exact ih (u := putSpan l u p) (h.write _ _)

/-- A range that the device writes, while nothing is under way and nothing is watched, changes memory alone. -/
theorem State.writeRange_leaves {s t : State} {x : Nat} {va : A80} {n : Nat} {l : Cells} (h : ∀ c q, ((s.coreAt c).seq q).out = [])
    (g : ∀ c e, ((s.coreAt c).eng e).todo = []) (w : ∀ d, (s.die d).watch = []) (e : s.writeRange x va n l = .ok t) : memOnly s t := by
  unfold State.writeRange at e
  split at e
  · cases e
  · rename_i ps _
    split at e
    · cases e
    · rw [State.settleEntries_none (State.inFlight_none h _) g] at e
      have q := memOnly.putSpans l ps (u := (s, 0)) rfl
      have b := State.fireAll_none (fun d => (congrArg Die.watch (q.die d)).trans (w d)) s.mem
      exact Except.ok.inj e ▸ b.symm ▸ q

/-- The same of several ranges. -/
theorem State.writeRanges_leaves {x : Nat} {va : A80} (l : List (Nat × Nat × Cells)) {s t : State}
    (h : ∀ c q, ((s.coreAt c).seq q).out = []) (g : ∀ c e, ((s.coreAt c).eng e).todo = []) (w : ∀ d, (s.die d).watch = [])
    (e : s.writeRanges x va l = .ok t) : memOnly s t := by
  induction l generalizing s with
  | nil => exact Except.ok.inj e ▸ rfl
  | cons r l ih =>
    unfold State.writeRanges at e
    split at e
    · cases e
    · rename_i u hu
      have m := State.writeRange_leaves h g w hu
      exact m.trans (ih (fun c q => m.coreAt c ▸ h c q) (fun c y => m.coreAt c ▸ g c y) (fun d => m.die d ▸ w d) e)

/-- Where no tile has to be written and none is pinned in the store, a save leaves the tiles (R263). -/
theorem State.saveTiles_none {s : State} {c : CoreId} (f : Bool)
    (h : ∀ n : Fin 32, (s.coreAt c).tiles[n].mustWrite = false ∧ ((s.coreAt c).tiles[n].pinned && (s.coreAt c).tiles[n].present) = false) :
    (s.saveTiles c f).1 = s := by
  unfold State.saveTiles
  have g : ∀ (l : List (Fin 32)) (ts : List Tile), (l.foldl (State.saveTile f c) (s, ts)).1 = s := by
    intro l
    induction l with
    | nil => exact fun _ => rfl
    | cons n r ih =>
      intro ts
      have e : State.saveTile f c (s, ts) n =
          (s, ts ++ [{ (s.coreAt c).tiles[n] with busy := false, filling := false }]) := by
        unfold State.saveTile
        simp only
        rw [if_neg, if_neg]
        · rw [(h n).2]; decide
        · rw [show ({ (s.coreAt c).tiles[n] with busy := false, filling := false } : Tile).mustWrite = (s.coreAt c).tiles[n].mustWrite from rfl,
            (h n).1]; decide
      rw [List.foldl_cons, e]
      exact ih _
  exact g _ _

/-- The whole save of such a unit (R263): its ranges, behind a count of free values. -/
theorem State.hardSave_ranges {s : State} {c : CoreId} (u : Resident) (st : Stop)
    (t : ∀ n : Fin 32, (s.coreAt c).tiles[n].mustWrite = false ∧ ((s.coreAt c).tiles[n].pinned && (s.coreAt c).tiles[n].present) = false) :
    s.hardSave c u st =
      match ({ s with fresh := s.fresh + 1 } : State).writeRanges u.ctx (s.saveArea u)
        ((s.coreAt c).hardRanges u st s.tick (s.saveTiles c (s.fastForm u)).2 s.fresh) with
      | .error e => .error e
      | .ok w => .ok (w, (s.coreAt c).savePriv) := by
  unfold State.hardSave
  simp only
  rw [State.saveTiles_none _ t]
  all_goals
    generalize State.writeRanges _ _ _ _ = r
    cases r <;> rfl

/-- It succeeds where they are written. -/
theorem State.hardSave_ok {s w : State} {c : CoreId} {u : Resident} {st : Stop}
    (t : ∀ n : Fin 32, (s.coreAt c).tiles[n].mustWrite = false ∧ ((s.coreAt c).tiles[n].pinned && (s.coreAt c).tiles[n].present) = false)
    (e : ({ s with fresh := s.fresh + 1 } : State).writeRanges u.ctx (s.saveArea u)
      ((s.coreAt c).hardRanges u st s.tick (s.saveTiles c (s.fastForm u)).2 s.fresh) = .ok w) :
    s.hardSave c u st = .ok (w, (s.coreAt c).savePriv) := by
  rw [State.hardSave_ranges u st t, e]

/-- A whole save of such a unit (R263), while nothing is under way and nothing is watched, changes memory alone, and the count of free
values. -/
theorem State.hardSave_leaves {s w : State} {c : CoreId} {u : Resident} {st : Stop} {pr : SavePriv}
    (t : ∀ n : Fin 32, (s.coreAt c).tiles[n].mustWrite = false ∧ ((s.coreAt c).tiles[n].pinned && (s.coreAt c).tiles[n].present) = false)
    (h : ∀ c q, ((s.coreAt c).seq q).out = []) (g : ∀ c e, ((s.coreAt c).eng e).todo = []) (d : ∀ d, (s.die d).watch = [])
    (e : s.hardSave c u st = .ok (w, pr)) : memOnly { s with fresh := s.fresh + 1 } w := by
  rw [State.hardSave_ranges u st t] at e
  split at e
  · cases e
  · rename_i v hv
    cases e
    exact State.writeRanges_leaves _ (s := { s with fresh := s.fresh + 1 }) h g d hv

end Sys2Proof.Machine
end

