-- ==== Sys2Proof/Tests/Slice0.lean ====
section
/-! SUPPORT. The model's own tests: which terms are instructions, words written out from the spec's encodings, single steps, and
for each statement of the certificates a state and operands that meet its hypotheses. -/

namespace Sys2Proof.Tests

set_option Elab.async false

open Sys2Proof Sys2Proof.Machine Sys2Proof.Claim

/-! ## A small package -/

/-- What an engine reads from a command word, none where its check refuses the word. -/
def readCmd (e : Eng) (w : Nat) : Option Instr :=
  match decodeCmd e w with
  | .ok i => some i
  | .error _ => none

/-- A register access that neither stalls nor traps. -/
def isOk {α : Type} (r : Res α) : Bool :=
  match r with
  | .ok _ => true
  | _ => false

/-- What a check finds, none where it fails. -/
def gives {ε α : Type} (r : Except ε α) : Option α :=
  match r with
  | .ok v => some v
  | .error _ => none

/-- A context whose one range is the first 4 TiB, with a page table at 0x20000. -/
def tCtx (n : Nat) (parent : Option Nat) (depth : Fin 16) : Ctx :=
  { num := n, parent := parent, depth := depth, running := true, destroying := false, revoking := none, root := 0x20000, weight := 1,
    evlog := 0, wdog := 0, catches := 0, pinbase := 0x80000, evctr := 0, evq := 0x90000, init := 0, ranBefore := true,
    cores := BitVec.allOnes 512, ranges := [⟨0, 2 ^ 42, 7, false⟩], qcap := 4, floor := 0, privs := 7, pool := 1000, counters := [],
    nextEvent := 1, held := [], evLost := 0, completions := 0, admitted := false, broken := false, energy := [], part := none }

/-- A partition's part of a context that owns every island. -/
def tPart : Partition :=
  { islands := BitVec.allOnes 64, bankArea := 0x100000, pcap := 0xFFFF, prank := 0, ppower := 0, pthrot := 0, hbmflr := 0, rbcount := 0,
    windows := Vector.replicate 16 ⟨0, 0⟩, exports := Vector.replicate 16 ⟨0, 0⟩, powers := [], nextLaunch := 2, seenLimit := none }

/-- A task record of four units. -/
def tTask : TaskRec :=
  { image := 0xA0000, eclass := 0, rank := 0, units := 4, place := 1, preds := [], deadline := 0, startTick := 0, optab := 0xB0000,
    gang := false, persist := false, pvar := false, ibudi := 1, ibudt := 1, ibudg := 0, ccl := 0, ccg := 0, ccp := 0, ccj := 0,
    compl := 0xC0000, savepool := 0x1000000 }

/-- What a die holds of its image: one NOP at 0x100 of the image, continuation 0, no load list. -/
def tImg : Image :=
  { tiles := 0, vars := 1, wmask := Vector.replicate 6 0, smask := Vector.replicate 6 0, init := Vector.replicate 48 0, entries := [(0, 0)],
    code := putBytes [] 0 (leBytes 4 0xF0005000), conts := [⟨0, [], [(0, 0)]⟩], loads := [], input := [] }

/-- And of its operating-point table: eight equal entries. -/
def tEntries : List OpEntry :=
  List.replicate 8 { variant := 0, vlevel := 7, fdiv := ⟨1, 1, 1, 1⟩, caps := (15, 15), cores := 1 }

/-- A launch of context 1 whose unit 0 runs on core 0. -/
def tLaunch : Launch :=
  { id := 1, ctx := 1, task := tTask, shares := [(0, .running)], units := [⟨0, .running 0⟩], level := 7, deques := [], closed := [],
    ran := 0, faults := 0, gmin := 7, gmax := 7, caps := 0, fcause := 0, start := 0, iused := 0, tused := 0, startCycle := 0, mark := none,
    markCycle := 0, images := [(0, tImg, tEntries)], cores := 64, held := false }

/-- The page table of both contexts: one leaf of 4 TiB at level 2, address for address. -/
def tTable : Cells :=
  [(0x20000, 4), (0x20008, 1), (0x40000, 6), (0x40008, 1), (0x60008, 1), (0x60009, 0x0F)]

/-- The unit on core 0. -/
def tUnit : Resident := { Resident.bare with launch := 1, ctx := 1 }

/-- After reset, with that unit on core 0. -/
def tBase : State :=
  State.reset.modCore 0 fun k => { k with unit := some tUnit, sys := { k.sys with budi := 1000, budt := 1000, budg := 1000 } }

/-- A package with a partition, a child context, a launch and its unit on core 0. -/
def t0 : State :=
  { tBase with
         ctxs := [{ tCtx 0 none 0 with part := some tPart }, tCtx 1 (some 0) 1], launches := [tLaunch], mem := tTable, nextLaunch := 2,
         islands := State.reset.islands.set 0 { Island.reset with state := .on } }

/-- Registers g1 to g4 and a1, a2 of the X-sequencer. -/
def t1 (x y z w : W64) (p q : A80) : State :=
  t0.modCur fun k => k.modSeq .x fun r =>
    { r with g := (((r.g.set 1 x).set 2 y).set 3 z).set 4 w, a := (r.a.set 1 p).set 2 q }

/-- g1 = 5, g2 = 2^63, g3, g4, a1 at memory, a2 at the local window; core 0, X-sequencer. -/
def t2 : State := t1 5 (2 ^ 63) 0 16 0x70000 (BitVec.ofNat 80 (2 ^ 80 - 2 ^ 22))

/-- The other cores of t2 are as after reset. -/
theorem t2_others (c : CoreId) (h : c ≠ 0) : t2.coreAt c = Core.reset := by
  have e : t2.coreAt c = State.reset.coreAt c :=
    (State.coreAt_modCore_ne _ _ (Ne.symm h)).trans
      (show tBase.coreAt c = State.reset.coreAt c from State.coreAt_modCore_ne State.reset _ (Ne.symm h))
  rw [e]
  simp [State.coreAt, State.reset]

/-- What holds of core 0 of t2 and of a core after reset holds of every core of t2. -/
theorem t2_cores (p : Core → Prop) (h0 : p (t2.coreAt 0)) (hr : p Core.reset) (c : CoreId) : p (t2.coreAt c) := by
  by_cases h : c = 0
  · exact h ▸ h0
  · exact (t2_others c h).symm ▸ hr

/-- No access in flight satisfies a condition that those of core 0 fail, where the other cores have none. -/
theorem inFlight_nil {s : State} {p : CoreId → Access → Bool} (h0 : ([SeqId.a, .x].all fun q => ((s.coreAt 0).seq q).out.all fun x => !p 0 x) = true)
    (h : ∀ c, c ≠ 0 → ∀ q, ((s.coreAt c).seq q).out = []) : s.inFlight p = [] := by
  unfold State.inFlight
  simp only [List.flatMap_eq_nil_iff, List.map_eq_nil_iff, List.filter_eq_nil_iff]
  intro c _ q _ x hx
  by_cases e : c = 0
  · subst e
    have m : q ∈ [SeqId.a, .x] := by cases q <;> decide
    simpa using List.all_eq_true.mp (List.all_eq_true.mp h0 q m) x hx
  · rw [h c e q] at hx
    cases hx

/-- Where nothing is in flight, nothing is. -/
theorem inFlight_none {s : State} (h : noneInFlight s) (p : CoreId → Access → Bool) : s.inFlight p = [] := by
  have a : ((s.coreAt 0).seq .a).out = [] := h.1 0 .a
  have b : ((s.coreAt 0).seq .x).out = [] := h.1 0 .x
  exact inFlight_nil (by simp only [List.all_cons, a, b, List.all_nil, Bool.and_true]) fun c _ q => h.1 c q

/-- No core holds a unit of some kind where none meets it. -/
theorem holding_nil {s : State} {p : Resident → Bool} (h : ∀ c u, (s.coreAt c).unit = some u → p u = false) : s.holding p = [] := by
  unfold State.holding State.resident
  rw [List.filter_eq_nil_iff]
  intro c _ e
  split at e
  · rename_i u hu
    rw [h c u hu] at e
    cases e
  · cases e

/-- Only core 0 holds a unit of some kind where the other cores hold none. -/
theorem holding_one {s : State} {p : Resident → Bool} (h0 : (s.coreAt 0).unit.any p = true) (h : ∀ c, c ≠ 0 → (s.coreAt c).unit = none) :
    s.holding p = [0] := by
  have e : allCores = 0 :: (List.finRange 511).map Fin.succ := List.finRange_succ
  unfold State.holding State.resident
  rw [e, List.filter_cons_of_pos, List.filter_eq_nil_iff.mpr]
  · intro c m
    obtain ⟨d, -, rfl⟩ := List.mem_map.mp m
    rw [h _ (Fin.succ_ne_zero d)]
    exact Bool.noConfusion
  · cases u : (s.coreAt 0).unit with
    | none => rw [u] at h0; exact h0
    | some v => rw [u] at h0; exact h0

/-- A core that a change of core 0 leaves as after reset. -/
theorem modCur_others {s : State} (h : ∀ c, c ≠ 0 → s.coreAt c = Core.reset) (e : s.core = 0) (f : Core → Core) (c : CoreId) (n : c ≠ 0) :
    (s.modCur f).coreAt c = Core.reset := by
  rw [State.modCur, State.coreAt_modCore_ne s f (by rw [e]; exact Ne.symm n)]
  exact h c n

/-- A change of core 0 that keeps its unit. -/
theorem modCur_unit {s : State} (e : s.core = 0) (f : Core → Core) (g : ∀ k, (f k).unit = k.unit) :
    ((s.modCur f).coreAt 0).unit = (s.coreAt 0).unit := by
  rw [State.modCur, e, State.coreAt_modCore_self, g]

/-- Where nothing is in flight, nothing was translated through any entry. -/
theorem untouched_none {s : State} (h : noneInFlight s) (rs : List (Nat × Nat)) : untouched s rs := ⟨inFlight_none h _, h.2⟩

/-- What a change of core 0 keeps of core 0 and leaves of the others holds of every core. -/
theorem modCur_all {s : State} (p : Core → Prop) (h : ∀ c, p (s.coreAt c)) (e : s.core = 0) (f : Core → Core)
    (g : p (s.coreAt 0) → p (f (s.coreAt 0))) (c : CoreId) : p ((s.modCur f).coreAt c) := by
  by_cases n : c = 0
  · rw [n, State.modCur, e, State.coreAt_modCore_self]
    exact g (h 0)
  · rw [State.modCur, e, State.coreAt_modCore_ne s f (Ne.symm n)]
    exact h c

/-- A change of core 0 that starts no access and no copy starts none. -/
theorem modCur_none {s : State} (h : noneInFlight s) (e : s.core = 0) (f : Core → Core)
    (g : ∀ k q, ((f k).seq q).out = (k.seq q).out) (w : ∀ k d, ((f k).eng d).todo = (k.eng d).todo) : noneInFlight (s.modCur f) :=
  ⟨fun c q => modCur_all (fun k => (k.seq q).out = []) (fun c => h.1 c q) e f (fun y => (g _ q).trans y) c,
   fun c d => modCur_all (fun k => (k.eng d).todo = []) (fun c => h.2 c d) e f (fun y => (w _ d).trans y) c⟩

/-- No access and no copy is in flight in t2. -/
theorem t2_none : noneInFlight t2 :=
  ⟨fun c q => t2_cores (fun k => (k.seq q).out = []) (by cases q <;> rfl) (by cases q <;> rfl) c,
   fun c e => t2_cores (fun k => (k.eng e).todo = []) (by cases e <;> rfl) (by cases e <;> rfl) c⟩

/-! ## A table that maps address for address, for any contents of memory behind it -/

/-- A walk whose entries at levels 0 and 1 name the next table, and at level 2 a leaf of 4 TiB for address 0 (R293). -/
theorem walk_one (rd : Nat → Nat → Except TFault Nat) (part : Bool) (va : Nat) (hv : va < 2 ^ 42)
   (h0 : rd 0 0x20000 = .ok (2 ^ 64 + 4)) (h1 : rd 1 0x40000 = .ok (2 ^ 64 + 6)) (h2 : rd 2 0x60000 = .ok (2 ^ 72 * 15 + 2 ^ 64)) (need : Perm)
   (hn : need = 1 ∨ need = 2) : 
   walkFrom rd part need va walkShifts 0x20000 = .ok (va, 2) := by
  have z68 : va / 2 ^ 68 = 0 := Nat.div_eq_of_lt (by omega)
  have z55 : va / 2 ^ 55 = 0 := Nat.div_eq_of_lt (by omega)
  have z42 : va / 2 ^ 42 = 0 := Nat.div_eq_of_lt (by omega)
  have m42 : va % 2 ^ 42 = va := Nat.mod_eq_of_lt hv
  have p : Perm.within need (BitVec.ofNat 3 (bitsOf (2 ^ 72 * 15 + 2 ^ 64) 73 3)) = true := by rcases hn with rfl | rfl <;> decide
  unfold walkShifts walkFrom
  simp only [z68, Nat.zero_mod, Nat.mul_zero, Nat.add_zero, h0]
  rw [if_neg (by cases part <;> decide), if_pos (by decide), if_neg (by decide), if_neg (by decide)]
  unfold walkFrom
  simp only [z55, Nat.zero_mod, Nat.mul_zero, Nat.add_zero, show bitsOf (2 ^ 64 + 4) 0 64 * 65536 = 0x40000 by decide, h1]
  rw [if_neg (by cases part <;> decide), if_pos (by decide), if_neg (by decide), if_neg (by decide)]
  unfold walkFrom
  simp only [z42, Nat.zero_mod, Nat.mul_zero, Nat.add_zero, show bitsOf (2 ^ 64 + 6) 0 64 * 65536 = 0x60000 by decide, h2, p]
  rw [if_neg (by cases part <;> decide), if_neg (by decide), if_neg (by decide), if_neg (by decide), if_neg (by cases part <;> decide), if_neg (by decide), m42]
  exact congrArg (fun x => Except.ok (x, 2)) (by simp [bitsOf])

/-- What a state keeps for which the table of 4 TiB maps address for address. -/
structure Mapped (t : State) (c0 c1 : Ctx) : Prop where
  at0 : t.ctx 0 = some c0
  at1 : t.ctx 1 = some c1
  up0 : c0.parent = none ∧ c0.root.toNat = 0x20000 ∧ c0.ranges = [⟨0, 2 ^ 42, 7, false⟩] ∧ c0.destroying = false
  up1 : c1.parent = some 0 ∧ c1.root.toNat = 0x20000 ∧ c1.ranges = [⟨0, 2 ^ 42, 7, false⟩] ∧ c1.destroying = false
  e0 : leNat (t.physRead 0x20000 16) = 2 ^ 64 + 4
  e1 : leNat (t.physRead 0x40000 16) = 2 ^ 64 + 6
  e2 : leNat (t.physRead 0x60000 16) = 2 ^ 72 * 15 + 2 ^ 64
  good : t.memBad = [] ∧ t.memctl.retired = [] ∧ t.service = .full
  calm : t.live = [] ∧ (∀ va, t.fabricWindow 1 va = none) ∧ ∀ d, (t.die d).watch = []
  idle : (∀ c q, ((t.coreAt c).seq q).out = []) ∧ ∀ c e, ((t.coreAt c).eng e).todo = []

/-- No byte there is uncorrectable. -/
theorem Mapped.unc {t : State} {c0 c1 : Ctx} (h : Mapped t c0 c1) (pa n : Nat) : t.firstUnc pa n = none := by
  have r : ∀ x, t.isRetired x = false := by
    intro x
    unfold State.isRetired
    rw [h.good.2.1]
    split <;> rfl
  have e : ∀ l : List Nat, l.find? t.isRetired = none := fun l => by
    rw [List.find?_eq_none]
    intro x _
    rw [r x]
    decide
  unfold State.firstUnc
  rw [h.good.1]
  simp [firstBad, e]

/-- The first 512 GiB may be reached. -/
theorem Mapped.mapped {t : State} {c0 c1 : Ctx} (h : Mapped t c0 c1) {pa : Nat} (hp : pa < 2 ^ 39) : t.mapped pa = true := by
  have r : regionOf pa = .hbm (Fin.ofNat 8 (pa / 0x1000000000)) := by unfold regionOf; rw [if_pos (by omega)]
  unfold State.mapped State.reducedService
  rw [r, h.good.2.2]
  rfl

/-- And lie in the one range. -/
theorem Mapped.range {c : Ctx} (h : c.ranges = [⟨0, 2 ^ 42, 7, false⟩]) {a : Nat} (ha : a < 2 ^ 39) : rangeOf c a = some ⟨0, 2 ^ 42, 7, false⟩ := by
  unfold rangeOf
  rw [h]
  simp
  omega

/-- The root's translation. -/
theorem Mapped.root {t : State} {c0 c1 : Ctx} (h : Mapped t c0 c1) (own : Bool) (n : Nat) {va : Nat} (hv : va < 2 ^ 39) {need : Perm}
    (hn : need = 1 ∨ need = 2) : t.compose own (n + 1) 0 va need = .ok va := by
  have o : ∀ a, a < 2 ^ 39 → (regionOf a == .outside) = false := fun a ha => by
    unfold regionOf; rw [if_pos (by omega)]; rfl
  unfold State.compose
  simp only [h.at0, h.up0.1, h.up0.2.1]
  rw [walk_one _ _ va (by omega) ?_ ?_ ?_ need hn]
  · rcases hn with rfl | rfl <;> simp [Mapped.range h.up0.2.2.1 hv, gone, h.up0.2.2.2] <;> decide
  · simp [o, h.mapped, h.unc, h.e0]
  · simp [o, h.mapped, h.unc, h.e1]
  · simp [o, h.mapped, h.unc, h.e2]

/-- Its child's, composed with the root's (R332). -/
theorem Mapped.child {t : State} {c0 c1 : Ctx} (h : Mapped t c0 c1) (own : Bool) (n : Nat) {va : Nat} (hv : va < 2 ^ 39) {need : Perm}
    (hn : need = 1 ∨ need = 2) : t.compose own (n + 2) 1 va need = .ok va := by
  unfold State.compose
  simp only [h.at1, h.up1.1, h.up1.2.1]
  rw [walk_one _ _ va (by omega) ?_ ?_ ?_ need hn]
  · simp only [h.root own n hv hn]
    rcases hn with rfl | rfl <;> simp [Mapped.range h.up1.2.2.1 hv, gone, h.up1.2.2.2] <;> decide
  · rw [h.root own n (va := 0x20000) (by decide) (.inl rfl)]
    simp [h.mapped, h.unc, h.e0]
  · rw [h.root own n (va := 0x40000) (by decide) (.inl rfl)]
    simp [h.mapped, h.unc, h.e1]
  · rw [h.root own n (va := 0x60000) (by decide) (.inl rfl)]
    simp [h.mapped, h.unc, h.e2]


/-- So the parts of a device access lie where their addresses say. -/
theorem Mapped.pieces {t : State} {c0 c1 : Ctx} (h : Mapped t c0 c1) (own : Bool) {need : Perm} (hn : need = 1 ∨ need = 2)
    (l : List (A80 × Nat)) (b : ∀ p ∈ l, p.1.toNat < 2 ^ 39) :
    t.piecesAs own 1 need l = .ok (l.map fun p => ⟨p.1, .phys, p.1.toNat, p.2⟩) := by
  induction l with
  | nil => rfl
  | cons p r ih =>
    have v := b p (.head _)
    have i : inLocal p.1 = false := by simp [inLocal]; omega
    have j : inCluster p.1 = false := by simp [inCluster]; omega
    have e : t.pieceAs own 1 p.1 p.2 need = .ok ⟨p.1, .phys, p.1.toNat, p.2⟩ := by
      unfold State.pieceAs State.translateAs
      rw [i, j, h.calm.2.1, h.child own 8 v hn]
      simp [h.mapped v]
    unfold State.piecesAs
    rw [e, ih fun q m => b q (.tail _ m)]
    rfl

theorem Mapped.memPieces {t : State} {c0 c1 : Ctx} (h : Mapped t c0 c1) (own : Bool) {need : Perm} (hn : need = 1 ∨ need = 2) {va : A80}
    {n : Nat} (b : ∀ p ∈ pagesOf va n, p.1.toNat < 2 ^ 39) :
    t.memPiecesAs own 1 va n need = .ok ((pagesOf va n).map fun p => ⟨p.1, .phys, p.1.toNat, p.2⟩) := by
  unfold State.memPiecesAs
  rw [h.pieces own hn _ b]
  have f : ((pagesOf va n).map fun p => (⟨p.1, .phys, p.1.toNat, p.2⟩ : Piece)).find? (fun p => p.space != .phys) = none := by
    rw [List.find?_eq_none]
    intro p hp
    obtain ⟨z, -, rfl⟩ := List.mem_map.mp hp
    simp
  simp only [f]

/-- Nothing keeps them from being written. -/
theorem Mapped.free {t : State} {c0 c1 : Ctx} (h : Mapped t c0 c1) (ps : List Piece) : t.writeBar ps = none := by
  have r : ∀ x, t.isRetired x = false := by
    intro x
    unfold State.isRetired
    rw [h.good.2.1]
    split <;> rfl
  unfold State.writeBar State.anyLive State.firstRetired
  rw [h.calm.1]
  simp [r]

/-- Bytes below a range that is written. -/
theorem getBytes_putCells (m : Cells) {a n x k : Nat} (l : Cells) (h : x + k ≤ a) : getBytes (putCells m a n l) x k = getBytes m x k := by
  unfold getBytes putCells
  rw [List.filter_append, List.filter_append]
  have e : ((l.filter fun c => decide (c.1 < n)).map fun c => (a + c.1, c.2)).filter (fun c => decide (x ≤ c.1) && decide (c.1 < x + k)) = [] := by
    rw [List.filter_eq_nil_iff]
    intro c hc
    obtain ⟨d, -, rfl⟩ := List.mem_map.mp hc
    simp
    omega
  have f : (m.filter fun c => decide (a + n ≤ c.1)).filter (fun c => decide (x ≤ c.1) && decide (c.1 < x + k)) = [] := by
    rw [List.filter_eq_nil_iff]
    intro c hc
    have := (List.mem_filter.mp hc).2
    simp at this ⊢
    omega
  rw [e, f, List.append_nil, List.append_nil, List.filter_filter]
  congr 1
  refine List.filter_congr fun c _ => ?_
  simp
  omega

/-- The cells of parts of memory, one behind another. -/
def gatherCells (m : Cells) (ps : List (A80 × Nat)) : Cells :=
  ((ps.map fun p => (⟨p.1, .phys, p.1.toNat, p.2⟩ : Piece)).foldl (fun (u : Cells × Nat) p =>
    (u.1 ++ (takeCells m p.addr p.len).map (fun c => (u.2 + c.1, c.2)), u.2 + p.len)) ([], 0)).1

/-- A range is read. -/
theorem Mapped.readRange {t : State} {c0 c1 : Ctx} (h : Mapped t c0 c1) {va : A80} {n : Nat} (b : ∀ p ∈ pagesOf va n, p.1.toNat < 2 ^ 39) :
    t.readRange 1 va n = .ok (gatherCells t.mem (pagesOf va n)) := by
  unfold State.readRange State.memPieces
  rw [h.memPieces false (.inl rfl) b]
  have f : ∀ ps : List Piece, (ps.findSome? fun p => (t.firstUnc p.addr p.len).map fun b => (uncFault, p.va + BitVec.ofNat 80 (b - p.addr))) = none :=
    fun ps => by rw [List.findSome?_eq_none_iff]; intro p _; rw [h.unc]; rfl
  simp only [f]
  rfl

/-- Several ranges are read. -/
theorem Mapped.readRanges {t : State} {c0 c1 : Ctx} (h : Mapped t c0 c1) (base : A80) (l : List (Nat × Nat))
    (b : ∀ r ∈ l, ∀ p ∈ pagesOf (base + BitVec.ofNat 80 r.1) r.2, p.1.toNat < 2 ^ 39) :
    t.readRanges 1 base l =
      .ok (l.foldr (fun r m => putCells m r.1 r.2 (gatherCells t.mem (pagesOf (base + BitVec.ofNat 80 r.1) r.2))) []) := by
  induction l with
  | nil => rfl
  | cons r l ih =>
    unfold State.readRanges
    rw [h.readRange (b r (.head _)), ih fun q m => b q (.tail _ m)]
    rfl

/-- A change of memory alone that spares the table keeps it. -/
theorem Mapped.after {t u : State} {c0 c1 : Ctx} (h : Mapped t c0 c1) (o : memOnly t u) (b : u.memBad = [])
    (r : ∀ x, x + 16 ≤ 0x60010 → getBytes u.mem x 16 = getBytes t.mem x 16) : Mapped u c0 c1 := by
  have e (x : Nat) (hx : x + 16 ≤ 0x60010) : u.physRead x 16 = t.physRead x 16 := r x hx
  have m : Mapped { t with mem := u.mem, memBad := u.memBad } c0 c1 :=
    { at0 := h.at0, at1 := h.at1, up0 := h.up0, up1 := h.up1, e0 := (congrArg leNat (e 0x20000 (by decide))).trans h.e0,
      e1 := (congrArg leNat (e 0x40000 (by decide))).trans h.e1, e2 := (congrArg leNat (e 0x60000 (by decide))).trans h.e2,
      good := ⟨b, h.good.2⟩, calm := h.calm, idle := h.idle }
  exact Eq.mpr (congrArg (Mapped · c0 c1) o) m

/-- A range behind the table is written. -/
theorem Mapped.writeRange {t : State} {c0 c1 : Ctx} (h : Mapped t c0 c1) {va : A80} {n : Nat} (l : Cells)
    (b : ∀ p ∈ pagesOf va n, 0x60010 ≤ p.1.toNat ∧ p.1.toNat < 2 ^ 39) :
    ∃ u, t.writeRange 1 va n l = .ok u ∧ memOnly t u ∧ Mapped u c0 c1 := by
  have m := h.memPieces true (.inr rfl) (va := va) (n := n) fun p m => (b p m).2
  have w := h.free ((pagesOf va n).map fun p => ⟨p.1, .phys, p.1.toNat, p.2⟩)
  have k : ∀ (ps : List Piece) (u : State × Nat), (∀ p ∈ ps, 0x60010 ≤ p.addr) → u.1.memBad = [] →
      (ps.foldl (putSpan l) u).1.memBad = [] ∧
      ∀ x, x + 16 ≤ 0x60010 → getBytes (ps.foldl (putSpan l) u).1.mem x 16 = getBytes u.1.mem x 16 := by
    intro ps
    induction ps with
    | nil => exact fun u _ g => ⟨g, fun _ _ => rfl⟩
    | cons p r ih =>
      intro u q g
      have s := ih (putSpan l u p) (fun p m => q p (.tail _ m)) (by show clearBad u.1.memBad _ _ = []; rw [g]; rfl)
      refine ⟨s.1, fun x hx => (s.2 x hx).trans (getBytes_putCells _ _ ?_)⟩
      have := q p (.head _)
      omega
  have s := k ((pagesOf va n).map fun p => ⟨p.1, .phys, p.1.toNat, p.2⟩) (t, 0) (by
    intro p hp
    obtain ⟨z, hz, rfl⟩ := List.mem_map.mp hp
    exact (b z hz).1) h.good.1
  have e : t.writeRange 1 va n l =
      .ok ((((pagesOf va n).map fun p => (⟨p.1, .phys, p.1.toNat, p.2⟩ : Piece)).foldl (putSpan l) (t, 0)).1.fireAll t.mem) := by
    unfold State.writeRange
    rw [m]
    simp only [w]
    rw [State.settleEntries_none (State.inFlight_none h.idle.1 _) h.idle.2]
  have o := memOnly.putSpans l ((pagesOf va n).map fun p => ⟨p.1, .phys, p.1.toNat, p.2⟩) (u := (t, 0)) rfl
  rw [State.fireAll_none (fun d => (congrArg Die.watch (o.die d)).trans (h.calm.2.2 d))] at e
  exact ⟨_, e, o, h.after o s.1 s.2⟩

/-- Several ranges behind the table are written. -/
theorem Mapped.writeRanges {c0 c1 : Ctx} (base : A80) (l : List (Nat × Nat × Cells)) {t : State} (h : Mapped t c0 c1)
    (b : ∀ r ∈ l, ∀ p ∈ pagesOf (base + BitVec.ofNat 80 r.1) r.2.1, 0x60010 ≤ p.1.toNat ∧ p.1.toNat < 2 ^ 39) :
    ∃ u, t.writeRanges 1 base l = .ok u ∧ memOnly t u ∧ Mapped u c0 c1 := by
  induction l generalizing t with
  | nil => exact ⟨t, rfl, rfl, h⟩
  | cons r l ih =>
    obtain ⟨u, e, m, k⟩ := h.writeRange r.2.2 (b r (.head _))
    obtain ⟨v, f, n, k'⟩ := ih k fun q m => b q (.tail _ m)
    refine ⟨v, ?_, m.trans n, k'⟩
    unfold State.writeRanges
    rw [e]
    exact f

/-! ## Ill-formed terms -/

/-- Terms of which a field lies outside its range (R40, R56), one for each check. -/
theorem test_wf_range :
    ([.lds 1 2 0 0 3, .loop 1 0, .loopi 4 0, .semwait 3 .none, .sempost 0 3 .none, .sempost 2 3 .add, .ringset .m 1 9, .topup 1 3,
      .setdiv .c 0, .setdiv .c 17, .ctxinfo 1 2 12, .mfs 1 0x14, .mts 1 0x14, .mlda ⟨0, .none, 0, .none⟩ 0 8 8,
      .mstep ⟨0, .none, 0, .none⟩ 0 17 false, .mclr ⟨0, .none, 0, .none⟩ 31 1 0, .manch ⟨0, .none, 0, .none⟩ 1 31 0,
      .mpin ⟨0, .none, 0, .none⟩ 30 2 0, .munpin ⟨0, .none, 0, .none⟩ 31 1, .mspill ⟨0, .none, 0, .none⟩ 31 1 true,
      .mfill ⟨0, .none, 0, .none⟩ 31 1, .mdelta ⟨0, .none, 0, .none⟩ 17 3 0 0, .mquery ⟨0, .none, 0, .none⟩ 17 3 (.sof 0) .latch,
      .mquery ⟨0, .none, 0, .none⟩ 0 0 .latch .latch, .mquery ⟨0, .none, 0, .none⟩ 0 0 (.sof 0) (.scalar 1),
      .vbcst ⟨0, .none, 0, .none⟩ .fp32 false .latch .latch, .vtrn ⟨0, .none, 0, .none⟩ .fp32 false (.scalar 0) .latch,
      .vqnt ⟨0, .none, 0, .none⟩ .fp32 (.scalar 0) .latch .e4m3 0, .vqntPb ⟨0, .none, 0, .none⟩ .fp32 .latch (.scalar 0) 7 0,
      .vscl ⟨0, .none, 0, .none⟩ .fp32 (.scalar 0) .latch .pb, .vdeq ⟨0, .none, 0, .none⟩ false .latch .latch .latch,
      .vcvt ⟨0, .none, 0, .none⟩ .fp32 false .latch .latch .mx, .vcvtRz ⟨0, .none, 0, .none⟩ .fp32 false .latch .latch .mx,
      .vcvtSr ⟨0, .none, 0, .none⟩ .fp32 false .latch .latch .mx, .vacc ⟨0, .none, 0, .none⟩ .fp32 false (.scalar 0) 0,
      .vview ⟨0, .none, 0, .none⟩ .fp32 0 1535 1 0 .e4m3, .vview ⟨0, .none, 0, .none⟩ .fp32 0 0 0 0 .e5m2,
      .vdefer ⟨0, .none, 0, .none⟩ .fp32 false 0 (.sof 13) 3 0, .vdefer ⟨0, .none, 0, .none⟩ .fp32 false 0 .latch 0 0,
      .vdrain ⟨0, .none, 0, .none⟩ .fp32 (.sof 13) 0 3 0 false 0] : List Instr).all
      (fun i => !i.rangeOk && i.alignOk && i.typeOk) = true := by decide

/-- Terms whose scratchpad offset is not aligned (R57, R60, R172), one for each check. -/
theorem test_wf_align :
    ([.mlda ⟨0, .none, 0, .none⟩ 64 0 0, .mstep ⟨0, .none, 0, .none⟩ 64 0 false, .mnest ⟨0, .none, 0, .none⟩ 128,
      .mdelta ⟨0, .none, 0, .none⟩ 0 0 0 32, .vld ⟨0, .none, 0, .none⟩ false .latch 32, .vld ⟨0, .none, 0, .none⟩ false (.scalar 0) 4,
      .vst ⟨0, .none, 0, .none⟩ false .latch 32, .ccopy ⟨0, .none, 0, .none⟩ 32, .cred ⟨0, .none, 0, .none⟩ 32 .add .fp32,
      .cfill ⟨0, .none, 0, .none⟩ 32, .cpref ⟨0, .none, 0, .none⟩ 32, .cflush ⟨0, .none, 0, .none⟩ 32, .cnest ⟨0, .none, 0, .none⟩ 64,
      .cgo ⟨0, .none, 0, .none⟩ 32, .cpack ⟨0, .none, 0, .none⟩ 32 0, .cunpack ⟨0, .none, 0, .none⟩ 32 0,
      .cjump ⟨0, .none, 0, .none⟩ 32] : List Instr).all (fun i => i.rangeOk && !i.alignOk && i.typeOk) = true := by decide

/-- Terms whose type their entry does not allow (R59, R159), one for each check. -/
theorem test_wf_type :
    ([.vadd ⟨0, .none, 0, .none⟩ .mx false .latch .latch .latch, .vfma ⟨0, .none, 0, .none⟩ .int8 false .latch .latch .latch,
      .vaddRz ⟨0, .none, 0, .none⟩ .int32 false .latch .latch .latch, .vmulSr ⟨0, .none, 0, .none⟩ .mx false .latch .latch .latch,
      .vcvtRz ⟨0, .none, 0, .none⟩ .int32 false .latch .latch .fp32, .vmin ⟨0, .none, 0, .none⟩ .mx false .latch .latch .latch,
      .vabs ⟨0, .none, 0, .none⟩ .uint8 false .latch .latch, .vmac8 ⟨0, .none, 0, .none⟩ .int16 false .latch .latch .latch,
      .vadds ⟨0, .none, 0, .none⟩ .fp32 false .latch .latch .latch, .vrshr ⟨0, .none, 0, .none⟩ .bf16 false .latch .latch 1,
      .vceq ⟨0, .none, 0, .none⟩ .mx false 0 .latch .latch, .vsel ⟨0, .none, 0, .none⟩ .mx .latch .latch .latch,
      .vbcst ⟨0, .none, 0, .none⟩ .mx false .latch (.sof 0), .vperm ⟨0, .none, 0, .none⟩ .mx false .latch .latch .latch,
      .vred ⟨0, .none, 0, .none⟩ .mx false .latch .latch .add, .vcvt ⟨0, .none, 0, .none⟩ .mx false .latch .latch .fp32,
      .vqnt ⟨0, .none, 0, .none⟩ .fp16 .latch .latch .e4m3 0, .vgath ⟨0, .none, 0, .none⟩ .mx false .latch .latch 0,
      .vacc ⟨0, .none, 0, .none⟩ .fp16 false .latch 0, .vdefer ⟨0, .none, 0, .none⟩ .mx false 0 (.sof 0) 0 0,
      .vdrain ⟨0, .none, 0, .none⟩ .mx (.sof 0) 0 0 0 false 0] : List Instr).all
      (fun i => i.rangeOk && i.alignOk && !i.typeOk) = true := by decide

/-- Words that R40 and R48 to R55 make illegal: an unlisted function number, a reserved bit, a code out of range. -/
theorem test_decode_illegal :
    [decodeWords [0], decodeWords [0x04431011], decodeWords [0x08A60800], decodeWords [0x80400000], decodeWords [0x68C00009],
     decodeWords [0x9C000000], decodeWords [0xD4003000], decodeWords [0xF0009000], decodeWords [0xF0000014], decodeWords []] =
    [none, none, none, none, none, none, none, none, none, none] := by decide

/-- Command words that R16 and R56 refuse, with the qualifier that tells why: opcode 0, reserved bit 1, range 2, alignment 3, type 4. -/
theorem test_decode_refused :
    [decodeCmd .m 0x0000_3F00_0000_0000, decodeCmd .m 0x0000_0100_0000_0100, decodeCmd .m 0x0000_0600_0000_003F,
     decodeCmd .m 0x0000_0400_0000_0040, decodeCmd .v 0x0000_1160_0000_0000, decodeCmd .v 0x0000_0FE0_8010_0403].map
      (fun r => match r with | .error q => q | .ok _ => 9) = [0, 1, 2, 3, 9, 4] := by decide

/-! ## Words -/

/-- Words of the integer instructions, laid out from the tables of R41 to R55 and the worked encodings beside them. -/
theorem test_decode_integer :
    [decodeWords [0x04432000],
     decodeWords [0x04632801],
     decodeWords [0x04833002],
     decodeWords [0x04A33803],
     decodeWords [0x04C34004],
     decodeWords [0x04434805],
     decodeWords [0x04635006],
     decodeWords [0x04832007],
     decodeWords [0x04A32808],
     decodeWords [0x04C33009],
     decodeWords [0x0443380A],
     decodeWords [0x0463400B],
     decodeWords [0x0483480C],
     decodeWords [0x04A3500D],
     decodeWords [0x04C3200E],
     decodeWords [0x0443280F],
     decodeWords [0x04633010]] =
    [some (.add 2 3 4),
     some (.sub 3 3 5),
     some (.and 4 3 6),
     some (.or 5 3 7),
     some (.xor 6 3 8),
     some (.andn 2 3 9),
     some (.shl 3 3 10),
     some (.shr 4 3 4),
     some (.sra 5 3 5),
     some (.rol 6 3 6),
     some (.min 2 3 7),
     some (.max 3 3 8),
     some (.minu 4 3 9),
     some (.maxu 5 3 10),
     some (.slt 6 3 4),
     some (.sltu 2 3 5),
     some (.seq 3 3 6)] := by decide

/-- Words of the bits instructions, laid out from the tables of R41 to R55 and the worked encodings beside them. -/
theorem test_decode_bits :
    [decodeWords [0x08A60000],
     decodeWords [0x08A60001],
     decodeWords [0x08A60002],
     decodeWords [0x08A63803],
     decodeWords [0x08A63804],
     decodeWords [0x08A63805],
     decodeWords [0x08A63806]] =
    [some (.clz 5 6),
     some (.ctz 5 6),
     some (.popc 5 6),
     some (.bfx 5 6 7),
     some (.bfxu 5 6 7),
     some (.bfi 5 6 7),
     some (.csel 5 6 7)] := by decide

/-- Words of the multiply instructions, laid out from the tables of R41 to R55 and the worked encodings beside them. -/
theorem test_decode_multiply :
    [decodeWords [0x0F61D000],
     decodeWords [0x0F61D001],
     decodeWords [0x0F61D002],
     decodeWords [0x0F61D003],
     decodeWords [0x0F61D004],
     decodeWords [0x0F61D005],
     decodeWords [0x0F61D006]] =
    [some (.mul 27 1 26),
     some (.mulh 27 1 26),
     some (.mulhu 27 1 26),
     some (.div 27 1 26),
     some (.divu 27 1 26),
     some (.rem 27 1 26),
     some (.remu 27 1 26)] := by decide

/-- Words of the immediate instructions, laid out from the tables of R41 to R55 and the worked encodings beside them. -/
theorem test_decode_immediate :
    [decodeWords [0x11098001],
     decodeWords [0x15098001],
     decodeWords [0x19098001],
     decodeWords [0x1D098001],
     decodeWords [0x21090021],
     decodeWords [0x21094021],
     decodeWords [0x21098021],
     decodeWords [0x2109C021],
     decodeWords [0x24A0FFFF],
     decodeWords [0x28A1FFC0]] =
    [some (.addi 8 9 0x8001),
     some (.andi 8 9 0x8001),
     some (.ori 8 9 0x8001),
     some (.xori 8 9 0x8001),
     some (.shli 8 9 33),
     some (.shri 8 9 33),
     some (.srai 8 9 33),
     some (.roli 8 9 33),
     some (.ldi 5 0xFFFF),
     some (.ldk 5 1 0xFFC0)] := by decide

/-- Words of the address instructions, laid out from the tables of R41 to R55 and the worked encodings beside them. -/
theorem test_decode_address :
    [decodeWords [0x30212800],
     decodeWords [0x30850001],
     decodeWords [0x30C70002],
     decodeWords [0x30200003],
     decodeWords [0x3462FFF0]] =
    [some (.aadd 1 1 5),
     some (.amov 4 5),
     some (.aget 6 7),
     some (.aseth 1 0),
     some (.aaddi 3 2 0xFFF0)] := by decide

/-- Words of the memory instructions, laid out from the tables of R41 to R55 and the worked encodings beside them. -/
theorem test_decode_memory :
    [decodeWords [0x40A6600B],
     decodeWords [0x44A61FFD],
     decodeWords [0x48C4200A],
     decodeWords [0x4C840008],
     decodeWords [0x50840008],
     decodeWords [0x54C64586],
     decodeWords [0x58C645C3]] =
    [some (.ld 5 3 3 2 3),
     some (.lds 5 3 0 0x7FF 1),
     some (.st 6 2 1 2 2),
     some (.lda 4 2 0 2),
     some (.sta 4 2 0 2),
     some (.ldx 6 3 2 5 2 true 2),
     some (.stx 6 3 2 5 3 3)] := by decide

/-- Words of the atomic instructions, laid out from the tables of R41 to R55 and the worked encodings beside them. -/
theorem test_decode_atomic :
    [decodeWords [0x60E409CA],
     decodeWords [0x60E4A900],
     decodeWords [0x60E4A949],
     decodeWords [0x60E4A992],
     decodeWords [0x60E4A9DB],
     decodeWords [0x60E4A924],
     decodeWords [0x60E4A96D],
     decodeWords [0x60E4A9B0],
     decodeWords [0x60E4A9F9],
     decodeWords [0x64E40941]] =
    [some (.amoAdd 7 2 0 9 .ar .die),
     some (.amoSwap 7 2 5 9 .rlx .core),
     some (.amoAdd 7 2 5 9 .acq .clu),
     some (.amoAnd 7 2 5 9 .rel .die),
     some (.amoOr 7 2 5 9 .ar .pkg),
     some (.amoXor 7 2 5 9 .rlx .fab),
     some (.amoMax 7 2 5 9 .acq .sys),
     some (.amoMin 7 2 5 9 .rel .core),
     some (.amoMaxu 7 2 5 9 .ar .clu),
     some (.cas 7 2 0 9 .acq .clu)] := by decide

/-- Words of the barrier instructions, laid out from the tables of R41 to R55 and the worked encodings beside them. -/
theorem test_decode_barrier :
    [decodeWords [0x68400009],
     decodeWords [0x68000006],
     decodeWords [0x6C820002],
     decodeWords [0x6C02000A],
     decodeWords [0x6CA26015],
     decodeWords [0x6C020022]] =
    [some (.fence .die 9),
     some (.fence .core 6),
     some (.barinit 4 1 0 .die),
     some (.barinitKill 1 0 .die),
     some (.bararr 5 1 3 .sys),
     some (.barwait 1 0 .die)] := by decide

/-- Words of the branch instructions, laid out from the tables of R41 to R55 and the worked encodings beside them. -/
theorem test_decode_branch :
    [decodeWords [0x803FFFFA],
     decodeWords [0x84645FFA],
     decodeWords [0x8860FFFE],
     decodeWords [0x88610005],
     decodeWords [0x8C400002],
     decodeWords [0x90A04000],
     decodeWords [0x94000064],
     decodeWords [0x98060000],
     decodeWords [0x98060001],
     decodeWords [0x98000002],
     decodeWords [0x9C040007],
     decodeWords [0xA0040004]] =
    [some (.b 0x3FFFFA),
     some (.bc 3 4 .lt 0x1FFA),
     some (.bz 3 0xFFFE),
     some (.bnz 3 5),
     some (.bq true 2),
     some (.bout 5 0 .lt),
     some (.call 100),
     some (.jmpi 6),
     some (.calli 6),
     some (.ret),
     some (.loop 4 7),
     some (.loopi 4 4)] := by decide

/-- Words of the rings instructions, laid out from the tables of R41 to R55 and the worked encodings beside them. -/
theorem test_decode_rings :
    [decodeWords [0xB0270000],
     decodeWords [0xB4000480],
     decodeWords [0xB40745C0],
     decodeWords [0xB460B000],
     decodeWords [0xB403C200],
     decodeWords [0xB8480004]] =
    [some (.enq .v 7),
     some (.semwait 4 .peek),
     some (.sempost 7 5 .cnt),
     some (.semget 3 48),
     some (.semset 3 2),
     some (.ringset .c0 8 4)] := by decide

/-- Words of the work instructions, laid out from the tables of R41 to R55 and the worked encodings beside them. -/
theorem test_decode_work :
    [decodeWords [0xC0640000],
     decodeWords [0xC0641102],
     decodeWords [0xC0642002],
     decodeWords [0xC0643002],
     decodeWords [0xC0054107],
     decodeWords [0xC0605307],
     decodeWords [0xC0056200],
     decodeWords [0xC0657000]] =
    [some (.launch 3 4),
     some (.wpop 3 4 true 2),
     some (.wpush 3 4 2),
     some (.wsteal 3 4 2),
     some (.ccwait 5 .graph 7),
     some (.ccget 3 .job 7),
     some (.cancel 5 .phase),
     some (.watch 3 5)] := by decide

/-- Words of the budget instructions, laid out from the tables of R41 to R55 and the worked encodings beside them. -/
theorem test_decode_budget :
    [decodeWords [0xD0000007],
     decodeWords [0xD4000000],
     decodeWords [0xD4051001],
     decodeWords [0xD4062000],
     decodeWords [0xD4003204],
     decodeWords [0xD4053600]] =
    [some (.cont 7),
     some (.yield),
     some (.topup 5 1),
     some (.phase 6),
     some (.setdiv .v 4),
     some (.setdivRegister 5 .v)] := by decide

/-- Words of the context instructions, laid out from the tables of R41 to R55 and the worked encodings beside them. -/
theorem test_decode_context :
    [decodeWords [0xE0640000],
     decodeWords [0xE0641000],
     decodeWords [0xE0642001],
     decodeWords [0xE0603000],
     decodeWords [0xE0604000],
     decodeWords [0xE0835002]] =
    [some (.ctxnew 3 4),
     some (.ctxgrant 3 4),
     some (.ctxrevoke 3 4 true),
     some (.ctxrun 3),
     some (.ctxstop 3 false),
     some (.ctxinfo 4 3 2)] := by decide

/-- Words of the system instructions, laid out from the tables of R41 to R55 and the worked encodings beside them. -/
theorem test_decode_system :
    [decodeWords [0xF1200010],
     decodeWords [0xF0091004],
     decodeWords [0xF000205A],
     decodeWords [0xF0003000],
     decodeWords [0xF0004000],
     decodeWords [0xF0005000],
     decodeWords [0xF1206000],
     decodeWords [0xF0097000]] =
    [some (.mfs 9 0x10),
     some (.mts 9 4),
     some (.trap 0x5A),
     some (.eret),
     some (.halt),
     some (.nop),
     some (.time 9),
     some (.waitt 9)] := by decide

/-- The inline form of ENQ takes two more words (R50; the example of spec/02_encoding.md). -/
theorem test_decode_enq_inline :
    decodeWords [0xB0200001, 0x80100180, 0x01050100] = some (.enqInline .v 0x0105010080100180) := by decide

/-- Command words of erg, laid out from the maps of R57 to R60 and the worked encodings of the engines' files. -/
theorem test_decode_erg :
    [readCmd .m 0x0000010000000077,
     readCmd .m 0x000002003C010000,
     readCmd .m 0x000003000C000080,
     readCmd .m 0x0000040000000300,
     readCmd .m 0x0000050000000000,
     readCmd .m 0x000006000001FC7C,
     readCmd .m 0x000007000002041F,
     readCmd .m 0x0000080002FBBC22,
     readCmd .m 0x0000090000000022,
     readCmd .m 0x00000A0000000422,
     readCmd .m 0x00000B0000000022,
     readCmd .m 0x090D0C00400007A0,
     readCmd .m 0x00000D002028C124,
     readCmd .m 0x1115000000000000,
     readCmd .m 0x0000000000000000] =
    [some (.mprec ⟨0, .none, 0, .none⟩ 7 7),
     some (.mlda ⟨0, .none, 0, .none⟩ 0x10000 0 15),
     some (.mstep ⟨0, .none, 0, .none⟩ 0x80 16 true),
     some (.mnest ⟨0, .none, 0, .none⟩ 0x300),
     some (.mgo ⟨0, .none, 0, .none⟩),
     some (.mclr ⟨0, .none, 0, .none⟩ 28 3 0x7F),
     some (.manch ⟨0, .none, 0, .none⟩ 31 0 0x81),
     some (.mpin ⟨0, .none, 0, .none⟩ 2 1 0xBEEF),
     some (.munpin ⟨0, .none, 0, .none⟩ 2 1),
     some (.mspill ⟨0, .none, 0, .none⟩ 2 1 true),
     some (.mfill ⟨0, .none, 0, .none⟩ 2 1),
     some (.mdelta ⟨2, .take, 3, .add⟩ 0 1 15 0x20000),
     some (.mquery ⟨0, .none, 0, .none⟩ 4 1 (.row 3 2) (.sof 5)),
     some (.engineNop .m ⟨4, .take, 5, .add⟩),
     some (.engineNop .m ⟨0, .none, 0, .none⟩)] := by decide

/-- Command words of serir1, laid out from the maps of R57 to R60 and the worked encodings of the engines' files. -/
theorem test_decode_serir1 :
    [readCmd .v 0x00000110801051FF,
     readCmd .v 0x00000210801051FF,
     readCmd .v 0x00000310801051FF,
     readCmd .v 0x00000420801051FF,
     readCmd .v 0x00004140801051FF,
     readCmd .v 0x00004240801051FF,
     readCmd .v 0x00004340801051FF,
     readCmd .v 0x00004440801051FF,
     readCmd .v 0x00008100801051FF,
     readCmd .v 0x00008200801051FF,
     readCmd .v 0x00008300801051FF,
     readCmd .v 0x0000840080100403,
     readCmd .v 0x00000560801051FF,
     readCmd .v 0x00000660801051FF,
     readCmd .v 0x0000078080105000,
     readCmd .v 0x0000088080105000,
     readCmd .v 0x0000090080105000,
     readCmd .v 0x00000A0080105000,
     readCmd .v 0x00000B0080105000,
     readCmd .v 0x00000C0080105000,
     readCmd .v 0x00000D0080105000,
     readCmd .v 0x00000EC0801051FF,
     readCmd .v 0x00000FA0801051FF,
     readCmd .v 0x000010A0801051FF,
     readCmd .v 0x000011A0801051FF,
     readCmd .v 0x000012A0801051FF,
     readCmd .v 0x000013A0801051FF,
     readCmd .v 0x000014A0801051FF,
     readCmd .v 0x000015A0801051FF,
     readCmd .v 0x000016A0801051FF,
     readCmd .v 0x000017A201280009,
     readCmd .v 0x0000187003105C01,
     readCmd .v 0x00001900071051FF,
     readCmd .v 0x00001A00071051FF,
     readCmd .v 0x00001B00071051FF] =
    [some (.vadd ⟨0, .none, 0, .none⟩ .fp32 true (.row 1 0) (.row 2 5) (.row 3 127)),
     some (.vsub ⟨0, .none, 0, .none⟩ .fp32 true (.row 1 0) (.row 2 5) (.row 3 127)),
     some (.vmul ⟨0, .none, 0, .none⟩ .fp32 true (.row 1 0) (.row 2 5) (.row 3 127)),
     some (.vfma ⟨0, .none, 0, .none⟩ .bf16 false (.row 1 0) (.row 2 5) (.row 3 127)),
     some (.vaddRz ⟨0, .none, 0, .none⟩ .fp16 false (.row 1 0) (.row 2 5) (.row 3 127)),
     some (.vsubRz ⟨0, .none, 0, .none⟩ .fp16 false (.row 1 0) (.row 2 5) (.row 3 127)),
     some (.vmulRz ⟨0, .none, 0, .none⟩ .fp16 false (.row 1 0) (.row 2 5) (.row 3 127)),
     some (.vfmaRz ⟨0, .none, 0, .none⟩ .fp16 false (.row 1 0) (.row 2 5) (.row 3 127)),
     some (.vaddSr ⟨0, .none, 0, .none⟩ .fp32 false (.row 1 0) (.row 2 5) (.row 3 127)),
     some (.vsubSr ⟨0, .none, 0, .none⟩ .fp32 false (.row 1 0) (.row 2 5) (.row 3 127)),
     some (.vmulSr ⟨0, .none, 0, .none⟩ .fp32 false (.row 1 0) (.row 2 5) (.row 3 127)),
     some (.vfmaSr ⟨0, .none, 0, .none⟩ .fp32 false (.row 1 0) (.row 2 0) (.sof 3)),
     some (.vmin ⟨0, .none, 0, .none⟩ .int32 false (.row 1 0) (.row 2 5) (.row 3 127)),
     some (.vmax ⟨0, .none, 0, .none⟩ .int32 false (.row 1 0) (.row 2 5) (.row 3 127)),
     some (.vabs ⟨0, .none, 0, .none⟩ .int16 false (.row 1 0) (.row 2 5)),
     some (.vneg ⟨0, .none, 0, .none⟩ .int16 false (.row 1 0) (.row 2 5)),
     some (.vexp2 ⟨0, .none, 0, .none⟩ false (.row 1 0) (.row 2 5)),
     some (.vlog2 ⟨0, .none, 0, .none⟩ false (.row 1 0) (.row 2 5)),
     some (.vrcp ⟨0, .none, 0, .none⟩ false (.row 1 0) (.row 2 5)),
     some (.vrsq ⟨0, .none, 0, .none⟩ false (.row 1 0) (.row 2 5)),
     some (.vsqrt ⟨0, .none, 0, .none⟩ false (.row 1 0) (.row 2 5)),
     some (.vmac8 ⟨0, .none, 0, .none⟩ .uint8 false (.row 1 0) (.row 2 5) (.row 3 127)),
     some (.vadds ⟨0, .none, 0, .none⟩ .int8 false (.row 1 0) (.row 2 5) (.row 3 127)),
     some (.vsubs ⟨0, .none, 0, .none⟩ .int8 false (.row 1 0) (.row 2 5) (.row 3 127)),
     some (.vand ⟨0, .none, 0, .none⟩ .int8 false (.row 1 0) (.row 2 5) (.row 3 127)),
     some (.vor ⟨0, .none, 0, .none⟩ .int8 false (.row 1 0) (.row 2 5) (.row 3 127)),
     some (.vxor ⟨0, .none, 0, .none⟩ .int8 false (.row 1 0) (.row 2 5) (.row 3 127)),
     some (.vshl ⟨0, .none, 0, .none⟩ .int8 false (.row 1 0) (.row 2 5) (.row 3 127)),
     some (.vshr ⟨0, .none, 0, .none⟩ .int8 false (.row 1 0) (.row 2 5) (.row 3 127)),
     some (.vsra ⟨0, .none, 0, .none⟩ .int8 false (.row 1 0) (.row 2 5) (.row 3 127)),
     some (.vrshr ⟨0, .none, 0, .none⟩ .int8 false (.row 4 1) (.row 5 0) 9),
     some (.vceq ⟨0, .none, 0, .none⟩ .int32 true 3 (.row 2 5) (.scalar 1)),
     some (.vcne ⟨0, .none, 0, .none⟩ .fp32 false 7 (.row 2 5) (.row 3 127)),
     some (.vclt ⟨0, .none, 0, .none⟩ .fp32 false 7 (.row 2 5) (.row 3 127)),
     some (.vcle ⟨0, .none, 0, .none⟩ .fp32 false 7 (.row 2 5) (.row 3 127))] := by decide

/-- Command words of serir2, laid out from the maps of R57 to R60 and the worked encodings of the engines' files. -/
theorem test_decode_serir2 :
    [readCmd .v 0x00001CC080800C0F,
     readCmd .v 0x00001D108040F000,
     readCmd .v 0x00001E80801051FF,
     readCmd .v 0x00001F6080105000,
     readCmd .v 0x0000200C03105002,
     readCmd .v 0x0000210006000000,
     readCmd .v 0x0000220001002003,
     readCmd .v 0x0000230001002003,
     readCmd .v 0x0000240001002003,
     readCmd .v 0x0000250001002000,
     readCmd .v 0x0000260C09002000,
     readCmd .v 0x0000280080105005,
     readCmd .v 0x0000682080105005,
     readCmd .v 0x0000A80080105001,
     readCmd .v 0x0000290180080100,
     readCmd .v 0x00002920801054BC,
     readCmd .v 0x00002A0080105003,
     readCmd .v 0x00002BE080105401,
     readCmd .v 0x00003000803FFFC0,
     readCmd .v 0x0000311C02000008,
     readCmd .v 0x0000320080105C04,
     readCmd .v 0x000033A080105C04,
     readCmd .v 0x000034208001F000,
     readCmd .v 0x000035001F105000,
     readCmd .v 0x000036A410030260,
     readCmd .v 0x000038000740C01B,
     readCmd .v 0x0000390100007125,
     readCmd .v 0x0105010080100180,
     readCmd .v 0x0000000000000000] =
    [some (.vsel ⟨0, .none, 0, .none⟩ .uint8 (.row 1 0) .latch (.scalar 15)),
     some (.vbcst ⟨0, .none, 0, .none⟩ .fp32 true (.row 1 0) (.sof 15)),
     some (.vperm ⟨0, .none, 0, .none⟩ .int16 false (.row 1 0) (.row 2 5) (.row 3 127)),
     some (.vtrn ⟨0, .none, 0, .none⟩ .int32 false (.row 1 0) (.row 2 5)),
     some (.vred ⟨0, .none, 0, .none⟩ .fp32 false (.scalar 3) (.row 2 5) .max),
     some (.vmsk ⟨0, .none, 0, .none⟩ 6),
     some (.vmand ⟨0, .none, 0, .none⟩ 1 2 3),
     some (.vmor ⟨0, .none, 0, .none⟩ 1 2 3),
     some (.vmxor ⟨0, .none, 0, .none⟩ 1 2 3),
     some (.vmnot ⟨0, .none, 0, .none⟩ 1 2),
     some (.vmpop ⟨0, .none, 0, .none⟩ 9 2),
     some (.vcvt ⟨0, .none, 0, .none⟩ .fp32 false (.row 1 0) (.row 2 5) .int8),
     some (.vcvtRz ⟨0, .none, 0, .none⟩ .bf16 false (.row 1 0) (.row 2 5) .int8),
     some (.vcvtSr ⟨0, .none, 0, .none⟩ .fp32 false (.row 1 0) (.row 2 5) .bf16),
     some (.vqnt ⟨0, .none, 0, .none⟩ .fp32 (.row 3 0) (.row 1 0) .e4m3 2),
     some (.vqntPb ⟨0, .none, 0, .none⟩ .bf16 (.row 1 0) (.row 2 5) 7 9),
     some (.vscl ⟨0, .none, 0, .none⟩ .fp32 (.row 1 0) (.row 2 5) .int8),
     some (.vdeq ⟨0, .none, 0, .none⟩ false (.row 1 0) (.row 2 5) (.sof 1)),
     some (.vld ⟨0, .none, 0, .none⟩ false (.row 1 0) 0x3FFFC0),
     some (.vst ⟨0, .none, 0, .none⟩ true (.scalar 2) 8),
     some (.vgath ⟨0, .none, 0, .none⟩ .fp32 false (.row 1 0) (.row 2 5) 4),
     some (.vscat ⟨0, .none, 0, .none⟩ .int8 false (.row 1 0) (.row 2 5) 4),
     some (.vacc ⟨0, .none, 0, .none⟩ .bf16 false (.row 1 0) 31),
     some (.vacw ⟨0, .none, 0, .none⟩ false 31 (.row 2 5)),
     some (.vview ⟨0, .none, 0, .none⟩ .int8 2 64 3 19 .e4m3),
     some (.vdefer ⟨0, .none, 0, .none⟩ .fp32 false 7 (.sof 12) 3 6),
     some (.vdrain ⟨0, .none, 0, .none⟩ .fp32 (.row 2 0) 7 1 1 true 4),
     some (.vadd ⟨0, .take, 1, .add⟩ .fp32 false (.row 1 0) (.row 2 0) (.row 3 0)),
     some (.engineNop .v ⟨0, .none, 0, .none⟩)] := by decide

/-- Command words of wadi, laid out from the maps of R57 to R60 and the worked encodings of the engines' files. -/
theorem test_decode_wadi :
    [readCmd .c1 0xC209010000003040,
     readCmd .c1 0x0000020000000300,
     readCmd .c1 0x1115030000001000,
     readCmd .c1 0x0000040001C01080,
     readCmd .c1 0x0000050003C00040,
     readCmd .c1 0x0000060001801040,
     readCmd .c1 0x0000070000000040,
     readCmd .c1 0x0000080000000040,
     readCmd .c1 0x0000090000000040,
     readCmd .c1 0x00000A0000000F00,
     readCmd .c1 0xFFFB000000000000,
     readCmd .c1 0x1D00010000000180] =
    [some (.ccopy ⟨48, .peek, 2, .add⟩ 0x3040),
     some (.cnest ⟨0, .none, 0, .none⟩ 0x300),
     some (.cgo ⟨4, .take, 5, .add⟩ 0x1000),
     some (.cpack ⟨0, .none, 0, .none⟩ 0x1080 7),
     some (.cunpack ⟨0, .none, 0, .none⟩ 0x40 15),
     some (.cred ⟨0, .none, 0, .none⟩ 0x1040 .max .bf16),
     some (.cfill ⟨0, .none, 0, .none⟩ 0x40),
     some (.cpref ⟨0, .none, 0, .none⟩ 0x40),
     some (.cflush ⟨0, .none, 0, .none⟩ 0x40),
     some (.cjump ⟨0, .none, 0, .none⟩ 0xF00),
     some (.engineNop .c1 ⟨63, .zero, 62, .cnt⟩),
     some (.ccopy ⟨7, .take, 0, .none⟩ 0x180)] := by decide

/-! ## States that meet the hypotheses of the statements: sequencers -/

theorem test_hyp_DecodeEncodeSeq : Instr.isSeq (.lds 31 15 15 0x400 2) = true ∧ Instr.wf (.lds 31 15 15 0x400 2) = true := by decide

theorem test_hyp_DecodeEncodeCmd :
    Instr.cmd (.vdrain ⟨63, .zero, 63, .cnt⟩ .fp32 (.sof 12) 7 3 7 true 7) = some (Eng.v.kind, ⟨63, .zero, 63, .cnt⟩) ∧
    (∀ d z, Instr.vdrain ⟨63, .zero, 63, .cnt⟩ .fp32 (.sof 12) 7 3 7 true 7 = .engineNop d z → d = .v) ∧
    Instr.wf (.vdrain ⟨63, .zero, 63, .cnt⟩ .fp32 (.sof 12) 7 3 7 true 7) = true := by
  refine ⟨by decide, ?_, by decide⟩
  intro d z h
  cases h

/-- A running sequencer before a NOP; an engine stream with a started entry; an agenda with an event, with a turn. -/
theorem test_hyp_StepRunsDecoded :
    (let s := t2.withFetchWord 32 0xF0005000
     s.agenda = [] ∧ s.stream = .seq .x ∧ s.cur.seqRuns .x = true ∧ s.cur.badWord (s.cur.seq .x).pc = false ∧
      decodeWords [s.cur.wordAt (s.cur.seq .x).pc, s.cur.wordAt ((s.cur.seq .x).pc + 4), s.cur.wordAt ((s.cur.seq .x).pc + 8)] = some .nop ∧
      ({ s with agenda := [] }.turn 0 (.seq .x)).nextInstr = some .nop) ∧
    (let s := { t2.modCur (fun k => k.modEng .m fun x => { x with phase := .running .fresh, head := some ⟨0, none⟩ }) with stream := .eng .m }
     s.agenda = [] ∧ s.cur.unit.isSome = true ∧ s.cur.handled = none ∧ (s.cur.eng .m).chunks = [] ∧
      (s.cur.eng .m).phase = .running .fresh ∧ (s.cur.eng .m).head = some ⟨0, none⟩ ∧
      readCmd .m 0 = some (.engineNop .m ⟨0, .none, 0, .none⟩)) ∧
    ({ t2 with agenda := [.event .heartbeat] } : State).agenda = .event .heartbeat :: [] := by decide +kernel

theorem test_hyp_RegisterReadsAndWrites :
    (t2.modCur (fun k => { k with ax1 := [.ready 7 none] })).cur.inbound .x true = .ready 7 none :: [] ∧
    t2.cur.inbound .x false = [] ∧ t2.cur.producerDone .x = false ∧
    (t2.modCur (fun k => k.modSeq .a fun q => { q with halted := true })).cur.producerDone .x = true ∧
    (t2.cur.outbound .x true).length < 16 ∧
    16 ≤ ((t2.modCur (fun k => { k with xa1 := List.replicate 16 (.ready 0 none) })).cur.outbound .x true).length ∧
    (t2.cur.seq .x).awaits 1 = false ∧ (t2.cur.seq .x).awaits 27 = false ∧ (t2.cur.seq .x).gMark[(27 : Fin 32)] = none := by
  decide +kernel

theorem test_hyp_CompletionFrame : (t2.cur.seq .x).loops = [] := by decide +kernel

theorem test_hyp_ThreeRegisterResults :
    t2.cur.readG t2.seqId 1 = .ok (5, t2.cur) ∧ t2.cur.readG t2.seqId 2 = .ok (2 ^ 63, t2.cur) ∧
    t2.cur.writeG t2.seqId 0 0 = .ok t2.cur ∧ isOk (t2.cur.writeG t2.seqId 27 (2 ^ 63 + 5)) = true ∧
    t2.curSeq.awaits 1 = false ∧ t2.curSeq.gMark[(1 : Fin 32)] = none ∧ t2.curSeq.awaits 27 = false := by decide +kernel

theorem test_hyp_OneSourceResults :
    t2.cur.readG t2.seqId 2 = .ok (2 ^ 63, t2.cur) ∧ isOk (t2.cur.writeG t2.seqId 1 63) = true ∧
    runOfZeros (fun j => 63 - j) (2 ^ 63) 0 ∧ runOfZeros (fun j => j) (2 ^ 63) 63 ∧ runOfZeros (fun j => j) 0 64 := by
  unfold runOfZeros; decide +kernel

theorem test_hyp_AddressRegisterResults :
    t2.cur.readA t2.seqId 1 = .ok 0x70000 ∧ t2.cur.readG t2.seqId 1 = .ok (5, t2.cur) ∧
    isOk (t2.cur.writeA t2.seqId 15 0x70005) = true := by decide +kernel

/-- Offsets at both ends of the sequence store; both outcomes of a condition; an outcome to pop. -/
theorem test_hyp_BranchesGoOrFallThrough :
    (0 : Int) ≤ t2.curSeq.pc.toNat + 4 * 0 ∧ (t2.curSeq.pc.toNat : Int) + 4 * (32767 : BitVec 22).toInt ≤ 0x1FFFC ∧
    condTrue .ltu 5 (2 ^ 63) = true ∧ condTrue .lt 5 (2 ^ 63) = false ∧ (0 : W64) = 0 ∧ (5 : W64) ≠ 0 ∧
    t2.cur.readG t2.seqId 3 = .ok (0, t2.cur) ∧
    (t2.modCur (fun k => { k with axOut := [true] })).cur.outcomesIn .x = true :: [] ∧
    (t2.cur.outcomesIn (otherSeq t2.seqId)).length < 32 := by decide +kernel

theorem test_hyp_CallsLinkAndJump :
    isOk (t2.cur.writeG t2.seqId 27 (BitVec.ofNat 64 (t2.curSeq.pc + 4).toNat)) = true ∧
    t2.cur.readG t2.seqId 4 = .ok (16, t2.cur) ∧ (16 : W64).toNat < 2 ^ 17 ∧ (16 : W64).toNat % 4 = 0 ∧
    (t2.modCur (fun k => k.modSeq .x fun q => { q with g := q.g.set 27 0x1FFFC })).cur.readG .x 27 =
      .ok (0x1FFFC, (t2.modCur (fun k => k.modSeq .x fun q => { q with g := q.g.set 27 0x1FFFC })).cur) ∧
    (0x1FFFC : W64).toNat < 2 ^ 17 ∧
    (let l : LoopLevel := { start := 0, last := 8, count := 2 }; inBody l 4 = true ∧ inBody l 8 = true ∧ inBody l 12 = false ∧ l.last ≠ 4) := by
  decide +kernel

/-- With open loop levels. -/
def tLoops (ls : List LoopLevel) : State := t2.modCur fun k => k.modSeq .x fun q => { q with loops := ls }

/-- No level, one that ends at the loop instruction, one that ends behind it, one that a body would leave, and four; an inline ENQ over the
last word of a level. -/
theorem test_hyp_LoopsOpenAndClose :
    t2.cur.readG t2.seqId 1 = .ok (5, t2.cur) ∧ t2.cur.readG t2.seqId 3 = .ok (0, t2.cur) ∧ t2.curSeq.loops = [] ∧ t2.curSeq.pc = 0 ∧
    (1023 : W64) = (1023 : BitVec 10).zeroExtend 64 ∧ 1 < (2 : W64).toNat ∧
    ([[⟨0, 0, 2⟩], [⟨0, 0x1FFFC, 1⟩], List.replicate 3 ⟨0, 8, 2⟩, List.replicate 4 ⟨0, 8, 2⟩] : List (List LoopLevel)).all (fun ls =>
      let s := tLoops ls
      decide (s.curSeq.loops = ls ∧ s.cur.readG s.seqId 1 = .ok (5, s.cur) ∧ s.cur.readG s.seqId 3 = .ok (0, s.cur))) = true ∧
    0 + 4 * (2 : BitVec 16).toNat ≤ (8 : BitVec 19).toNat ∧ (8 : BitVec 19).toNat < 0 + 4 * (3 : BitVec 16).toNat ∧
    (∃ j, j < 3 ∧ (8 : BitVec 19) = ((0 : BitVec 17) + BitVec.ofNat 17 (4 * j)).zeroExtend 19) := by decide +kernel

/-- A state in which a1 is a memory address and a2 the local window: loads and stores of every size may issue at both. -/
theorem test_hyp_AccessesIssue :
    t2.cur.readA t2.seqId 1 = .ok 0x70000 ∧ t2.curSeq.loadsOut < 32 ∧
    gives (t2.checkAccess 0x70000 8 1) = some [⟨0x70000, .phys, 0x70000, 8⟩] ∧
    gives (t2.checkAccess (BitVec.ofNat 80 (2 ^ 80 - 8)) 8 1) = some [⟨BitVec.ofNat 80 (2 ^ 80 - 8), .spad, 2 ^ 22 - 8, 8⟩] ∧
    t2.cur.linesFree [⟨0x70000, .phys, 0x70000, 16⟩, ⟨BitVec.ofNat 80 (2 ^ 80 - 8), .spad, 2 ^ 22 - 8, 8⟩] = true ∧
    (gives (t2.checkAccess 0x7FFFC 8 1)).isSome = true ∧ isOk (t2.cur.loadDest t2.seqId 27) = true ∧ isOk (t2.cur.loadDest t2.seqId 30) = true ∧
    t2.curSeq.awaitsA 15 = false ∧ (gives (t2.checkAccess 0x70000 16 1)).isSome = true ∧ (gives (t2.checkStore 0x70000 16)).isSome = true ∧
    (gives (t2.checkStore 0x70007 1)).isSome = true ∧ t2.cur.readA t2.seqId 2 = .ok (BitVec.ofNat 80 (2 ^ 80 - 2 ^ 22)) := by decide +kernel

/-- A state with one outstanding load or store at a place. -/
def tOut (op : AccessOp) (d : Dest) (sp : Space) (n : Nat) : State :=
  t2.modCur fun k => k.modSeq .x fun q =>
    { q with out := [{ id := 3, cls := 0, op := op, dest := d, pieces := [⟨0x70000, sp, 0x70000, n⟩], acq := false, rel := false, wide := false, since := 0,
                       answers := [], sent := false }] }

/-- No copy is under way there. -/
theorem tOut_octets (op : AccessOp) (d : Dest) (sp : Space) (n : Nat) : noOctets (tOut op d sp n) := by
  intro c e
  unfold tOut
  exact modCur_all (fun k => (k.eng e).todo = []) (fun c => t2_none.2 c e) rfl _ (fun y => by simpa only [Core.eng_modSeq] using y) c

theorem test_hyp_AccessesPerform :
    [Space.phys, .spad].all (fun sp =>
      let s := tOut (.load 8 true) (.g 27) sp 8
      decide ((s.access 0 .x 3).map (fun y => (y.op, y.dest, y.answers)) = some (.load 8 true, .g 27, []) ∧
      earlierThan ((s.coreAt 0).seq .x).out 3 = [] ∧ mayPerform ((s.coreAt 0).seq .x).out 3 = true ∧ (s.coreAt 0).stop = none ∧
      Memory.wf s.mem = true ∧ Memory.wf (s.coreAt 0).spad = true ∧ s.firstUnc 0x70000 8 = none ∧
      s.twoSets (s.tenOf 10 (s.ctxOf 0) 0x70000) 0x70000 8 = false ∧ firstBad (s.coreAt 0).spadBad 0x70000 8 = none)) = true ∧
    (let s := { tOut (.store [1, 2]) .discard .phys 2 with agenda := [.drain 0 .x 3] }
     s.agenda = .drain 0 .x 3 :: [] ∧ (s.access 0 .x 3).map (·.op) = some (.store [1, 2]) ∧ s.anyLive 0x70000 2 = false ∧
      mayPerform ((s.coreAt 0).seq .x).out 3 = true) ∧ Memory.wf t2.mem = true ∧
    (tOut (.load 8 true) (.g 27) .phys 8).far = [] := by decide +kernel

/-- Nothing was translated through an entry at the bytes of that store, and a load there has one value. -/
theorem test_hyp_AccessesPerform_none :
    untouched { tOut (.store [1, 2]) .discard .phys 2 with agenda := [.drain 0 .x 3] } [(0x70000, 2)] ∧
    oneValue (tOut (.load 8 true) (.g 27) .phys 8) (some (0, .x, 0)) ((tOut (.load 8 true) (.g 27) .phys 8).tenOf 10 1 0x70000) 0x70000 8 := by
  refine ⟨⟨inFlight_nil (by decide +kernel) fun c h q => ?_, fun c e => ?_⟩, by decide +kernel, fun i _ => rfl⟩
  · show (((tOut (.store [1, 2]) .discard .phys 2).coreAt c).seq q).out = []
    rw [tOut, modCur_others t2_others rfl _ c h]
    cases q <;> rfl
  · exact tOut_octets _ _ _ _ c e

theorem test_hyp_AtomicsIssue :
    t2.cur.readA t2.seqId 1 = .ok 0x70000 ∧ t2.cur.readG t2.seqId 4 = .ok (16, t2.cur) ∧ scopeRemote .die = false ∧
    t2.fabricWindow (t2.ctxOf t2.core) 0x70000 = none ∧ t2.cur.linesFree [⟨0x70000, .phys, 0x70000, 8⟩] = true ∧
    scopeRemote .sys = true ∧ t2.curSeq.out = [] ∧ t2.curSeq.deferred = [] ∧ t2.curSeq.loadsOut < 32 ∧
    gives (t2.checkWord 0x70000 7) = some ⟨0x70000, .phys, 0x70000, 8⟩ ∧ t2.isLive 0x70000 = false ∧ isOk (t2.cur.loadDest t2.seqId 1) = true := by
  decide +kernel

theorem test_hyp_AtomicsPerform :
    Memory.wf t2.mem = true ∧ t2.firstUnc 0x70000 8 = none ∧ atomicWrite (.cas 0 9) 0 = some 9 ∧ atomicWrite (.cas 1 9) 0 = none ∧
    atomicWrite (.amo 1 9) 1 = some 10 ∧ untouched t2 [(0x70000, 8)] :=
  ⟨by decide +kernel, rfl, rfl, rfl, rfl, untouched_none t2_none _⟩

/-- A state with a live barrier word at 0x70000: generation 2^32 - 1, two participants, i arrivals. -/
def tBar (i : Nat) (r : Option Arrival) : State :=
  { t2.modCur (fun k => k.modSeq .x fun q => { q with arrival := r }) with
    live := [0x70000], mem := putBytes t2.mem 0x70000 (leBytes 8 ((2 ^ 32 - 1) * 2 ^ 32 + 2 * 2 ^ 16 + i)) }

theorem test_hyp_FencesAndBarrierWords :
    ((tOut (.store [1]) .discard .phys 1).curSeq.out.any fun x => (1 : BitVec 16).getLsbD x.cls.val) = true ∧
    ((tOut (.store [1]) .discard .phys 1).curSeq.out.all fun x => !(2 : BitVec 16).getLsbD x.cls.val) = true ∧
    scopeRemote .sys = true ∧ scopeRemote .die = false ∧
    (t2.modCur (fun k => k.modSeq .x fun q => { q with deferred := [⟨2, 5, 0, 0⟩] })).curSeq.deferred = [⟨2, 5, 0, 0⟩] ∧
    t2.cur.readA t2.seqId 1 = .ok 0x70000 ∧ gives (t2.checkWord 0x70000 7) = some ⟨0x70000, .phys, 0x70000, 8⟩ ∧
    gives (t2.checkWord 0x70000 5) = some ⟨0x70000, .phys, 0x70000, 8⟩ ∧ t2.isRetired 0x70000 = false ∧ t2.isLive 0x70000 = false ∧
    t2.curSeq.out = [] ∧
    regionOf 0x70000 ≠ .host ∧ t2.cur.readG t2.seqId 1 = .ok (5, t2.cur) ∧
    [0, 1].all (fun i =>
      let s := tBar i none
      decide (s.isLive 0x70000 = true ∧ s.firstUnc 0x70000 8 = none ∧ s.curSeq.out = [] ∧
      leNat (s.physRead 0x70000 8) = (2 ^ 32 - 1) * 2 ^ 32 + 2 * 2 ^ 16 + i ∧ isOk (s.cur.writeG s.seqId 1 0) = true)) = true ∧
    (tBar 1 (some ⟨0x70000, 0⟩)).curSeq.arrival = some { addr := 0x70000, gen := 0 } ∧
    BitVec.ofNat 32 (leNat ((tBar 1 none).physRead 0x70000 8) / 2 ^ 32) = BitVec.ofNat 32 (2 ^ 32 - 1) := by decide +kernel

/-- And no access is in flight there. -/
theorem test_hyp_FencesAndBarrierWords_none (i : Nat) (r : Option Arrival) :
    (t2.onWord 0x70000 = [] ∧ untouched t2 [(0x70000, 8)]) ∧ (tBar i r).onWord 0x70000 = [] ∧ untouched (tBar i r) [(0x70000, 8)] := by
  have m := modCur_none t2_none rfl (fun k => k.modSeq .x fun q => { q with arrival := r }) (fun _ q => by cases q <;> rfl)
    (fun _ d => by cases d <;> rfl)
  have h : noneInFlight (tBar i r) := ⟨m.1, m.2⟩
  exact ⟨⟨inFlight_none t2_none _, untouched_none t2_none _⟩, inFlight_none h _, untouched_none h _⟩

/-- A unit of the root whose pages lie in host memory. -/
def tHost : State :=
  { t2.modCur (fun k => { k with unit := some { tUnit with ctx := 0 } }) with
    ctxs := [{ tCtx 0 none 0 with part := some tPart, ranges := [⟨2 ^ 51, 2 ^ 42, 7, false⟩] }], mem := putBytes tTable 0x60004 [8] }

/-- A word of host memory, for BARINIT and for its kill. -/
theorem test_hyp_FencesAndBarrierWords_host :
    tHost.cur.readA tHost.seqId 1 = .ok 0x70000 ∧ tHost.curSeq.out = [] ∧
    ([7, 5].all fun r => gives (tHost.checkWord 0x70000 r) == some ⟨0x70000, .phys, 2 ^ 51 + 0x70000, 8⟩) = true ∧
    regionOf (2 ^ 51 + 0x70000) = .host ∧ tHost.isRetired (2 ^ 51 + 0x70000) = false ∧ tHost.isLive (2 ^ 51 + 0x70000) = false ∧
    tHost.cur.readG tHost.seqId 1 = .ok (5, tHost.cur) ∧ tHost.onWord (2 ^ 51 + 0x70000) = [] ∧ untouched tHost [(2 ^ 51 + 0x70000, 8)] := by
  have m := modCur_none t2_none rfl (fun k => { k with unit := some { tUnit with ctx := 0 } }) (fun _ _ => rfl) (fun _ _ => rfl)
  have h : noneInFlight tHost := ⟨m.1, m.2⟩
  exact ⟨rfl, rfl, by decide +kernel, by decide +kernel, rfl, rfl, by decide +kernel, inFlight_none h _, untouched_none h _⟩

/-- A ring of 32 slots at 0x1000 on a busy M stream, used slots full. -/
def tRing (used : Nat) : State :=
  t2.modCur fun k => k.modEng .m fun e =>
    { e with ring := some { base := 0x1000, log := 0, wslot := 31, rslot := 0, used := used }, phase := .waiting }

/-- An idle M stream with an empty ring of 32 slots at 0x1000, and a command word that waits as asked. -/
def tIdle : State :=
  t2.modCur fun k => k.modEng .m fun e => { e with ring := some { base := 0x1000, log := 0, wslot := 5, rslot := 5, used := 0 } }

/-- The command word of an M NOP with a wait. -/
def tWord (w : WMode) (n : Fin 64) : W64 := encodeCmd (.engineNop .m ⟨n, w, 0, .none⟩)

theorem test_hyp_RingsAndSemaphores :
    t2.seqId = .x ∧
    (let r : Ring := { base := 0x1000, log := 0, wslot := 31, rslot := 0, used := 31 }
     ((tRing 31).cur.eng .m).ring = some r ∧ r.used < r.slots ∧ ((tRing 31).cur.eng .m).phase ≠ .idle) ∧
    (let r : Ring := { base := 0x1000, log := 0, wslot := 31, rslot := 0, used := 32 }
     ((tRing 32).cur.eng .m).ring = some r ∧ r.used = r.slots) ∧
    (tRing 31).cur.readG .x 1 = .ok (5, (tRing 31).cur) ∧
    (let s := t1 0x3F0000 0 0 0 0 0
     s.cur.readG .x 1 = .ok (0x3F0000, s.cur) ∧ (0x3F0000 : W64).toNat % 2 ^ 16 = 0 ∧ (0x3F0000 : W64).toNat + 2 ^ 16 ≤ 2 ^ 22 ∧
      s.cur.ringIdle .c1 = true) ∧ isOk (t2.cur.writeG t2.seqId 1 0) = true := by decide +kernel

theorem test_hyp_RingsAndSemaphores_idle :
    (tIdle.cur.eng .m).ring = some { base := 0x1000, log := 0, wslot := 5, rslot := 5, used := 0 } ∧ (tIdle.cur.eng .m).phase = .idle ∧
    (tIdle.cur.eng .m).head = none ∧ (tIdle.cur.eng .m).chainPc = none ∧ tIdle.cur.stop = none ∧ tIdle.cur.handled = none ∧
    tIdle.cur.refetching .m = false ∧ Memory.wf tIdle.cur.spad = true ∧ tIdle.cur.unit = some tUnit ∧
    tIdle.cur.readG .x 1 = .ok (5, tIdle.cur) ∧
    ([WMode.none, .take].all fun m =>
      let w := tWord m 63
      (decodeCmd .m w.toNat).toOption.isSome && (syncOf w.toNat).sop == .none && (syncOf w.toNat).wmode == m && (syncOf w.toNat).wsem == 63) = true ∧
    declares tUnit.wmask (streamIndex (.eng .m)) 63 = true ∧ tIdle.semCount tIdle.core 63 = 0 := by decide +kernel

/-- A semaphore of the core and the last of the cluster, at 0 and near their greatest count. -/
theorem test_hyp_Semaphores :
    ([47, 48, 63].all fun n =>
      let s := t2.setSem 0 n 65534
      t2.mayWait n && t2.mayPost n && decide (t2.semCount t2.core n = 0) && decide (s.semCount s.core n ≠ 0) &&
        decide ((s.semCount s.core n).toNat + 1 ≤ 65535) && s.mayWait n && s.mayPost n && decide ((s.semCount s.core n).toNat + 5 > 65535) &&
        decide (s.cur.readG s.seqId 1 = .ok (5, s.cur)) && decide (t2.cur.readG t2.seqId 1 = .ok (5, t2.cur))) = true ∧
    t2.curSeq.out = [] ∧ islandOf 1 = islandOf t2.core ∧ isOk (t2.cur.writeG t2.seqId 1 0) = true := by decide +kernel

/-- And nothing waits on a semaphore of the cluster. -/
theorem test_hyp_Semaphores_none : t2.waitsOf t2.core 47 = [] ∧ t2.waitsOf t2.core 63 = [] := by decide +kernel

/-! ## States that meet the hypotheses of the statements: work, contexts, units -/

/-- The bytes of tTask as a task record (R245): image 0xA0000, four units, cluster 0, table 0xB0000, budgets of 1. -/
def tRecord : List Byte :=
  leBytes 10 0xA0000 ++ [0, 0] ++ leBytes 4 4 ++ leBytes 8 1 ++ List.replicate 48 0 ++ leBytes 10 0xB0000 ++ [0, 0] ++ leBytes 6 1
    ++ leBytes 6 1 ++ List.replicate 8 0 ++ leBytes 10 0xC0000 ++ leBytes 10 0x1000000 ++ List.replicate 4 0

/-- A kernel image (R246) of one NOP at 0x100, continuation 0 and no load list. -/
def tImage : Cells :=
  putBytes (putBytes (putBytes [] 0xA0000 (leBytes 4 0x4E374B49 ++ [1, 0, 0, 1])) 0xA00D4
    (leBytes 4 0x100 ++ leBytes 4 4 ++ leBytes 4 0x104 ++ leBytes 4 1 ++ leBytes 4 0 ++ leBytes 4 0x124)) 0xA0100 (leBytes 4 0xF0005000)

/-- An operating-point table (R257) of eight equal entries: level 7, divisors 1, full precision, one core. -/
def tOps : List Byte := (List.replicate 8 ([0, 7, 1, 1, 1, 1, 0xFF, 0, 1, 0] ++ List.replicate 6 0)).flatten

/-- t2 with memory that holds a record at 0x71000, the image and the table, and another launch that waits to be placed. -/
def t3 : State :=
  { t2 with mem := tTable ++ putBytes [] 0x71000 tRecord ++ tImage ++ putBytes [] 0xB0000 tOps,
            launches := [tLaunch, { freshLaunch 2 1 tTask with shares := [(0, .ready)] }], nextLaunch := 3,
            dies := t2.dies.set 0 { Die.reset with queues := [⟨1, 0, 0⟩] }, service := .full }

/-- The other cores of t3 are as after reset. -/
theorem t3_others (c : CoreId) (h : c ≠ 0) : t3.coreAt c = Core.reset := t2_others c h

/-- Nor is an access in flight in t3. -/
theorem t3_none : noneInFlight t3 := t2_none

/-- t3 with an address in a1. -/
def t3a (va : A80) : State := t3.modCur fun k => k.modSeq .x fun q => { q with a := q.a.set 1 va }

theorem test_hyp_LaunchAcceptsOrRefuses :
    (let s := t3a 0x71000
     plain s 27 ∧ plain s 1 ∧ isOk (s.cur.writeG s.seqId 27 0) = true ∧ isOk (s.cur.writeG s.seqId 0 0) = true ∧
      s.cur.readA s.seqId 1 = .ok 0x71000 ∧ s.curSeq.out = [] ∧ (0x71000 : A80).toNat % 128 = 0 ∧
      gives (s.readAt s.core s.myCtx 0x71000 128) = some tRecord ∧ (s.ctx s.myCtx).isSome = true ∧
      parseTask tRecord = some tTask ∧ (s.ctx s.myCtx).map (fun c => s.refusal c (some tTask)) = some 0) ∧
    (let s := t3a 0x74000
     s.cur.readA s.seqId 1 = .ok 0x74000 ∧ s.curSeq.out = [] ∧ (0x74000 : A80).toNat % 128 = 0 ∧
      gives (s.readAt s.core s.myCtx 0x74000 128) = some (List.replicate 128 0) ∧
      (s.ctx s.myCtx).map (fun c => s.refusal c (parseTask (List.replicate 128 0))) = some 1) ∧
    ((t3a 0x7107F).cur.readA t3.seqId 1 = .ok 0x7107F ∧ (0x7107F : A80).toNat % 128 ≠ 0) ∧
    placeOutside 1 (BitVec.ofNat 512 0xFF00) = true ∧ placeOutside 1 (BitVec.ofNat 512 0x80) = false ∧
    ({ tCtx 1 (some 0) 1 with qcap := 2 } : Ctx).qcap ≤ (t3.queuedBy 1).length ∧
    (let c := { tCtx 1 (some 0) 1 with qcap := 4096, floor := 65535 }
     (t3.queuedBy c.num).length < c.qcap ∧ t3.floorFits c = false) := by unfold plain; decide +kernel

/-- Launch 1 with items in the deques of units 0 and 2 on queue 5, and queue 6 closed. -/
def tQueues (a b : List W64) : State :=
  { t2 with launches := [{ tLaunch with deques := [(5, 0, a), (5, 2, b)], closed := [6] }] }

theorem test_hyp_WorkQueuesPushAndPop :
    plain t2 1 ∧ plain t2 27 ∧ t2.cur.readG t2.seqId 1 = .ok (5, t2.cur) ∧ t2.curSeq.out = [] ∧
    ([[], [(7 : W64)]].all fun a => [[], [8, (9 : W64)]].all fun b =>
      let s := tQueues a b
      s.myLaunch.map (fun l => (l.closed.contains 5, l.closed.contains 6, l.deque 5 0, l.deque 5 2)) == some (false, true, a, b)) = true ∧
    (tQueues [] [8, 9]).myLaunch.map (fun l => l.firstHolder 5) = some (some 2) ∧
    (tQueues [] []).myLaunch.map (fun l => l.firstHolder 5) = some none ∧
    (tQueues (List.replicate 4096 1) []).myLaunch.map (fun l => decide (4096 ≤ (l.deque 5 0).length)) = some true ∧
    (t2.cur.unit.map (·.unit)) = some 0 ∧ 2 < tTask.units ∧ isOk (t2.cur.writeG t2.seqId 27 0) = true ∧
    isOk ((t2.cur.writeG t2.seqId 1 0).bind fun k => k.writeG t2.seqId 27 0) = true ∧ tTask.persist = false ∧ tTask.units ≤ (5 : W64).toNat ∧
    (t2.modCur (fun k => k.modSeq .x fun q => { q with g := q.g.set 1 2 })).curSeq.g[(1 : Fin 32)] = BitVec.ofNat 64 2 := by
  unfold plain; decide +kernel

/-- No sequencer of t2 waits. -/
theorem test_hyp_WorkQueuesPushAndPop_stalls : ∀ (c : CoreId) (y : SeqId), ((t2.coreAt c).seq y).stall = .none :=
  t2_cores (fun k => ∀ y, (k.seq y).stall = .none) (fun y => by cases y <;> rfl) (fun y => by cases y <;> rfl)

/-- A PERSIST launch of four units, one of which runs: its blocking pop waits. -/
def tPersist : State := { t2 with launches := [{ tLaunch with task := { tTask with persist := true } }] }

/-- The X-sequencer of core 1 runs unit 2 of launch 1 and stands at a pop of queue 5. -/
def tOwner : State :=
  (tQueues [] [8]).modCore 1 fun k =>
    { k with unit := some { tUnit with unit := 2 }, x := { k.x with halted := false },
             code := putBytes [] 0 (leBytes 4 ((encodeSeq (.wpop 3 4 true 5)).headD 0)) }

/-- The waits of a pop, and the last item for which its owner stands ready or does not. -/
theorem test_hyp_WorkQueuesPushAndPop_waits :
    (tPersist.myLaunch.map fun l => ((tPersist.stallSeq (.workQueue 5)).closes l 5, l.task.persist, l.closed.contains 5, l.deque 5 0, l.firstHolder 5)) =
      some (false, true, false, [], none) ∧
    (tOwner.myLaunch.map fun l => l.deque 5 2) = some [8] ∧ tOwner.myLaunch.map (fun l => tOwner.ownerPops l 2 5) = some true ∧
    (tQueues [] [8]).myLaunch.map (fun l => (tQueues [] [8]).ownerPops l 2 5) = some false := by
  refine ⟨by decide +kernel, by decide +kernel, ?_, ?_⟩
  · rw [show tOwner.myLaunch = some { tLaunch with deques := [(5, 0, []), (5, 2, [8])], closed := [6] } by decide +kernel]
    refine congrArg some (List.any_eq_true.mpr ⟨1, List.mem_filter.mpr ⟨List.mem_finRange _, by decide +kernel⟩, by decide +kernel⟩)
  · rw [show (tQueues [] [8]).myLaunch = some { tLaunch with deques := [(5, 0, []), (5, 2, [8])], closed := [6] } by decide +kernel]
    have n : (tQueues [] [8]).holding (fun v => v.launch == 1 && v.unit == 2) = [] :=
      holding_nil (t2_cores (fun k => ∀ u, k.unit = some u → (u.launch == 1 && u.unit == 2) = false) (fun u h => by cases h; decide)
        (fun u h => by cases h))
    refine congrArg some (show List.any ((tQueues [] [8]).holding fun v => v.launch == 1 && v.unit == 2) _ = false from ?_)
    rw [n]
    rfl

/-- Launch 2 of context 1, not started, with counters of its own. -/
def tTwo : State :=
  { t3 with launches := [tLaunch, { freshLaunch 2 1 { tTask with ccg := 5, ccp := 6, ccj := 7 } with shares := [(0, .ready)] }] }

/-- With g1 that names it, its graph, its phase or its job. -/
def tCancel (v : W64) : State := tTwo.modCur fun k => k.modSeq .x fun q => { q with g := q.g.set 1 v }

theorem test_hyp_CountersAndCancel :
    (t2.ctx t2.myCtx).map (fun c => c.counter .job 255) = some 0 ∧ t2.cur.readG t2.seqId 1 = .ok (5, t2.cur) ∧
    (0 + 2 ^ 48 - (0 : W64).toNat % 2 ^ 48) % 2 ^ 48 < 2 ^ 47 ∧ 2 ^ 47 ≤ (0 + 2 ^ 48 - (5 : W64).toNat % 2 ^ 48) % 2 ^ 48 ∧
    isOk (t2.cur.writeG t2.seqId 27 0) = true ∧
    ([(Level.launch, 2), (.graph, 5), (.phase, 6), (.job, 7)].all fun y =>
      let s := tCancel y.2
      decide (s.cur.readG s.seqId 1 = .ok (y.2, s.cur) ∧ s.covered y.1 y.2 = [2] ∧ (s.launches.filter fun m => m.id == 2).length = 1 ∧
        (s.launch 2).map (fun l => (l.ctx, l.units, l.mark, l.held, l.task.compl)) = some (s.myCtx, [], none, false, 0xC0000) ∧
        (s.ctx 1).isSome = true)) = true ∧
    gives ((tCancel 2).memPiecesAs true 1 0xC0000 64 2) = some [⟨0xC0000, .phys, 0xC0000, 64⟩] ∧
    ((tCancel 2).writeBar [⟨0xC0000, .phys, 0xC0000, 64⟩]).isNone = true ∧ (∀ x : DieId, ((tCancel 2).die x).watch = []) ∧
    t2.covered .launch 9 = [] := by decide +kernel

/-- Nothing is under way there, and no unit of launch 2 is on a core. -/
theorem test_hyp_CountersAndCancel_none (v : W64) :
    untouched (tCancel v) [(0xC0000, 64)] ∧ ∀ (c : CoreId) (u : Resident), ((tCancel v).coreAt c).unit = some u → u.launch ≠ 2 := by
  have n : noneInFlight tTwo := ⟨t3_none.1, t3_none.2⟩
  refine ⟨untouched_none (modCur_none n rfl _ (fun _ q => by cases q <;> rfl) (fun _ d => by cases d <;> rfl)) _, ?_⟩
  refine modCur_all (s := tTwo) (fun k => ∀ u, k.unit = some u → u.launch ≠ 2) ?_ rfl _ (fun y => y)
  exact t2_cores (fun k => ∀ u, k.unit = some u → u.launch ≠ 2) (fun u h => by cases h; decide) (fun u h => by cases h)

/-- Launch 1 with its unit on core 0, a cycle after it started. -/
def tCancelRunning : State :=
  { t2 with cycle := 1 }.modCur fun k => k.modSeq .x fun q => { q with g := q.g.set 1 1 }

theorem test_hyp_CountersAndCancel_running :
    tCancelRunning.cur.readG .x 1 = .ok (1, tCancelRunning.cur) ∧ tCancelRunning.covered .launch 1 = [1] ∧
    (tCancelRunning.launch 1).map (fun l => (l.mark, l.startCycle == tCancelRunning.cycle, l.units)) = some (none, false, [⟨0, .running 0⟩]) ∧
    (tCancelRunning.coreAt 0).a.halted = false ∧ (tCancelRunning.coreAt 0).stop = none ∧
    (tCancelRunning.holding fun u => u.launch == 1) = [0] := by
  have n : ∀ c, c ≠ 0 → (tCancelRunning.coreAt c).unit = none := fun c h =>
    congrArg Core.unit (modCur_others (s := { t2 with cycle := 1 }) t2_others rfl _ c h)
  rw [holding_one (by decide +kernel) n]
  decide +kernel

/-- A watch descriptor (R301) of all words of the line 0x70000, with the record at 0x71000. -/
def tWatch (cond : Nat) : List Byte :=
  leBytes 10 0x70000 ++ [0xFF, 0xFF, BitVec.ofNat 8 cond, 0, 0, 0] ++ List.replicate 16 0 ++ leBytes 10 0x71000 ++ List.replicate 22 0

theorem test_hyp_WatchRegisters :
    [0, 8].all (fun n =>
      let s := { t3a 0x72000 with mem := putBytes t3.mem 0x72000 (tWatch n) }
      decide (s.cur.readA s.seqId 1 = .ok 0x72000 ∧ s.curSeq.out = [] ∧ (0x72000 : A80).toNat % 64 = 0 ∧
        gives (s.readAt s.core s.myCtx 0x72000 64) = some (tWatch n) ∧
        parseWatch (tWatch n) = some (0x70000, 0xFFFF, BitVec.ofNat 8 n, 0, 0, 0x71000) ∧
        inLocal 0x70000 = false ∧ inCluster 0x70000 = false ∧
        gives (s.seqPiece s.myCtx 0x70000 1 permWatch) = some ⟨0x70000, .phys, 0x70000, 1⟩ ∧ regionOf 0x70000 ≠ .host ∧
        gives (s.readAt s.core s.myCtx 0x71000 128) = some tRecord ∧ (0x71000 : A80).toNat % 128 = 0 ∧
        (s.ctx s.myCtx).map (fun c => s.refusal c (parseTask tRecord)) = some 0 ∧
        ((s.die (homeDie 0x70000)).watch.filter fun w => w.slice == sliceOf 0x70000).length < 8)) = true ∧
    (BitVec.ofNat 8 8).getLsbD 3 = true ∧ (BitVec.ofNat 8 0).getLsbD 3 = false ∧ plain t3 27 ∧ isOk (t3.cur.writeG t3.seqId 27 0) = true := by
  unfold plain; decide +kernel

/-- t3 with an address in a1 and bytes there. -/
def t3d (va : A80) (bs : List Byte) : State := { t3a va with mem := putBytes t3.mem va.toNat bs }

/-- A watch descriptor of a line, with its record at task. -/
def tWatchAt (line task : Nat) : List Byte :=
  leBytes 10 line ++ [0xFF, 0xFF, 0, 0, 0, 0] ++ List.replicate 16 0 ++ leBytes 10 task ++ List.replicate 22 0

/-- t3 with a descriptor at 0x72000, its unit one of context 0, whose second 4 TiB are host memory. -/
def tWatchHost (desc : List Byte) : State :=
  let s := (t3a 0x72000).modCur fun k => k.modUnit fun u => { u with ctx := 0 }
  { s with ctxs := [{ tCtx 0 none 0 with part := some tPart, ranges := [⟨0, 2 ^ 42, 7, false⟩, ⟨hostBase, 2 ^ 42, 7, false⟩] }, tCtx 1 (some 0) 1],
           mem := putBytes (putBytes t3.mem 0x60010 (leBytes 8 (hostBase / 65536) ++ [1, 0x0F])) 0x72000 desc }

/-- Descriptors that are refused: a line of the local window, a malformed one, a line in host memory, a record out of line, a record
that cannot be launched; and a slice whose eight watchpoints are taken. -/
theorem test_hyp_WatchRegisters_refused :
    (let s := t3d 0x72000 (tWatchAt (2 ^ 80 - 2 ^ 22) 0x71000)
     gives (s.readAt s.core s.myCtx 0x72000 64) = some (tWatchAt (2 ^ 80 - 2 ^ 22) 0x71000) ∧ inLocal (BitVec.ofNat 80 (2 ^ 80 - 2 ^ 22)) = true) ∧
    parseWatch (leBytes 10 0x70000 ++ List.replicate 54 0) = none ∧
    (let s := tWatchHost (tWatchAt (2 ^ 42) 0x71000)
     gives (s.readAt s.core s.myCtx 0x72000 64) = some (tWatchAt (2 ^ 42) 0x71000) ∧
      gives (s.seqPiece s.myCtx (BitVec.ofNat 80 (2 ^ 42)) 1 permWatch) = some ⟨BitVec.ofNat 80 (2 ^ 42), .phys, hostBase, 1⟩ ∧
      regionOf hostBase = .host ∧
      parseWatch (tWatchAt (2 ^ 42) 0x71000) = some (BitVec.ofNat 80 (2 ^ 42), 0xFFFF, 0, 0, 0, 0x71000)) := by decide +kernel

/-- A slice whose eight watchpoints are taken. -/
def tTaken : State :=
  let w : Watchpoint := { slice := sliceOf 0x70000, line := 0x70000, words := 1, cond := 0, mask := 0, value := 0, task := 0x71000,
                          record := tRecord, ctx := 1, pending := false }
  { t3a 0x72000 with mem := putBytes t3.mem 0x72000 (tWatch 0),
                     dies := t3.dies.set 0 { Die.reset with queues := [⟨1, 0, 0⟩], watch := List.replicate 8 w } }

/-- A descriptor out of line, a record out of line, a record that cannot be launched, no free watchpoint. -/
theorem test_hyp_WatchRegisters_late :
    gives ((t3d 0x72020 (tWatch 0)).readAt 0 1 0x72020 64) = some (tWatch 0) ∧ (0x72020 : A80).toNat % 64 ≠ 0 ∧
    gives ((t3d 0x72020 (tWatch 0)).seqPiece 1 0x70000 1 permWatch) = some ⟨0x70000, .phys, 0x70000, 1⟩ ∧
    parseWatch (tWatchAt 0x70000 0x71001) = some (0x70000, 0xFFFF, 0, 0, 0, 0x71001) ∧ (0x71001 : A80).toNat % 128 ≠ 0 := by decide +kernel

theorem test_hyp_WatchRegisters_last :
    parseWatch (tWatchAt 0x70000 0x74000) = some (0x70000, 0xFFFF, 0, 0, 0, 0x74000) ∧ (0x74000 : A80).toNat % 128 = 0 ∧
    gives ((t3d 0x72000 (tWatchAt 0x70000 0x74000)).readAt 0 1 0x74000 128) = some (List.replicate 128 0) ∧
    ((t3d 0x72000 (tWatchAt 0x70000 0x74000)).ctx 1).map (fun c => t3.refusal c (parseTask (List.replicate 128 0))) = some 1 ∧
    8 ≤ ((tTaken.die (homeDie 0x70000)).watch.filter fun w => w.slice == sliceOf 0x70000).length ∧
    (tTaken.ctx tTaken.myCtx).map (fun c => tTaken.refusal c (parseTask tRecord)) = some 0 := by decide +kernel

/-- The A-sequencer at CONT n, both sequencers without levels; reasons r. -/
def tCont (n : BitVec 16) (r : BitVec 7) : State :=
  t2.modCur fun k => (k.modSeq .a fun q => { q with cont := some n, stall := .cont }).modUnit fun u => { u with reasons := r }

theorem test_hyp_ContinuationPointsMeetAndYield :
    t2.curSeq.handler = false ∧ t2.curSeq.loops = [] ∧ t2.curSeq.deferred = [] ∧ t2.curSeq.out = [] ∧ t2.cur.unit = some tUnit ∧
    (t2.cur.seq (otherSeq t2.seqId)).cont = none ∧ (t2.cur.seq (otherSeq t2.seqId)).halted = false ∧
    [0, 2].all (fun r =>
      let s := tCont 65535 r
      decide ((s.cur.seq (otherSeq s.seqId)).cont = some 65535 ∧ s.cur.loadsBack = true ∧ s.cur.queuesEmpty = true ∧
        s.cur.unit.map (·.reasons) = some r ∧ (s.cur.seq (otherSeq s.seqId)).loops = [])) = true := by decide +kernel

theorem test_hyp_BudgetsAndDivisors :
    t2.cur.readG t2.seqId 1 = .ok (5, t2.cur) ∧ t2.cur.readG t2.seqId 2 = .ok (2 ^ 63, t2.cur) ∧
    (t2.ctx t2.myCtx).map (fun c => (c.privs.getLsbD 0, c.pool)) = some (true, 1000) ∧ t2.cur.unit = some tUnit ∧
    (({ t2 with ctxs := [{ tCtx 1 none 0 with privs := 0 }] } : State).ctx 1).map (fun c => c.privs.getLsbD 0) = some false ∧
    t2.cur.readG t2.seqId 4 = .ok (16, t2.cur) ∧ t2.cur.readG t2.seqId 3 = .ok (0, t2.cur) := by decide +kernel

/-- A segment record (R268) at 0x72000 with b busy cycles and the CRC of no words. -/
def tPhase (b : Nat) : State :=
  { t3a 0x72000 with mem := putBytes t3.mem 0x72000 (leBytes 8 b ++ leBytes 4 (segmentCrc []) ++ [0, 0, 0, 0]) }

theorem test_hyp_PhaseEndsSegment :
    [0, 1].all (fun b =>
      let s := tPhase b
      decide (s.seqId = .x ∧ s.cur.readA .x 1 = .ok 0x72000 ∧
        gives (s.readAt s.core s.myCtx 0x72000 16) = some (leBytes 8 b ++ leBytes 4 (segmentCrc []) ++ [0, 0, 0, 0]) ∧
        s.cur.seg.busy = 0 ∧ s.cur.seg.words = [])) = true ∧
    fieldNat (leBytes 8 1 ++ leBytes 4 (segmentCrc []) ++ [0, 0, 0, 0]) 0 6 = 1 ∧
    fieldNat (leBytes 8 0 ++ leBytes 4 (segmentCrc []) ++ [0, 0, 0, 0]) 8 4 = segmentCrc [] ∧
    fieldNat (leBytes 8 0 ++ leBytes 4 (segmentCrc []) ++ [0, 0, 0, 0]) 6 2 = 0 ∧
    fieldNat (leBytes 8 0 ++ leBytes 4 (segmentCrc []) ++ [0, 0, 0, 0]) 12 4 = 0 ∧
    fieldNat (leBytes 8 (2 ^ 48) ++ leBytes 4 0 ++ [0, 0, 0, 1]) 6 2 ≠ 0 ∧ fieldNat (leBytes 8 (2 ^ 48) ++ leBytes 4 0 ++ [0, 0, 0, 1]) 12 4 ≠ 0 ∧
    engines.all (fun e => ((tPhase 0).cur.eng e).ring.isNone) = true ∧
    ((tRing 31).cur.eng .m).ring.map (·.used) = some 31 := by decide +kernel

theorem test_hyp_SystemRegisterReadsAndWrites :
    isOk (t2.cur.writeG t2.seqId 27 0) = true ∧ 0x14 ≤ (0x14 : BitVec 8).toNat ∧ t2.cur.readG t2.seqId 1 = .ok (5, t2.cur) ∧
    t2.cur.serirIdle = true := by decide +kernel

theorem test_hyp_TimeAndHalt :
    isOk (t2.cur.writeG t2.seqId 27 t2.tick) = true ∧ t2.cur.readG t2.seqId 3 = .ok (0, t2.cur) ∧ (0 : W64).toNat ≤ t2.tick.toNat ∧
    t2.tick.toNat < (5 : W64).toNat ∧ t2.curSeq.handler = false ∧ t2.curSeq.deferred = [] ∧ t2.curSeq.out = [] ∧
    (let s := t2.modCur fun k => { k.modSeq .a fun q => { q with stall := .tick 0 } with code := putBytes [] 0 (leBytes 4 0xF0037000) }
     ((s.coreAt 0).seq .a).stall = .tick 0 ∧ (s.coreAt 0).unit.isSome = true ∧ (s.coreAt 0).stop = none ∧ (s.coreAt 0).handled = none ∧
      decodeWords [getNat (s.coreAt 0).code ((s.coreAt 0).seq .a).pc.toNat 4] = some (.waitt 3) ∧
      (s.coreAt 0).readG .a 3 = .ok (0, s.coreAt 0)) := by decide +kernel

/-- TRAPV enables causes 0x01 and 0x10 at word 100. -/
def tTrap : State := t3.modCur fun k => { k with sys := { k.sys with trapvEn := 0x8001, trapvAddr := 100 } }

theorem test_hyp_TrapEntryAndReturn :
    tTrap.cur.unit = some tUnit ∧ tTrap.cur.stop = none ∧ tTrap.cur.handled = none ∧ tTrap.cur.x.handler = false ∧
    tTrap.cur.sys.trapvEn.getLsbD (0x10 - 1) = true ∧ tTrap.cur.sys.trapvEn.getLsbD (1 - 1) = true ∧
    tTrap.cur.a.out = [] ∧ tTrap.cur.x.out = [] ∧ tTrap.cur.a.deferred = [] ∧ tTrap.cur.x.deferred = [] ∧
    engines.all (fun e => decide ((tTrap.cur.eng e).chunks = [] ∧ (tTrap.cur.eng e).phase = .idle ∧ (tTrap.cur.eng e).ring = none)) = true ∧
    tTrap.launch 1 = some tLaunch ∧
    (gives (tTrap.memPiecesAs true 1 (0x1000000 + BitVec.ofNat 80 (0 * saveSize)) 256 2)).map (fun ps => (tTrap.writeBar ps).isNone) = some true ∧
    (∀ d : DieId, (tTrap.die d).watch = []) ∧
    (let st : Stop := { kind := 1, aim := .trap, causes := [⟨1, 0x10, 0, false, 0, 0⟩], cycle := 0, fatal := false, unitCause := 0, preempt := none, wait := none }
     let s := t2.modCur fun k => { k.modSeq .x fun q => { q with handler := true, hpc := some 8 } with handled := some st }
     s.seqId = .x ∧ s.cur.x.handler = true ∧ s.cur.handled = some st ∧ st.fatal = false ∧ s.cur.x.hpc = some 8 ∧ s.cur.a.stall = .none ∧
      engines.all (fun e => decide ((s.cur.eng e).phase = .idle ∧ (s.cur.eng e).ring = none)) = true) := by
  decide +kernel

/-- No access is in flight there. -/
theorem test_hyp_TrapEntryAndReturn_none : noneInFlight tTrap :=
  modCur_none t3_none rfl _ (fun _ q => by cases q <;> rfl) (fun _ d => by cases d <;> rfl)

/-! ## States that meet the hypotheses of the statements: entries, contexts, units, islands -/

/-- A completed entry at the head of the M stream that signals semaphore 5 with operation o, in a ring of one used slot. -/
def tDone (o : Nat) (count : Nat) : State :=
  (t3.modCur fun k => { k.modEng .m fun e =>
      { e with ring := some { base := 0x1000, log := 0, wslot := 0, rslot := 31, used := 1 }, phase := .done 9 9 64 count,
               head := some ⟨BitVec.ofNat 64 ((5 * 4 + o) * 2 ^ 48), none⟩ } with sems := k.sems.set 5 65000 })

theorem test_hyp_EngineEntries :
    [(0, 1), (1, 1), (2, 1), (3, 535)].all (fun p =>
      let s := tDone p.1 p.2
      decide ((s.cur.eng .m).phase = .done 9 9 64 p.2 ∧ (s.cur.eng .m).head = some ⟨BitVec.ofNat 64 ((5 * 4 + p.1) * 2 ^ 48), none⟩ ∧
        (s.cur.eng .m).chunks = [] ∧ (s.cur.eng .m).ring = some { base := 0x1000, log := 0, wslot := 0, rslot := 31, used := 1 } ∧
        s.cur.unit = some tUnit ∧ s.cur.stop = none ∧ s.cur.seg.rerun = [] ∧ s.cur.reducing .m = false ∧
        s.waitsOf s.core 5 = [] ∧ (syncOf ((5 * 4 + p.1) * 2 ^ 48)).ssem = 5 ∧
        (s.semCount s.core 5).toNat + max 1 p.2 ≤ 65535)) = true := by decide +kernel

/-- A creation descriptor (R327) with the table at 0x20000, weight 1, a ring of two entries. -/
def tCreate : List Byte := leBytes 10 0x20000 ++ [1, 1] ++ List.replicate 52 0

/-- t3 with a child 2 of context 1, whose INIT is i, and a descriptor at 0x73000. -/
def tChild (i : A80) (desc : List Byte) : State :=
  let s := t3a 0x73000
  { s.modCur (fun k => k.modSeq .x fun q => { q with g := q.g.set 1 2 }) with
    ctxs := [{ tCtx 0 none 0 with part := some tPart }, tCtx 1 (some 0) 1,
             { tCtx 2 (some 1) 2 with init := i, ranBefore := false, running := false, cores := 0 }],
    mem := putBytes s.mem 0x73000 desc }

theorem test_hyp_ContextsCreatedAndGranted :
    (let s := tChild 0 tCreate
     plain s 27 ∧ plain s 1 ∧ isOk (s.cur.writeG s.seqId 27 0) = true ∧ s.privileged 1 = true ∧ s.cur.readA s.seqId 1 = .ok 0x73000 ∧ s.curSeq.out = [] ∧
      (0x73000 : A80).toNat % 64 = 0 ∧ gives (s.readAt s.core s.myCtx 0x73000 64) = some tCreate ∧ (parseCreate tCreate).isSome = true ∧
      (s.ctx s.myCtx).map (·.depth.val) = some 1 ∧ s.ctxs.length < 4096 ∧ s.ctx 3 = none ∧
      (List.range 3).all (fun m => (s.ctx m).isSome) = true) ∧
    (({ t3 with ctxs := [{ tCtx 1 none 8 with privs := 0 }] } : State).privileged 1 = false) ∧
    (({ t3 with ctxs := [{ tCtx 1 none 8 with privs := 2 }] } : State).ctx t3.myCtx).map (·.depth.val) = some 8 ∧
    (0x73001 : A80).toNat % 64 ≠ 0 ∧ parseCreate (List.replicate 63 0 ++ [1]) = none ∧
    (let s : State := { t3 with ctxs := List.replicate 4096 (tCtx 1 none 1) }
     4096 ≤ s.ctxs.length ∧ (s.ctx s.myCtx).map (·.depth.val) = some 1) := by
  unfold plain; decide +kernel

/-- A grant descriptor (R330): fields w, cores 0 to 7, a pool of b units. -/
def tGrant (w b : Nat) : List Byte :=
  [0, BitVec.ofNat 8 w] ++ List.replicate 6 0 ++ leBytes 8 b ++ List.replicate 48 0 ++ [0xFF] ++ List.replicate 63 0

theorem test_hyp_ContextsCreatedAndGranted_grant :
    [(9, 1000, 0), (8, 1001, 3), (0x80, 0, 1)].all (fun p =>
      let s := tChild 0 (tGrant p.1 p.2.1)
      match s.ctx 1, s.ctx 2 with
      | some me, some x => decide (s.privileged 1 = true ∧ s.cur.readG s.seqId 1 = .ok (2, s.cur) ∧
          (s.target 2 s.isChild).map (·.num) = some 2 ∧ x.revoked = false ∧ s.curSeq.out = [] ∧ s.cur.readA s.seqId 1 = .ok 0x73000 ∧
          gives (s.devRead s.myCtx 0x73000 128) = some (tGrant p.1 p.2.1) ∧
          (gives (s.memPieces s.myCtx 0x73000 1 2)).map (fun ps => (s.writeBar ps).isNone) = some true ∧ (0x73000 : A80).toNat % 128 = 0 ∧
          s.grantStatus me x (parseGrant false (tGrant p.1 p.2.1)) = p.2.2 ∧ x.num ≠ me.num)
      | _, _ => false) = true := by decide +kernel

theorem test_hyp_ContextsRunStopReport :
    [0, 0x71000].all (fun i =>
      let s := tChild (BitVec.ofNat 80 i) []
      match s.ctx 2 with
      | some x => decide (s.privileged 1 = true ∧ s.cur.readG s.seqId 1 = .ok (2, s.cur) ∧
          (s.target 2 s.isDescendant).map (·.num) = some 2 ∧ x.revoked = false ∧ s.curSeq.out = [] ∧ s.awaiting = [] ∧
          x.init.toNat = i ∧ x.ranBefore = false ∧ x.running = false ∧ s.within x.num s.myCtx = true ∧ s.newLaunchId x.num < 2 ^ 48)
      | none => false) = true ∧
    (let s := tChild 0x71000 []
     gives (s.devRead 2 0x71000 128) = some tRecord ∧ (0x71000 : A80).toNat % 128 = 0 ∧
      (s.ctx 2).map (fun x => s.refusal { x with cores := 1 } (some tTask)) = some 0) ∧
    (2 : W64).toNat = 2 ∧ plain (tChild 0 []) 27 ∧ isOk ((tChild 0 []).cur.writeG t3.seqId 27 0) = true := by unfold plain; decide +kernel

/-- A revocation of context 2 in progress. -/
def tRevoking (r : Revocation) : State :=
  (tChild 0 []).modCtx 2 fun c => { c with cores := 1, revoking := some r }

theorem test_hyp_RevocationTakesAndCompletes :
    [(1, 0xFF), (0x40, 0xFF), (0x80, 1), (2, 1)].all (fun p =>
      let s := tChild 0 (tGrant p.1 0)
      match s.ctx 2 with
      | some x => decide (s.privileged 1 = true ∧ s.cur.readG s.seqId 1 = .ok (2, s.cur) ∧
          (s.target 2 s.isChild).map (·.num) = some 2 ∧ x.revoked = false ∧ s.curSeq.out = [] ∧ s.cur.readA s.seqId 1 = .ok 0x73000 ∧
          gives (s.devRead s.myCtx 0x73000 128) = some (tGrant p.1 0) ∧
          (gives (s.memPieces s.myCtx 0x73000 1 2)).map (fun ps => (s.writeBar ps).isNone) = some true ∧
          revokeStatus x (parseGrant true (tGrant p.1 0)) = p.2)
      | none => false) = true ∧
    [{ issuer := none, status := none, ctr := none, all := false, pool := 0, floor := 0 },
     { issuer := some 1, status := some 0x73000, ctr := some 255, all := false, pool := 7, floor := 0 },
     { issuer := none, status := none, ctr := none, all := true, pool := 0, floor := 0 : Revocation }].all (fun r =>
      let s := tRevoking r
      decide ((s.ctx 2).map (fun x => (x.num, x.revoking)) = some (2, some r) ∧
        s.revokedLaunches (s.subtree 2) r.all = [] ∧ s.subtree 2 = [2])) = true := by decide +kernel

/-- Its cores are those of t3 with registers set. -/
theorem tRevoking_core (r : Revocation) (c : CoreId) :
    (tRevoking r).coreAt c = ((t3a 0x73000).modCur fun k => k.modSeq .x fun q => { q with g := q.g.set 1 2 }).coreAt c := by
  unfold tRevoking tChild State.modCtx State.coreAt
  rfl

/-- Nothing is in flight there, and no unit of context 2 is left. -/
theorem test_hyp_RevocationTakesAndCompletes_none (r : Revocation) :
    noneInFlight (tRevoking r) ∧ (tRevoking r).revokePending [2] = false := by
  have a : noneInFlight (t3a 0x73000) := by
    unfold t3a
    exact modCur_none t3_none rfl _ (fun _ q => by cases q <;> rfl) (fun _ d => by cases d <;> rfl)
  have b := modCur_none a (by unfold t3a; rfl) (fun k => k.modSeq .x fun q => { q with g := q.g.set 1 2 }) (fun _ q => by cases q <;> rfl)
    (fun _ d => by cases d <;> rfl)
  have f : noneInFlight (tRevoking r) :=
    ⟨fun c q => by rw [tRevoking_core]; exact b.1 c q, fun c e => by rw [tRevoking_core]; exact b.2 c e⟩
  have o : ∀ c, c ≠ 0 → (t3a 0x73000).coreAt c = Core.reset := by
    unfold t3a
    exact modCur_others t3_others rfl _
  have n : (tRevoking r).holding (fun u => [2].contains u.ctx) = [] := by
    refine holding_nil fun c u h => ?_
    rw [tRevoking_core] at h
    by_cases e : c = 0
    · subst e
      rw [modCur_unit (s := t3a 0x73000) (by unfold t3a; rfl) (fun k => k.modSeq .x fun q => { q with g := q.g.set 1 2 }) fun _ => rfl,
        show ((t3a 0x73000).coreAt 0).unit = some tUnit by decide +kernel] at h
      cases h
      decide
    · rw [modCur_others o (by unfold t3a; rfl) _ c e] at h
      cases h
  refine ⟨f, ?_⟩
  unfold State.revokePending
  rw [n]
  rfl

/-- t3 with a stop, reasons and BUDG of the unit on core 0. -/
def tLeaves (st : Option Stop) (r : BitVec 7) (g : BitVec 32) : State :=
  t3.modCur fun k => { k.modUnit (fun u => { u with reasons := r }) with stop := st, sys := { k.sys with budg := g } }

/-- A stop that saves. -/
def tSave : Stop := { kind := 2, aim := .save, causes := [], cycle := 0, fatal := false, unitCause := 0, preempt := none, wait := none }

theorem test_hyp_UnitLeaves :
    [tLeaves (some tSave) 0 0, tLeaves none 16 (BitVec.ofInt 32 (-1)),
     (tLeaves none 2 0).modCur (fun k => (k.modUnit fun u => { u with draining := true }).modSeq .x fun q => { q with cont := some 0 }),
     t3.modCur (fun k => (k.modSeq .a fun q => { q with halted := true }).modSeq .x fun q => { q with halted := true })].all (fun s =>
      decide ((s.coreAt 0).unit.isSome = true ∧ (s.coreAt 0).a.out = [] ∧ (s.coreAt 0).x.out = [] ∧ (s.coreAt 0).a.deferred = [] ∧
        (s.coreAt 0).x.deferred = [] ∧
        engines.all (fun e => decide (((s.coreAt 0).eng e).chunks = [] ∧ ((s.coreAt 0).eng e).phase = .idle)) = true)) = true ∧
    (tLeaves (some tSave) 0 0).cur.stop = some tSave ∧ graceRuns 16 = true ∧ (BitVec.ofInt 32 (-1)).toInt < 0 ∧
    (let s := (tLeaves none 2 0).modCur (fun k => (k.modUnit fun u => { u with draining := true }).modSeq .x fun q => { q with cont := some 0 })
     (s.coreAt 0).stop = none ∧ (s.coreAt 0).drained = true ∧ (s.coreAt 0).contNumber.isSome = true ∧ (s.launch 1).isSome = true ∧
      (2 : BitVec 7) ≠ reasonVariant) ∧
    (t3.modCur (fun k => (k.modSeq .a fun q => { q with halted := true }).modSeq .x fun q => { q with halted := true })).cur.canEnd = true ∧
    ((t3.modCur fun k => k.modEng .v fun e => { e with phase := .running .fresh }).cur.eng .v).phase = .running .fresh ∧
    (let s := { t3 with launches := [tLaunch, { freshLaunch 2 1 { tTask with gang := true, startTick := 100000 } with shares := [(0, .reserved)] }],
                        dies := t3.dies.set 0 { Die.reset with reserved := [(0, 2)] } }
     (s.launch 2).map (fun x => (x.shareIs 0 .reserved, decide (x.task.startTick.toNat ≤ s.tick.toNat + 100000))) = some (true, true) ∧
      (s.die 0).reservedFor 2 = [0]) := by decide +kernel

/-- A stop that saves, in a launch that is marked or not. -/
def tMarked (m : Option (BitVec 8)) : State :=
  { tLeaves (some tSave) 0 0 with launches := [{ tLaunch with task := { tTask with units := 1 }, mark := m }] }

/-- The state in which its save begins. -/
def tSaving (m : Option (BitVec 8)) : State := (tMarked m).modCore 0 fun k => k.noteUnitCause tSave

/-- Nothing is under way there. -/
theorem tSaving_none (m : Option (BitVec 8)) : noneInFlight (tSaving m) := by
  have a : noneInFlight (tLeaves (some tSave) 0 0) := by
    unfold tLeaves
    exact modCur_none t3_none rfl _ (fun _ q => by cases q <;> rfl) (fun _ d => by cases d <;> rfl)
  have b : noneInFlight (tMarked m) := ⟨a.1, a.2⟩
  exact modCur_none b rfl (fun k => k.noteUnitCause tSave) (fun _ q => by cases q <;> rfl) (fun _ d => by cases d <;> rfl)

/-- And the table maps address for address. -/
theorem tSaving_mapped (m : Option (BitVec 8)) :
    Mapped { tSaving m with fresh := (tSaving m).fresh + 1 } { tCtx 0 none 0 with part := some tPart } (tCtx 1 (some 0) 1) :=
  { at0 := rfl, at1 := rfl, up0 := ⟨rfl, rfl, rfl, rfl⟩, up1 := ⟨rfl, rfl, rfl, rfl⟩,
    e0 := (by decide +kernel : leNat (t3.physRead 0x20000 16) = _), e1 := (by decide +kernel : leNat (t3.physRead 0x40000 16) = _),
    e2 := (by decide +kernel : leNat (t3.physRead 0x60000 16) = _), good := ⟨rfl, rfl, rfl⟩,
    calm := ⟨rfl, fun _ => rfl, (by decide +kernel : ∀ d : DieId, (t3.die d).watch = [])⟩, idle := tSaving_none m }

/-- Its save area. -/
theorem tSaving_area (m : Option (BitVec 8)) : (tSaving m).saveArea tUnit = 0x1000000 := by
  have l : (tSaving m).launch tUnit.launch = some { tLaunch with task := { tTask with units := 1 }, mark := m } := rfl
  unfold State.saveArea
  rw [l]
  rfl

/-- The pages of its save area lie behind the table. -/
theorem tSaving_pages :
    let ok (o n : Nat) : Prop := ∀ p ∈ pagesOf (0x1000000 + BitVec.ofNat 80 o) n, 0x60010 ≤ p.1.toNat ∧ p.1.toNat < 2 ^ 39
    ok 0 0x10000 ∧ ok 0x10000 0x60000 ∧ ok 0x70000 0x10000 ∧ ok 0x80000 0x400000 ∧ ok 0x4C1000 0x1000 ∧ ok 0x4C2000 0x8200 ∧
    ok 0x4CA200 0x35E00 := by decide +kernel

/-- The save succeeds; the launch is as it was, and its record can be written behind it. -/
theorem test_hyp_UnitLeaves_save (m : Option (BitVec 8)) (hm : m = none ∨ m = some 2) :
    ∃ w, (tSaving m).hardSave 0 tUnit tSave = .ok (w, ((tSaving m).coreAt 0).savePriv) ∧
      w.launch 1 = some { tLaunch with task := { tTask with units := 1 }, mark := m } ∧ (w.coreAt 0).unit = some tUnit ∧
      (w.ctx 1).isSome = true ∧ w.memPiecesAs true 1 0xC0000 64 2 = .ok [⟨0xC0000, .phys, 0xC0000, 64⟩] ∧
      w.writeBar [⟨0xC0000, .phys, 0xC0000, 64⟩] = none ∧ untouched w [(0xC0000, 64)] ∧ ∀ d, (w.die d).watch = [] := by
  have tl : ∀ n : Fin 32, ((tSaving m).coreAt 0).tiles[n].mustWrite = false ∧
      (((tSaving m).coreAt 0).tiles[n].pinned && ((tSaving m).coreAt 0).tiles[n].present) = false := by
    rcases hm with rfl | rfl <;> decide +kernel
  obtain ⟨w, e, o, k⟩ := Mapped.writeRanges ((tSaving m).saveArea tUnit)
    (((tSaving m).coreAt 0).hardRanges tUnit tSave (tSaving m).tick ((tSaving m).saveTiles 0 ((tSaving m).fastForm tUnit)).2 (tSaving m).fresh)
    (tSaving_mapped m) (by
      rw [tSaving_area m]
      simp only [Core.hardRanges, List.mem_cons, List.not_mem_nil, or_false, forall_eq_or_imp, forall_eq]
      exact tSaving_pages)
  refine ⟨w, ?_, ?_, ?_, ?_, ?_, k.free _, untouched_none ⟨k.idle.1, k.idle.2⟩ _, k.calm.2.2⟩
  · exact State.hardSave_ok tl e
  · exact (congrArg (State.launch · 1) o).trans (by rcases hm with rfl | rfl <;> rfl)
  · exact (congrArg Core.unit (o.coreAt 0)).trans (by rcases hm with rfl | rfl <;> rfl)
  · exact congrArg Option.isSome k.at1
  · exact (k.memPieces true (.inr rfl) (va := 0xC0000) (n := 64) (by decide)).trans rfl

theorem test_hyp_UnitLeaves_tiles :
    (engines.all fun e => decide ((((tMarked none).coreAt 0).eng e).late = [] ∧ (((tMarked none).coreAt 0).eng e).todo = [])) = true ∧
    hasReason tUnit.reasons reasonRevoke = false ∧ tLaunch.held = false ∧ tLaunch.units = [⟨0, .running 0⟩] ∧
    gives (t3.memPiecesAs true 1 0x100FFF0 32 2) = some [⟨0x100FFF0, .phys, 0x100FFF0, 16⟩, ⟨0x1010000, .phys, 0x1010000, 16⟩] ∧
    (t3.writeBar [⟨0x100FFF0, .phys, 0x100FFF0, 16⟩, ⟨0x1010000, .phys, 0x1010000, 16⟩]).isNone = true := by decide +kernel

/-- Both sequencers have ended, and the unit is the last of its launch. -/
def tEnds : State :=
  { t3.modCur (fun k => (k.modSeq .a fun q => { q with halted := true }).modSeq .x fun q => { q with halted := true }) with
    launches := [{ tLaunch with task := { tTask with units := 1 } }] }

theorem test_hyp_UnitLeaves_end :
    tEnds.cur.canEnd = true ∧ tEnds.cur.unit = some tUnit ∧ tEnds.launch 1 = some { tLaunch with task := { tTask with units := 1 } } ∧
    tEnds.launches.length = 1 ∧ (tEnds.ctx 1).isSome = true ∧
    gives (tEnds.memPiecesAs true 1 0xC0000 64 2) = some [⟨0xC0000, .phys, 0xC0000, 64⟩] ∧
    (tEnds.writeBar [⟨0xC0000, .phys, 0xC0000, 64⟩]).isNone = true ∧ (∀ d : DieId, (tEnds.die d).watch = []) := by decide +kernel

theorem test_hyp_UnitLeaves_end_none : untouched tEnds [(0xC0000, 64)] := by
  have a := modCur_none t3_none rfl (fun k => (k.modSeq .a fun q => { q with halted := true }).modSeq .x fun q => { q with halted := true })
    (fun _ q => by cases q <;> rfl) (fun _ d => by cases d <;> rfl)
  exact untouched_none (s := tEnds) ⟨a.1, a.2⟩ _

/-- t3 with core 0 free and only launch 2, ready on die 0. -/
def tFree : State := { t3.modCore 0 (fun k => { k with unit := none }) with launches := [{ freshLaunch 2 1 tTask with shares := [(0, .ready)] }] }

/-- What the device keeps of a saved unit. -/
def tPriv : SavePriv :=
  { queues := Vector.replicate 8 none, used := [], aMarks := [], gMarks := [], slotMarks := [], check := none, seg := Segment.reset,
    handled := none, tcause := 0, tinfo := 0, tpc := 0, lost := [], deferred := [], seqnos := [], counts := [], caps := [], clocks := [],
    overs := [], chains := [], parked := false }

/-- The launch whose one unit is saved. -/
def tSavedLaunch (y : Bool) : Launch :=
  { freshLaunch 2 1 { tTask with units := 1 } with shares := [(0, .running)], units := [⟨0, .saved y tPriv⟩] }

/-- The cells of a save area: a stop record and a header, a V command begun at element 64 and an MDELTA begun at token 3. -/
def tCells : Cells := [(0, 1), (0x4D, 0x0C), (0x50, 1), (0x51, 3), (0x6D, 1), (0x70, 1), (0x71, 64), (0x100, 1), (0x103, 3)]

/-- That launch and its save area. -/
def tSaved (y : Bool) : State :=
  { tFree with launches := [tSavedLaunch y], mem := tTable ++ tCells.map fun c => (0x1000000 + c.1, c.2) }

/-- The table maps address for address there. -/
theorem tSaved_mapped : Mapped (tSaved false) { tCtx 0 none 0 with part := some tPart } (tCtx 1 (some 0) 1) :=
  { at0 := rfl, at1 := rfl, up0 := ⟨rfl, rfl, rfl, rfl⟩, up1 := ⟨rfl, rfl, rfl, rfl⟩, e0 := by decide +kernel, e1 := by decide +kernel,
    e2 := by decide +kernel, good := ⟨rfl, rfl, rfl⟩,
    calm := ⟨rfl, fun _ => rfl, (by decide +kernel : ∀ d : DieId, (t3.die d).watch = [])⟩,
    idle := by
      have f := modCur_none t3_none rfl (fun k => { k with unit := none }) (fun _ _ => rfl) (fun _ _ => rfl)
      exact ⟨f.1, f.2⟩ }

/-- What its ranges hold. -/
theorem tSaved_gathered :
    hardParts.foldr (fun r m => putCells m r.1 r.2 (gatherCells (tTable ++ tCells.map fun c => (0x1000000 + c.1, c.2))
      (pagesOf (0x1000000 + BitVec.ofNat 80 r.1) r.2))) [] = tCells := by
  have q : pagesOf (0x1000000 + BitVec.ofNat 80 0x80000) 0x400000 =
      (List.range 64).map fun i => (BitVec.ofNat 80 (0x1080000 + 65536 * i), 65536) := by decide +kernel
  have e : gatherCells (tTable ++ tCells.map fun c => (0x1000000 + c.1, c.2))
      ((List.range 64).map fun i => (BitVec.ofNat 80 (0x1080000 + 65536 * i), 65536)) = [] := by decide +kernel
  simp only [hardParts, List.foldr_cons, List.foldr_nil, q, e]
  decide +kernel

theorem test_hyp_UnitStarts_saved :
    (tSaved false).readRanges 1 0x1000000 hardParts = .ok tCells ∧
    gives ((tSaved false).devRead 1 0x1000000 256) = some (getBytes tCells 0 256) := by
  refine ⟨?_, by decide +kernel⟩
  rw [tSaved_mapped.readRanges 0x1000000 hardParts (by decide +kernel)]
  exact congrArg Except.ok tSaved_gathered

/-- Such an area is accepted. -/
theorem test_hyp_UnitStarts_accepted :
    (tSavedLaunch false).unitState 0 = some (.saved false tPriv) ∧ stopRecordOk (getBytes tCells 0 256) = true ∧
    (recordWait (getBytes tCells 0 256) 0).isNone = true ∧ (recordWait (getBytes tCells 0 256) 1).isNone = true ∧
    headerRecordOk (getBytes tCells 0x100 256) = true ∧ saveCellsOk tCells = true ∧ getNat tCells 5 1 = 0 ∧ getNat tCells 0x103 1 = 3 ∧
    ((List.range 4).map fun j => getNat tCells (0x50 + 32 * j) 1) = [1, 1, 0, 0] ∧ tPriv.handled = none ∧ tPriv.seg.rerun = [] ∧ tPriv.used = [] ∧
    Memory.wf (tSaved false).mem = true ∧ (tSaved false).nextIsSaved 0 = true := by decide +kernel

/-- The same after a yield at continuation point 0. -/
theorem test_hyp_UnitStarts_yielded :
    (tSavedLaunch true).unitState 0 = some (.saved true tPriv) ∧
    gives ((tSaved true).devRead 1 ((tSavedLaunch true).area 0 + 0x100) 256) = some (getBytes tCells 0x100 256) ∧
    fieldNat (getBytes tCells 0x100 256) 4 2 = 0 ∧ (tImg.conts.find? fun y => y.num == 0).isSome = true ∧
    (gives ((tSaved true).readRanges 1 ((tSavedLaunch true).area 0) (yieldParts ⟨0, [], [(0, 0)]⟩))).isSome = true := by decide +kernel

/-- The same with launch 2 a gang whose core 0 is reserved. -/
def tGang : State :=
  { tFree with launches := [{ freshLaunch 2 1 { tTask with gang := true, startTick := 1, units := 1 } with shares := [(0, .reserved)] }],
               dies := tFree.dies.set 0 { Die.reset with reserved := [(0, 2)] }, tick := 1 }

theorem test_hyp_UnitStarts :
    (match (tFree.dropCredit (dieOf 0)).pick 0 with
      | some (x, s1) => match s1.candidates x 0 with
        | l :: _ =>
          let l0 := { l with level := s1.startLevel l }
          match s1.checkLaunch l0 (dieOf 0) with
          | .ok (m, es, e) =>
            let s2 := s1.noteChecked l.id (dieOf 0) m es l0.level e.cores
            match s2.launch l.id with
            | some l2 => decide (x = 1 ∧ l.task.persist = false ∧ l.task.gang = false ∧ m.usesBank = false ∧
                s2.residentOn l0 (dieOf 0) < l0.limitOn (dieOf 0) (if l0.cores = 0 then e.cores else l0.cores) ∧
                l0.placeable (dieOf 0) 1 = [0] ∧ l2.mark = none ∧ l2.unitState 0 = none ∧ (s2.freeCores l2 (dieOf 0)).head? = some 0)
            | none => false
          | .error _ => false
        | [] => false
      | none => false) = true ∧
    (match tGang.launch 2 with
      | some l => decide (l.task.gang = true ∧ tGang.gangStarts l 0 = true ∧ l.gangPairs 0 (tGang.gangReady l 0) = [(0, 0)] ∧ l.unitState 0 = none ∧
          (match tGang.checkLaunch l 0 with | .ok _ => true | .error _ => false) = true)
      | none => false) = true := by
  decide +kernel

/-- t3 with queues of contexts 1 and 0, the first owing, its unit on core 0 resident for c cycles; a launch of context 0 is ready. -/
def tTenant (c : Nat) : State :=
  { t3.modCur (fun k => k.modUnit fun u => { u with resident := c }) with
    dies := t3.dies.set 0 { Die.reset with queues := [⟨0, 1, 0⟩, ⟨1, BitVec.ofInt 64 (-1), 0⟩] },
    launches := [tLaunch, { freshLaunch 2 0 tTask with shares := [(0, .ready)] }] }

/-- A gang of one unit that starts 1 ms after reset, with its share of die 0 as given, in a package with SYNC. -/
def tGangLaunch (w : ShareState) : Launch :=
  { freshLaunch 2 1 { tTask with gang := true, startTick := 1000000, units := 1 } with shares := [(0, w)] }

/-- A package with that gang. -/
def tReserve (w : ShareState) : State := { tFree with launches := [tGangLaunch w], fabric := { tFree.fabric with sync := true } }

/-- Cores of die 0 that a gang may have, those of them that are not reserved, and how many it needs, where its image and table hold. -/
def gangCounts (s : State) (l : Launch) : Option (Nat × Nat × Nat) :=
  match s.checkLaunch l 0 with
  | .ok (m, es, e) =>
    let s1 := s.noteChecked l.id 0 m es l.level e.cores
    some (((s1.modDie 0 fun y => { y with reserved := [] }).gangCores l 0).length,
      ((s1.gangCores l 0).filter fun k => (s1.die 0).reserved.all fun p => p.1 != k.val).length,
      l.limitOn 0 (if l.cores = 0 then e.cores else l.cores))
  | .error _ => none

/-- That package where the gang needs n cores and the reservations of others are as given. -/
def tShort (n : Nat) (r : List (Nat × Nat)) : State :=
  { tReserve .ready with launches := [{ tGangLaunch .ready with cores := n }], dies := tFree.dies.set 0 { Die.reset with reserved := r } }

theorem test_hyp_DispatcherRows_gang :
    ([ShareState.waiting, .ready].all fun w =>
      decide ((tReserve w).launch 2 = some (tGangLaunch w) ∧ (tGangLaunch w).mark = none ∧ (tGangLaunch w).task.startTick = 1000000 ∧
        (tReserve w).tick = 0 ∧ (tReserve w).fabric.sync = true ∧
        (((tReserve w).launches.filter fun y => (tReserve w).reservationDue 0 y && decide (y.id ≤ 2)).map (·.id)) = [2])) = true ∧
    gangCounts (tReserve .ready) (tGangLaunch .ready) = some (8, 8, 1) ∧
    gangCounts (tShort 9 []) { tGangLaunch .ready with cores := 9 } = some (8, 8, 9) ∧
    gangCounts (tShort 8 [(0, 7)]) { tGangLaunch .ready with cores := 8 } = some (8, 7, 8) := by decide +kernel

theorem test_hyp_DispatcherRows :
    ((tTenant 2400000).die 0).sliceCycles ≤ 2400000 ∧ ((tTenant 2400000).coreAt 0).unit.map (fun u => (u.ctx, u.resident)) = some (1, 2400000) ∧
    (((tTenant 2400000).die 0).queues.any fun q => q.ctx == 1 && decide (q.deficit.toInt < 0)) = true ∧
    (tTenant 2400000).otherEligible 0 1 = true ∧ (t2.die 0).sliceCycles = 2400000 ∧
    ([IslandState.on, .gated].all fun x =>
      let s := { t3 with ctxs := [{ tCtx 0 none 0 with part := some { tPart with islands := 2 }, wdog := 1 }],
                         islands := t3.islands.set 1 { Island.reset with state := x },
                         dies := t3.dies.set 0 { Die.reset with queues := [⟨0, 0, 24000⟩] } }
      decide (s.watchdogLimit 0 = 24000 ∧ s.expired 0 0 = true ∧ s.expired 0 1 = false ∧ s.partitionOf 0 = some 0 ∧ (s.die 0).drains = [] ∧
        s.partIslandsOf 0 0 = [1] ∧ s.islandEmpty 1 = true ∧ (s.island 1).state = x)) = true := by decide +kernel

/-- No unit of t2 has used its slice; none is on another core of tTenant. -/
theorem test_hyp_DispatcherRows_cores :
    (∀ (c : CoreId) (u : Resident), (t2.coreAt c).unit = some u → u.resident < 2400000) ∧
    ∀ c : CoreId, c ≠ 0 → ((tTenant 2400000).coreAt c).unit = none :=
  ⟨t2_cores (fun k => ∀ u, k.unit = some u → u.resident < 2400000) (fun u h => by cases h; show 0 < 2400000; omega) (fun u h => by cases h),
   fun c h => congrArg Core.unit (modCur_others t3_others rfl (fun k => k.modUnit fun u => { u with resident := 2400000 }) c h)⟩

/-- The watchdog of context 1 has reached its limit while its unit stands before a V command on core 0. -/
def tExpired : State :=
  { t3.modCur (fun k => k.modEng .v fun e => { e with phase := .running .fresh }) with
    ctxs := [{ tCtx 0 none 0 with part := some tPart }, { tCtx 1 (some 0) 1 with wdog := 1 }], launches := [tLaunch],
    dies := t3.dies.set 0 { Die.reset with queues := [⟨1, 0, 24000⟩] } }

theorem test_hyp_DispatcherRows_watchdog :
    tExpired.expired 0 1 = true ∧ tExpired.partitionOf 1 = some 0 ∧ (tExpired.die 0).drains = [] ∧
    (tExpired.partIslandsOf 0 0).contains (islandOf 0) = true ∧ (tExpired.island (islandOf 0)).state = .on ∧
    (tExpired.coreAt 0).unit = some tUnit ∧ tUnit.ctx = 1 ∧ (tExpired.coreAt 0).stop = none ∧ ((tExpired.coreAt 0).eng .v).phase = .running .fresh ∧
    tExpired.launch 1 = some tLaunch ∧ tLaunch.mark = none ∧ tLaunch.task.persist = false ∧ tLaunch.units = [⟨0, .running 0⟩] ∧
    tExpired.launches.length = 1 ∧ tExpired.catcher 0x0E 10 1 = none ∧
    (tExpired.ctx 0).map (fun y => (y.parent, y.destroying)) = some (none, false) ∧ tExpired.host.ring = none ∧ tExpired.host.held = [] ∧
    (∀ d : DieId, (tExpired.die d).watch = []) := by decide +kernel

theorem test_hyp_DispatcherRows_watchdog_cores (k : CoreId) (h : k ≠ 0) : (tExpired.coreAt k).unit = none :=
  congrArg Core.unit (modCur_others t3_others rfl (fun k => k.modEng .v fun e => { e with phase := .running .fresh }) k h)

/-- A held event whose place in the host's ring is free. -/
def tHeld : State := { t3 with host := { t3.host with held := [List.replicate 64 1], ring := some (0x8000000000000, 1) } }

theorem test_hyp_DispatcherRows_held :
    ((∀ k ∈ tHeld.ctxs, k.held = [] ∧ k.destroying = false) ∧ (∀ d : DieId, (tHeld.die d).watch = []) ∧
      tHeld.host.held = [List.replicate 64 1] ∧ tHeld.host.ring = some (0x8000000000000, 1) ∧ getByte tHeld.mem 0x8000000000000 = 0) ∧
    untouched tHeld [(0x8000000000000, 64)] :=
  ⟨by decide +kernel, untouched_none (s := tHeld) ⟨t3_none.1, t3_none.2⟩ _⟩

theorem test_hyp_IslandsGateResetFail :
    islandOf 8 = 1 ∧
    [IslandState.on, .resetting].all (fun x =>
      let s := { t3 with islands := t3.islands.set 1 { Island.reset with state := x, bank := Vector.replicate 16 65535 } }
      decide ((s.island 1).state = x ∧ s.islandEmpty 1 = true ∧ s.bankRecord 1 = some 0x100040)) = true := by decide +kernel

/-! ## States that meet the hypotheses of the statements: Serir -/

/-- Views w0 to w3 of n + 1 rows of 256 bytes: w0 to w2 of type t, w3 of type u; every row of the URS valid; the bytes bs from row 64;
mask m0 clear. -/
def tView (t u : VType) (kd : MxKind) (len : BitVec 6) (bs : List Byte) : State :=
  let w (ty : VType) (b : BitVec 11) : View := { set := true, type := ty, kind := kd, base := b, len := len, count := 3 }
  t3.modCur fun k =>
    { k with
      urs := putBytes [] (64 * 256) bs, valid := BitVec.allOnes 1536, spad := putBytes [] 0x4000 bs,
      serir := { k.serir with
        views := ((((k.serir.views.set 0 (w t 64)).set 1 (w t 192)).set 2 (w t 320)).set 3 (w u 448)),
        masks := k.serir.masks.set 0 0x5555555555555555 } }

/-- The stored bytes of the current core have their canonical form. -/
def tCanonical (s : State) : Bool := Memory.wf s.cur.urs && Memory.wf s.cur.sof && Memory.wf s.cur.latch && Memory.wf s.cur.spad

/-- It is what the statements ask. -/
theorem tCanonical_spec (s : State) (h : tCanonical s = true) : canonical s.cur := by
  unfold tCanonical at h
  simp only [Bool.and_eq_true] at h
  exact ⟨h.1.1.1, h.1.1.2, h.1.2, h.2⟩

/-- The shared checks of a V command. -/
def tUses (s : State) (us : List Use) : Bool :=
  (s.cur.useFault .v us).isNone && (s.cur.coverFault us).isNone && (s.cur.invalidFault (us.map s.cur.readRange).flatten).isNone

/-- The command may take its turn. -/
def tReady (s : State) (m : Bool) (us : List Use) (w n : Nat) : Bool :=
  tCanonical s && tUses s us && (s.cur.ursFault m us (turn s (isLong us) w n).1 (turn s (isLong us) w n).2).isNone &&
    (if isLong us then s.cur.stop.isNone && decide (s.vecDone < n) && s.vecDone % w == 0 else s.vecDone == 0)

/-- The hypotheses of the statement about element-wise commands, for a form. -/
def formMeets (s : State) (F : Form) : Bool :=
  let n := s.cur.countOf F.d (8 * VType.size F.td)
  tReady s F.m (F.uses n) F.w n && (isLong (F.uses n) || decide (n ≤ F.w))

/-- tView whose stream V stands behind done elements of a long command. -/
def tPass (t u : VType) (kd : MxKind) (len : BitVec 6) (done : Nat) : State :=
  (tView t u kd len []).modCur fun k => k.modEng .v fun e => { e with phase := .running (.elems done) }

/-- FP32 at its largest finite pattern and at a NaN; E4M3, E5M2 and E2M1 at their largest finite patterns; the integers at both ends. -/
theorem test_hyp_NumberFormatsRoundTrip :
    (0xFF7FFFFF < 2 ^ fmtFp32.width ∧ (fmtFp32.decode 0xFF7FFFFF).isNan = false ∧ (fmtFp32.decode 0xFFFFFFFF).isNan = true) ∧
    [(fmtE4m3, 0x7E), (fmtE4m3, 0xFE), (fmtE5m2, 0x7B), (fmtE5m2, 0xFB), (fmtE2m1, 7), (fmtE2m1, 15)].all (fun p =>
      decide (p.2 < 2 ^ p.1.width) && !(p.1.decode p.2).isNan && p.1.decode p.2 != .inf true && p.1.decode p.2 != .inf false) = true ∧
    (0x8000 < 2 ^ (8 * VType.size .int16) ∧ 0x7FFF < 2 ^ (8 * VType.size .int16 - 1)) := by decide +kernel

/-- A matrix of INT4 and one of INT2 elements, and elements that end within a byte. -/
theorem test_hyp_NumberFormatsRoundTrip_narrow :
    (let d (m : Nat) : PackDesc := { parsePack [] with mtype := m }
     ((d 8).mtype, (d 8).bits) ∈ [(8, 4), (9, 2)] ∧ ((d 9).mtype, (d 9).bits) ∈ [(8, 4), (9, 2)]) ∧
    (∀ x ∈ [15, 0, 8], x < 2 ^ 4) ∧ [15, 0, 8].length * 4 % 8 ≠ 0 ∧ (∀ x ∈ [3, 0, 2, 1, 2], x < 2 ^ 2) ∧
    [3, 0, 2, 1, 2].length * 2 % 8 ≠ 0 := by decide +kernel

/-- Every form on rows of one URS row: of FP32, of INT8, with an INT32 destination, with an INT32 source; on a scalar; and the last pass
of a long one, of 2,048 elements. -/
theorem test_hyp_VectorElementResults :
    ((forms2 ⟨0, .none, 0, .none⟩ .fp32 true (.row 0 3) (.row 1 0) (.row 2 3)).take 5 ++
      (forms3 ⟨0, .none, 0, .none⟩ .fp32 true (.row 0 3) (.row 1 0) (.row 2 3)).take 6 ++
      (forms1 ⟨0, .none, 0, .none⟩ .fp32 .fp32 true (.row 0 3) (.row 1 0) 31).take 11).all
      (formMeets (tView .fp32 .int32 .e4m3 0 [])) = true ∧
    ((forms2 ⟨0, .none, 0, .none⟩ .uint8 true (.row 0 3) (.row 1 0) (.sof 15)).drop 8).all
      (formMeets (tView .uint8 .int32 .e4m3 0 [])) = true ∧
    formMeets (tView .int8 .int32 .e4m3 3 []) ⟨.vmac8 ⟨0, .none, 0, .none⟩ .int8 true (.row 3 3) (.row 1 0) .latch, true, false, true, .row 3 3,
      .row 1 0, some .latch, .int32, .int8, 256, 1, fun x z u _ _ => wrapTo .int32 (intOf .int32 u + intOf .int8 x * intOf .int8 z)⟩ = true ∧
    ((forms2 ⟨0, .none, 0, .none⟩ .bf16 false (.scalar 15) .latch (.scalar 0)).take 3).all
      (formMeets (tView .bf16 .int32 .e4m3 0 [])) = true ∧
    ((forms2 ⟨0, .none, 0, .none⟩ .fp32 true (.row 0 3) (.row 1 0) (.row 2 3)).take 2).all (formMeets (tPass .fp32 .int32 .e4m3 31 1984)) = true ∧
    isLong ((forms2 ⟨0, .none, 0, .none⟩ .fp32 true (.row 0 3) (.row 1 0) (.row 2 3)).headD
      ⟨.nop, false, false, false, .latch, .latch, none, .fp32, .fp32, 1, 1, fun _ _ _ _ _ => 0⟩ |>.uses 2048) = true := by decide +kernel

theorem test_hyp_VectorMasksAndViews :
    [(VType.fp32, Opd.row 0 0, Opd.row 1 3, 0, 0), (.int8, .row 0 0, .scalar 15, 3, 0), (.fp16, .latch, .sof 0, 0, 0),
      (.fp32, .row 0 3, .row 1 3, 31, 1984)].all (fun p =>
      let s := if p.2.2.2.2 = 0 then tView p.1 .int32 .e4m3 (BitVec.ofNat 6 p.2.2.2.1) [] else tPass p.1 .int32 .e4m3 (BitVec.ofNat 6 p.2.2.2.1) p.2.2.2.2
      let n := s.cur.countOf p.2.1 (8 * VType.size p.1)
      let us := [srcUse p.2.1 p.1 n, srcUse p.2.2.1 p.1 n]
      (isLong us == (p.2.2.2.2 != 0)) && tReady s true us (passWidth p.1) n && tReady s false us (passWidth p.1) n) = true := by decide +kernel

/-- Where no byte is uncorrectable no element is. -/
theorem t_elemFault {k : Core} (h : k.noBad = true) (o : Opd) (bits : Nat) (js : List Nat) : k.elemFault o bits js = none := by
  simp only [Core.noBad, Bool.and_eq_true, List.isEmpty_iff] at h
  obtain ⟨⟨h1, h2⟩, h3⟩ := h
  unfold Core.elemFault Core.ursBadAt repeatBad
  rw [h1, h2, h3]
  split
  · split <;> rfl
  · rfl
  · rfl
  · rfl

/-- The hypotheses of the statement about a reduction, a permutation and a transposition of n elements of FP32, of the same count. -/
def tRearranges (s : State) (m : Bool) (d a b : Opd) : Bool :=
  let n := s.cur.countOf a 32
  tCanonical s && s.cur.noBad && tUses s [dstUse (.scalar 3) .fp32 1 false, srcUse a .fp32 n] &&
    (s.cur.ursFault m [srcUse a .fp32 n] 0 n).isNone && (n == s.cur.countOf d 32) &&
    tUses s [dstUse d .fp32 n false, srcUse a .fp32 n, srcUse b .int32 n] && (s.cur.ursFault m [srcUse b .int32 n] 0 n).isNone &&
    (n % 32 == 0) && tUses s [dstUse d .fp32 n false, srcUse a .fp32 n]

/-- The hypotheses about VSCL, VQNT and VQNTPB, with a destination of bytes, of blocks of kind kd and of planes. -/
def tScales (s : State) (us : List Use) (a : Opd) (per : Nat) : Bool :=
  let n := s.cur.countOf a 32
  tCanonical s && (s.cur.ursFault false [srcUse a .fp32 n] 0 n).isNone && tUses s (us ++ [srcUse a .fp32 n]) && (n % per == 0)

/-- The hypotheses about VDEQ of kind kd from row 0 of view 3. -/
def tDequantizes (s : State) (m : Bool) (kd : MxKind) (d b : Opd) : Bool :=
  let n := s.cur.countOf d 32
  let us := [dstUse d .fp32 n false, { opd := .row 3 0, type := some .mx, kind := none, bits := mxBits kd, n := n, dest := false, reads := true },
    srcUse b .uint8 (ceilDiv n 32)]
  tCanonical s && decide (kd = s.cur.serir.views[(3 : Fin 8)].kind) && d.isRow && tUses s us &&
    (s.cur.deqFault m kd (.row 3 0) b (turn s (isLong us) 64 n).1 (turn s (isLong us) 64 n).2).isNone &&
    (if isLong us then s.cur.stop.isNone && decide (s.vecDone < n) && s.vecDone % 64 == 0 else s.vecDone == 0 && decide (n ≤ 64))

/-- VRED, VPERM and VTRN of 64 elements and of 2,048; VSCL and VQNT of 256, VQNTPB of 1,024; VDEQ of 64, and the last pass of one of
2,048. -/
theorem test_hyp_VectorReductionsAndShapes :
    [(0 : BitVec 6), 31].all (fun len =>
      let s := tView .fp32 .int32 .e4m3 len []
      tRearranges s true (.row 0 0) (.row 1 0) (.row 3 0) && tRearranges s false (.row 0 0) (.row 1 0) (.row 3 0)) = true ∧
    (let s := tView .fp32 .uint8 .e4m3 15 []
     tScales s [dstUse (.row 3 0) .uint8 (s.cur.countOf (.row 0 0) 32 / 32) false] (.row 1 0) 32 &&
      tScales s [dstUse (.row 3 0) .uint8 (128 * (7 + 1) * (s.cur.countOf (.row 0 0) 32 / 1024)) false] (.row 1 0) 1024) = true ∧
    (let s := tView .fp32 .mx .e4m3 3 []
     tScales s [{ opd := .row 3 0, type := some .mx, kind := some .e4m3, bits := mxBits .e4m3, n := 256, dest := true, reads := false }] (.row 1 0) 32)
      = true ∧
    tDequantizes (tView .fp32 .mx .e5m2 0 []) true .e5m2 (.row 0 0) (.sof 15) = true ∧
    tDequantizes (tPass .fp32 .mx .e2m1 31 1984) false .e2m1 (.row 0 0) (.sof 15) = true := by decide +kernel

/-- Tile 31 of a unit that owns all 32, with view w3 as a row of 4,096 bytes below the tiles. -/
def tTile (t : VType) : State :=
  (tView t .int32 .e4m3 15 []).modCur fun k =>
    { k.modUnit (fun u => { u with tiles := 32 }) with
      tiles := Vector.replicate 32 { Tile.reset 1 with anchor := 0x7F } }

/-- View w0 of FP32 with a deferral queue that is empty, or has one full record of path 3. -/
def tDefer (full : Bool) : State :=
  let q : DeferQueue := { type := .fp32, values := 2, width := 64, head := 0, tail := 1, used := 1, slots := [.full 3, .free] }
  (tView .fp32 .int32 .e4m3 0 []).modCur fun k =>
    { k with serir := { k.serir with queues := if full then k.serir.queues.set 0 (some q) else k.serir.queues } }

/-- What the statement asks of a turn of 512 words of VLD and VST, at the highest offset. -/
def tMoves (s : State) (m : Bool) (d : Opd) : Bool :=
  let n := s.cur.ldBytes d / 4
  let off : BitVec 22 := BitVec.ofNat 22 (2 ^ 22 - 4 * n)
  tCanonical s && decide (off.toNat + 4 * n ≤ 2 ^ 22) && [true, false].all fun w =>
    let long := isLong [ldUse d n w]
    let t := turn s long 512 n
    tUses s [ldUse d n w] && (s.cur.ldFault m off.toNat t.1 t.2).isNone && (s.cur.ursFault m [ldUse d n w] t.1 t.2).isNone &&
      (if long then s.cur.stop.isNone && decide (s.vecDone < n) else s.vecDone == 0)

/-- What it asks of a step of 2,048 bytes of VGATH and VSCAT, by an index of zeros. -/
def tGathers (s : State) (m : Bool) (t : VType) (d a : Opd) : Bool :=
  let n := s.cur.countOf d (8 * VType.size t)
  let x := turn s true (2048 / VType.size t) n
  tCanonical s && s.cur.stop.isNone && decide (s.vecDone < n) && (s.cur.serir.z[(4 : Fin 16)] == 0) &&
    ((List.range (x.2 - x.1)).all fun i => elem s.cur a 4 (x.1 + i) == 0) && tUses s [dstUse d t n false, srcUse a .int32 n] &&
    tUses s [srcUse d t n, srcUse a .int32 n] && (s.cur.ursFault m [srcUse a .int32 n] x.1 x.2).isNone &&
    (s.cur.ursFault m [srcUse d t n, srcUse a .int32 n] x.1 x.2).isNone && (s.cur.spadFault 0 (VType.size t)).isNone

/-- VLD, VST, VGATH and VSCAT on rows of 256 bytes, and the last turn on rows of 8,192. -/
theorem test_hyp_VectorMovesAndDeferral :
    [true, false].all (fun m =>
      tMoves (tView .fp32 .int32 .e4m3 0 []) m (.row 0 3) && tMoves (tPass .fp32 .int32 .e4m3 31 1536) m (.row 0 3) &&
      tGathers (tView .fp32 .int32 .e4m3 0 []) m .fp32 (.row 0 0) (.row 3 0) &&
      tGathers (tPass .fp32 .int32 .e4m3 31 1536) m .fp32 (.row 0 0) (.row 3 0)) = true := by decide +kernel

/-- VACC and VACW on tile 31. -/
theorem test_hyp_VectorMovesAndDeferral_tiles :
    let s := tTile .fp32
    (s.cur.tileFault 31 = none ∧ s.cur.tiles[(31 : Fin 32)].present = true ∧ s.cur.tiles[(31 : Fin 32)].busy = false ∧
      tUses s [dstUse (.row 0 3) .fp32 1024 false] = true ∧ s.cur.invalidFault [tileRange 31] = none ∧ s.cur.noBad = true ∧
      s.cur.ursBad = [] ∧ tUses s [srcUse (.row 1 3) .fp32 1024] = true ∧
      s.cur.ursFault true [srcUse (.row 1 3) .fp32 1024] 0 1024 = none) ∧ canonical s.cur ∧ s.vecDone = 0 := by
  unfold canonical; decide +kernel

/-- A unit without tiles declares none that a queue's row could cover. -/
theorem t_queueCover {k : Core} (h : k.tileCount = 0) (q : Fin 8) (rows : List Nat) : k.queueCover q rows = none := by
  unfold Core.queueCover Core.coversTile
  rw [h, List.findSome?_eq_none_iff]
  intro r _
  simp

/-- VDEFER of elements es of row 0 of view 1 to path 3 of queue 0, and VDRAIN of a full record. -/
theorem test_hyp_VectorMovesAndDeferral_queues :
    (let s := tDefer false
     s.cur.serir.views[(0 : Fin 8)].set = true ∧ s.cur.serir.views[(0 : Fin 8)].type = .fp32 ∧ s.cur.tileCount = 0 ∧ s.cur.noBad = true ∧
      (s.cur.serir.views[(0 : Fin 8)].len.toNat + 1) * 256 / 4 = 64 ∧ (s.cur.serir.views[(0 : Fin 8)].count.toNat + 1) / 2 = 2 ∧
      s.cur.countOf (.row 1 0) 32 = 64 ∧ (Opd.row 1 0).level ≤ 1 ∧ s.cur.liveCover (.row 1 0) 2 = none ∧
      ((List.range 64).filter fun i => s.cur.active true i).length = 32 ∧ ceilDiv 32 64 ≤ 2 ∧ s.cur.serir.queues[(0 : Fin 8)] = none ∧
      s.cur.liveFault (.row 1 0) 2 64 .fp32 false = none ∧ s.cur.invalidFault (s.cur.liveRanges (.row 1 0) 2 4 64) = none ∧
      (∀ r, r < 2 → s.cur.liveBad (.row 1 0) r 4 ((List.range 64).filter fun i => s.cur.active true i) = none)) ∧
    (let s := tDefer true
     let e : DeferQueue := { type := .fp32, values := 2, width := 64, head := 0, tail := 1, used := 1, slots := [.full 3, .free] }
     s.cur.serir.queues[(0 : Fin 8)] = some e ∧ s.cur.tileCount = 0 ∧ e.need 3 32 ≤ e.slots.length - e.used ∧ s.vecDone = 0 ∧
      s.cur.liveFault (.row 1 0) 2 64 .fp32 true = none ∧ e.pick 3 false = some (0, 64) ∧ e.pick 2 true = none ∧
      (let rs := (List.range 2).map fun r => (s.cur.queueRow 0 r, 64 * VType.size .fp32)
       s.cur.invalidFault rs = none ∧ s.cur.badRange rs = none)) ∧ canonical (tDefer true).cur := by
  unfold canonical; decide +kernel

/-! ## States that meet the hypotheses of the statements: Erg -/

/-- A unit that owns all 32 tiles, every tile present with anchor 0x90 and a slot address, P_A = 3 and P_B = 2, arrays 0 and 15 loaded,
planes and scratchpad blocks that hold bytes, every row valid. -/
def tErg : State :=
  (tView .fp32 .int32 .e4m3 0 [0, 0, 0x80, 0x3F]).modCur fun k =>
    { k.modUnit (fun u => { u with tiles := 32 }) with
      tiles := Vector.replicate 32 { Tile.reset 1 with anchor := 0x90, spilla := 0x90000 },
      erg := { k.erg with pa := 2, pb := 1, loaded := 0x8001, planes := putBytes (putBytes [] 0 [1, 2, 3, 4]) 2048 [127, 128] } }

/-- The running states of the statements about nests and tokens. -/
def tErgRun (x : Prog) (w : W64) : State :=
  tErg.modCur fun k => k.modEng .m fun e => { e with phase := .running x, head := some ⟨w, none⟩ }

theorem test_hyp_BlockProductExact :
    accQ 0 ≠ accMax ∧ accQ 0 ≠ -accMax ∧ accQ (accWord false accMax) = accMax ∧ accQ (accWord false (-accMax)) = -accMax ∧
    (1 : Int) ≠ accMax ∧ (1 : Int) ≠ -accMax := by decide +kernel

theorem test_hyp_ErgLoadsBlocks :
    [(0, 0, 0), (1, 14, 0x3FFC00), (15, 0, 0x3FFE00)].all (fun p =>
      decide (Memory.wf tErg.cur.erg.planes = true ∧ p.1 + p.2.1 < 16 ∧
        (0x1000 : BitVec 22).toNat + 128 * (tErg.cur.erg.pa.val + 2) * (p.2.1 + 1) ≤ 2 ^ 22 ∧
        tErg.cur.spadFault (0x1000 : BitVec 22).toNat (128 * (tErg.cur.erg.pa.val + 2) * (p.2.1 + 1)) = none)) = true ∧
    (0x3FFE00 : BitVec 22).toNat + 128 * (tErg.cur.erg.pa.val + 2) * 1 ≤ 2 ^ 22 ∧
    2 ^ 22 < (0x3FFE01 : BitVec 22).toNat + 128 * (tErg.cur.erg.pa.val + 2) * 1 := by decide +kernel

/-- A nest (R192) of two by one by one ... steps of two arrays from tile t, which posts event 7 at the end of level 0 and clears at its
start. -/
def tNest (t : Nat) : List Byte :=
  leBytes 4 0x4000 ++ leBytes 4 0x4200 ++ [BitVec.ofNat 8 t, 2, 0x87] ++ List.replicate 53 0
    ++ (leBytes 4 2 ++ leBytes 4 0x400 ++ leBytes 4 0 ++ [0, 3] ++ List.replicate 18 0)
    ++ (List.replicate 5 (leBytes 4 1 ++ List.replicate 28 0)).flatten

/-- tErg with a nest at 0x5000 of its scratchpad, event 7 declared for stream M. -/
def tNested (bs : List Byte) : State :=
  tErg.modCur fun k => { k.modUnit (fun u => { u with smask := Vector.replicate 6 (BitVec.allOnes 64) }) with spad := putBytes k.spad 0x5000 bs }

theorem test_hyp_ErgLoadsBlocks_nest :
    [0, 30].all (fun t =>
      decide ((tNested (tNest t)).cur.spadFault (0x5000 : BitVec 22).toNat 256 = none ∧
        (tNested (tNest t)).cur.nestFault (getBytes (tNested (tNest t)).cur.spad (0x5000 : BitVec 22).toNat 256) = none)) = true := by
  decide +kernel

theorem test_hyp_ErgStepsTiles :
    (let ns := tErg.cur.loadedArrays.map fun r => 16 + r
     canonical tErg.cur ∧ ns = [16, 31] ∧ tErg.cur.tileFaults ns = none ∧ tErg.cur.anyAbsent ns = false ∧
      tErg.cur.stepFault ns false 0x4000 = none ∧ tErg.cur.stepFault ns true 0x4000 = none ∧
      (0x3FFE80 : BitVec 22).toNat + blockSize tErg.cur.declared.2 = 2 ^ 22) ∧
    [(0, 31), (31, 0)].all (fun p =>
      let ns := (List.range (p.2 + 1)).map fun i => p.1 + i
      (ns.all fun n => decide (n < 32)) && decide (tErg.cur.tileFaults ns = none ∧ tErg.cur.anyAbsent ns = false ∧
        tErg.cur.tileReadFault ns = none)) = true := by unfold canonical; decide +kernel

/-- A nest in progress at an index, its descriptor active and block A at LA. -/
def tSteps (t : Nat) (idx : List Nat) (la : Option (BitVec 22)) : State :=
  (tErgRun (.nest idx 0 false) 0).modCur fun k => { k with erg := { k.erg with active := ⟨tNest t, true⟩, la := la.getD 0, laValid := la.isSome } }

theorem test_hyp_ErgNestsStep :
    [(0, [0, 0, 0, 0, 0, 0], none), (30, [1, 0, 0, 0, 0, 0], none), (30, [1, 0, 0, 0, 0, 0], some (0x4400 : BitVec 22))].all (fun p =>
      let s := tSteps p.1 p.2.1 p.2.2
      let n := parseNest (tNest p.1)
      let ns := (List.range n.na).map fun i => p.1 + i
      let a := 0x4000 + 0x400 * p.2.1.headD 0
      decide (s.cur.mEng.phase = .running (.nest p.2.1 0 false) ∧ s.cur.erg.active = ⟨tNest p.1, true⟩ ∧ s.cur.stop = none ∧
        Memory.wf s.cur.erg.planes = true ∧ nestOver (n.levels.map (·.count)) p.2.1 = false ∧ n.na ≤ 16 ∧
        (a : Int) = n.at_ n.abase (·.astr) p.2.1 ∧ (0x4200 : Int) = n.at_ n.bbase (·.bstr) p.2.1 ∧
        (p.1 : Int) = n.at_ n.tbase (·.tstr) p.2.1) &&
      decide (p.1 + n.na ≤ s.cur.tileCount ∧ s.cur.tileCount ≤ 32 ∧ a + blockSize s.cur.declared.1 * n.na ≤ 2 ^ 22 ∧
        0x4200 + blockSize s.cur.declared.2 ≤ 2 ^ 22 ∧ s.cur.tileFaults ns = none ∧ s.cur.anyAbsent ns = false ∧
        s.cur.erg.nestA = p.2.2 ∧ s.cur.spadFault a (blockSize s.cur.declared.1 * n.na) = none ∧ s.cur.stepFault ns (n.clears p.2.1) 0x4200 = none ∧
        n.ev = some 7 ∧ n.posts p.2.1 = decide (p.2.1.headD 0 = 1)) &&
      decide (s.waitsOf s.core 7 = [] ∧ (s.semCount s.core 7).toNat < 65535)) = true ∧
    canonical (tSteps 30 [1, 0, 0, 0, 0, 0] none).cur ∧ tErg.cur.stop = none := by unfold canonical; decide +kernel

/-- Tile 31 pinned with key k and its slot at 0x90000; or not pinned, with DIRTY d. -/
def tPin (pinned : Bool) (k : BitVec 16) : State :=
  tErg.modCur fun c => c.modTile 31 fun t => { t with pinned := pinned, key := if pinned then k else 0, owner := 1, spilla := 0x90000 }

theorem test_hyp_ErgPinsSpillsFills :
    (let s := tPin true 5
     s.cur.tileFaults [31] = none ∧ s.cur.anyAbsent [31] = false ∧ s.cur.tileReadFault [31] = none ∧
      (eachOk (fun t x => t.pin x 5) [31] (s.irreversible s.core)).isSome = true ∧
      (eachOk State.unpinTile [31] (s.irreversible s.core)).isSome = true ∧
      s.cur.tiles[(31 : Fin 32)].pinned = true ∧ s.cur.tiles[(31 : Fin 32)].key = 5 ∧
      (gives (s.slotWrite false s.cur.tiles[(31 : Fin 32)].owner.toNat s.cur.tiles[(31 : Fin 32)].spilla [0, 0])).isSome = true) ∧
    (let s := tPin false 0
     s.cur.tiles[(31 : Fin 32)].pinned = false ∧ (s.ctx s.myCtx).map (·.pinbase) = some 0x80000 ∧
      gives (s.readSlot s.myCtx (pinSlot 0x80000 3 31) 31 (some 3)) = some none ∧
      (eachOk (fun t x => t.pin x 3) [31] (s.irreversible s.core)).isSome = true ∧
      (eachOk State.unpinTile [31] (s.irreversible s.core)).isSome = true) := by decide +kernel

/-- A spill of tile 31 goes to its slot. -/
theorem test_hyp_ErgPinsSpillsFills_spill :
    (let s := tPin true 5
     (gives ((s.modCur fun k => k.modTile 31 fun x => { x with spilla := 0x90000 }).slotWrite false 1 0x90000
        (s.cur.slotBytes 31 true s.cur.mEng.seqno))).isSome = true ∧
      (eachOk (State.spillTile true) [31] (s.irreversible s.core)).isSome = true) := by decide +kernel

/-- tPin with a valid slot in the fallback format in memory: tile 31, owner 1, key 5, elements of zero (R198). -/
def tSlot : State :=
  { tPin true 5 with
    mem := putBytes tErg.mem 0x90000 ([2, 0, 31, 0x90, 4, 0, 1, 0, 5, 0] ++ List.replicate 50 0 ++ leBytes 4 0x7D536161) }

/-- The same with tile 31 absent. -/
def tGone : State := tSlot.modCur fun k => k.modTile 31 fun x => { x with present := false }

/-- CRC-32C with each value worked out before the next byte. -/
def crcForce : List Byte → Nat → Nat
  | [], c => c
  | b :: r, 0 => crcForce r (crcByte 0 b).toNat
  | b :: r, c + 1 => crcForce r (crcByte (BitVec.ofNat 32 (c + 1)) b).toNat

/-- It is the model's CRC-32C. -/
theorem crcForce_eq (bs : List Byte) (c : Nat) (h : c < 2 ^ 32) : BitVec.ofNat 32 (crcForce bs c) = bs.foldl crcByte (BitVec.ofNat 32 c) := by
  induction bs generalizing c with
  | nil => rfl
  | cons b r ih =>
    cases c with
    | zero => simp only [crcForce, List.foldl_cons]; rw [ih _ (BitVec.isLt _), BitVec.ofNat_toNat, BitVec.setWidth_eq]; rfl
    | succ n => simp only [crcForce, List.foldl_cons]; rw [ih _ (BitVec.isLt _), BitVec.ofNat_toNat, BitVec.setWidth_eq]

/-- What a check finds of a value is of a value that it answers. -/
theorem of_gives {ε α β : Type} {r : Except ε α} {f : α → β} {v : β} (h : (gives r).map f = some v) : ∃ w, r = .ok w ∧ f w = v := by
  cases r with
  | ok w => exact ⟨w, rfl, Option.some.inj h⟩
  | error _ => cases h

/-- What the device reads does not rest on the tiles. -/
theorem devRead_modTile (s : State) (c : CoreId) (n : Fin 32) (f : Tile → Tile) :
    (s.modCore c fun k => k.modTile n f).devRead = s.devRead := by
  have h (p : Piece) : (s.modCore c fun k => k.modTile n f).readPiece 0 p = s.readPiece 0 p := by
    by_cases e : 0 = c
    · subst e; unfold State.readPiece; rw [State.coreAt_modCore_self]; rfl
    · unfold State.readPiece; rw [State.coreAt_modCore_ne _ _ (fun x => e x.symm)]; rfl
  have h (ps : List Piece) : (s.modCore c fun k => k.modTile n f).readPieces 0 ps = s.readPieces 0 ps := by
    induction ps with
    | nil => rfl
    | cons p r ih => unfold State.readPieces; rw [h, ih]
  have g (own : Bool) (ctx : Nat) (need : Perm) (l : List (A80 × Nat)) :
      (s.modCore c fun k => k.modTile n f).piecesAs own ctx need l = s.piecesAs own ctx need l := by
    induction l with
    | nil => rfl
    | cons p r ih =>
      obtain ⟨va, m⟩ := p
      unfold State.piecesAs
      rw [ih]
      rfl
  funext ctx va m
  unfold State.devRead State.memPieces State.memPiecesAs
  simp only [h, g]

/-- Where the device may not read a slot does not rest on the tiles. -/
theorem slotBar_modTile (s : State) (c : CoreId) (n : Fin 32) (f : Tile → Tile) :
    (s.modCore c fun k => k.modTile n f).slotBar = s.slotBar := rfl

/-- The slot reads as valid. -/
theorem tSlot_read : ∃ i, tSlot.readSlot 1 0x90000 31 (some 5) = .ok (some i) ∧ i.fallback = true ∧ i.image.length = 4096 := by
  obtain ⟨h, e, he⟩ := of_gives (f := id) (show (gives (tSlot.slotRead 1 0x90000 64)).map id =
    some ([2, 0, 31, 0x90, 4, 0, 1, 0, 5, 0] ++ List.replicate 50 0 ++ leBytes 4 0x7D536161) by decide +kernel)
  obtain ⟨img, d, hd⟩ := of_gives (f := fun b => (b.length, crcForce b 0x0723B7F9))
    (show (gives (tSlot.devRead 1 0x90080 4096)).map _ = some (4096, 0x82AC9E9E) by decide +kernel)
  obtain ⟨hl, hc⟩ := Prod.mk.injEq .. ▸ hd
  have crc : crc32c ([2, 0, 31, 0x90, 4, 0, 1, 0, 5, 0] ++ List.replicate 50 0 ++ img) = 0x7D536161 := by
    rw [crc32c, List.foldl_append, show ([2, 0, 31, 0x90, 4, 0, 1, 0, 5, 0] ++ List.replicate 50 0 : List Byte).foldl crcByte 0xFFFFFFFF#32 =
      BitVec.ofNat 32 0x0723B7F9 by decide +kernel, ← crcForce_eq _ _ (by decide), hc]
    rfl
  refine ⟨⟨true, BitVec.ofNat 8 0x90, false, false, img⟩, ?_, rfl, hl⟩
  subst he
  unfold State.readSlot
  rw [e]
  simp only
  rw [if_neg (by decide +kernel), show (fieldNat ([2, 0, 31, 0x90, 4, 0, 1, 0, 5, 0] ++ List.replicate 50 0 ++ leBytes 4 0x7D536161) 0 2 == 2)
    = true by decide +kernel]
  simp only [if_true]
  rw [show (0x90000 : A80) + 128 = 0x90080 by decide, d]
  simp only
  rw [show ([2, 0, 31, 0x90, 4, 0, 1, 0, 5, 0] ++ List.replicate 50 0 ++ leBytes 4 0x7D536161 : List Byte).take 60 =
    [2, 0, 31, 0x90, 4, 0, 1, 0, 5, 0] ++ List.replicate 50 0 by decide +kernel, crc, if_pos (by decide +kernel)]
  rfl

/-- A slot that reads as valid is what the tile's fields name. -/
theorem fill_of_read (s : State) (n : Fin 32) (i : SlotImage)
    (h : s.readSlot s.cur.tiles[n].owner.toNat s.cur.tiles[n].spilla n.val
      (if s.cur.tiles[n].pinned then some s.cur.tiles[n].key else none) = .ok (some i)) :
    s.refill n = .ok (s.modCur (fun k => k.fillTile n i), if i.fallback then 4224 else 8320) ∧
    s.fillSlot s.core n = .ok (s.modCore s.core fun k => k.fillTile n i) := by
  refine ⟨?_, ?_⟩
  · unfold State.refill
    simp only
    rw [show s.readSlot (s.cur.tileAt n).owner.toNat (s.cur.tileAt n).spilla n.val
      (if (s.cur.tileAt n).pinned then some (s.cur.tileAt n).key else none) = .ok (some i) from h]
  · unfold State.fillSlot
    simp only
    rw [show s.readSlot (s.coreAt s.core).tiles[n].owner.toNat (s.coreAt s.core).tiles[n].spilla n.val
      (if (s.coreAt s.core).tiles[n].pinned then some (s.coreAt s.core).tiles[n].key else none) = .ok (some i) from h]

/-- A command over one tile that does not fail. -/
theorem eachOk_one {f : State → Fin 32 → Except EFault (State × Nat)} {s : State} {n : Nat} {p : State × Nat} (h : f s (Fin.ofNat 32 n) = .ok p) :
    (eachOk f [n] s).isSome = true := by
  unfold eachOk
  rw [h]
  rfl

/-- The fields of tile 31. -/
theorem tGone_tile (s : State) (h : s = tSlot ∨ s = tGone) : s.cur.tiles[(31 : Fin 32)].owner.toNat = 1 ∧
    s.cur.tiles[(31 : Fin 32)].spilla = 0x90000 ∧
    (if s.cur.tiles[(31 : Fin 32)].pinned then some s.cur.tiles[(31 : Fin 32)].key else none) = some 5 := by
  rcases h with rfl | rfl <;> decide +kernel

/-- MFILL of tile 31, and TILE_FILL of it where it is absent. -/
theorem test_hyp_ErgPinsSpillsFills_fill :
    (eachOk State.refill [31] tSlot).isSome = true ∧ (gives (tGone.fillSlot tGone.core 31)).isSome = true ∧
    tSlot.cur.tileFaults [31] = none ∧ tSlot.cur.anyAbsent [31] = false ∧ Memory.wf tSlot.cur.urs = true ∧ tGone.cur.unit.isSome = true ∧
    tGone.cur.stop = none ∧ tGone.cur.tiles[(31 : Fin 32)].present = false := by
  obtain ⟨i, h, _⟩ := tSlot_read
  have e : tGone.readSlot = tSlot.readSlot := by
    funext a b c d
    unfold State.readSlot State.slotRead
    rw [show tGone.devRead = tSlot.devRead from devRead_modTile .., show tGone.slotBar = tSlot.slotBar from slotBar_modTile ..]
  refine ⟨?_, ?_, by decide +kernel⟩
  · obtain ⟨a, b, c⟩ := tGone_tile tSlot (.inl rfl)
    exact eachOk_one (fill_of_read tSlot 31 i (by rw [a, b, c]; exact h)).1
  · obtain ⟨a, b, c⟩ := tGone_tile tGone (.inr rfl)
    rw [(fill_of_read tGone 31 i (by rw [a, b, c, e]; exact h)).2]
    simp only [gives, Option.isSome_some]

/-- A token descriptor (R207): rows of 128 values at 0x4000 on, OUT. -/
def tToken : List Byte :=
  ([0x4000, 0x200, 0x5000, 0x200, 0x6000, 0x200, 0x7000, 0x200, 0x8000, 0x8100].map (leBytes 4)).flatten ++ [1] ++ List.replicate 23 0

theorem test_hyp_ErgDeltaRule :
    [(16, 3, 63), (31, 0, 0)].all (fun p =>
      let w := encodeCmd (.mdelta ⟨0, .none, 0, .none⟩ (Fin.ofNat 32 p.1) (Fin.ofNat 4 p.2.1) (Fin.ofNat 64 p.2.2) 0x5000)
      let w0 : View := { set := true, type := .fp32, kind := .e4m3, base := 64, len := 1, count := 3 }
      let s := (tErgRun (.tokens p.2.2) (BitVec.ofNat 64 w)).modCur fun k =>
        { k with
          spad := putBytes k.spad 0x5000 tToken,
          serir := { k.serir with views := (k.serir.views.set 0 w0).set 1 { w0 with base := 192 } } }
      let dim := 32 * (p.2.1 + 1)
      let ns := (List.range ((p.2.1 + 1) * (p.2.1 + 1))).map fun i => p.1 + i
      decide (s.cur.noBad = true ∧ s.cur.stop = none ∧ s.cur.tileFaults ns = none ∧ s.cur.anyAbsent ns = false ∧
        s.cur.spadFault (0x5000 : BitVec 22).toNat 64 = none ∧ s.cur.tokenFault (getBytes s.cur.spad 0x5000 64) dim (p.2.2 + 1) = none ∧
        s.cur.tokenInvalid (parseToken tToken) dim (p.2.2 + 1) 0 ns = none ∧
        s.cur.tokenInvalid (parseToken tToken) dim (p.2.2 + 1) p.2.2 ns = none) &&
      decide (s.cur.useFault .m [dstUse (.row 0 3) .fp32 dim false, srcUse (.row 1 3) .fp32 dim] = none ∧
        s.cur.coverFault [dstUse (.row 0 3) .fp32 dim false, srcUse (.row 1 3) .fp32 dim] = none ∧
        s.cur.invalidFault (ns.map tileRange ++ ([dstUse (.row 0 3) .fp32 dim false, srcUse (.row 1 3) .fp32 dim].map s.cur.readRange).flatten) = none) &&
      readCmd .m w == some (.mdelta ⟨0, .none, 0, .none⟩ (Fin.ofNat 32 p.1) (Fin.ofNat 4 p.2.1) (Fin.ofNat 64 p.2.2) 0x5000)) = true := by
  decide +kernel

/-! ## States that meet the hypotheses of the statements: Wadi -/

/-- A state whose core 0 reads a descriptor at 0x5000 of its scratchpad, for stream e. -/
def tWadi (e : Eng) (desc : List Byte) : State :=
  let s := t3.modCur fun k => { k with spad := putBytes (putBytes [] 0x3000 [1, 2, 3, 4, 5, 6, 7, 8]) 0x5000 desc }
  { s with stream := .eng e, mem := putBytes s.mem 0x110000 [0x11, 0x22, 0x33, 0x44, 0x55, 0x66, 0x77, 0x88] }

/-- What localMove asks, but for what holds of every core and die. -/
def moveMeets (s : State) (srcs dsts : List Run) (reads : Bool) (sources : Nat) : Bool :=
  let a := s.checkRuns s.core false true srcs
  let b := s.checkRuns s.core true reads dsts
  a.2.isNone && b.2.isNone && !anyRemote a.1.flatten && !anyRemote b.1.flatten &&
    decide (b.1.flatten.Pairwise fun p q => p.meets q = false) && !overlaps (a.1.take sources).flatten b.1.flatten &&
    (s.cur.eng s.copyEng).chunks.isEmpty && !(s.cur.eng s.copyEng).lag && (s.cur.eng s.copyEng).tmpl.isEmpty && s.far.isEmpty && Memory.wf s.mem &&
    a.1.flatten.all fun p => p.place != .phys || !s.twoSets (s.tenOf 10 (s.ctxOf s.core) p.va.toNat) p.addr p.len

/-- Every scratchpad of such a state has the canonical form. -/
theorem tWadi_spad (e : Eng) (desc : List Byte) (c : CoreId) : Memory.wf ((tWadi e desc).coreAt c).spad = true := by
  by_cases h : c = 0
  · subst h
    have : ((tWadi e desc).coreAt 0).spad = putBytes (putBytes [] 0x3000 [1, 2, 3, 4, 5, 6, 7, 8]) 0x5000 desc :=
      congrArg Core.spad (State.coreAt_modCore_self t3 0 fun k =>
        { k with spad := putBytes (putBytes [] 0x3000 [1, 2, 3, 4, 5, 6, 7, 8]) 0x5000 desc })
    rw [this]
    exact Memory.wf_putBytes _ _ (Memory.wf_putBytes _ _ rfl)
  · have : (tWadi e desc).coreAt c = t3.coreAt c := State.coreAt_modCore_ne t3 (fun k =>
      { k with spad := putBytes (putBytes [] 0x3000 [1, 2, 3, 4, 5, 6, 7, 8]) 0x5000 desc }) (Ne.symm h)
    rw [this, t3_others c h]
    rfl

/-- No watchpoint is armed in such a state. -/
theorem tWadi_watch (e : Eng) (desc : List Byte) (d : DieId) : ((tWadi e desc).die d).watch = [] := by
  show (t3.die d).watch = []
  revert d
  decide +kernel

/-- Nothing is under way in such a state that was translated through a table entry. -/
theorem tWadi_none (e : Eng) (desc : List Byte) : noneInFlight (tWadi e desc) :=
  modCur_none t3_none rfl (fun k => { k with spad := putBytes (putBytes [] 0x3000 [1, 2, 3, 4, 5, 6, 7, 8]) 0x5000 desc })
    (fun _ q => by cases q <;> rfl) (fun _ d => by cases d <;> rfl)

theorem tWadi_untouched (e : Eng) (desc : List Byte) (rs : List (Nat × Nat)) : untouched (tWadi e desc) rs := untouched_none (tWadi_none e desc) rs

/-- Where nothing that another node wrote is unseen, every byte of one set has one value. -/
theorem oneValue_near {s : State} (h : s.far = []) {ten pa n : Nat} (w : s.twoSets ten pa n = false) : oneValue s none ten pa n :=
  ⟨w, fun i _ => by unfold State.farByte; rw [h]; rfl⟩

/-- A copy descriptor (R216): n by m runs of l bytes from src to dst, with strides. -/
def tCopyDesc (src dst : Nat) (l n m : Nat) (ss1 ds1 ss2 ds2 : Int) : List Byte :=
  leBytes 10 src ++ [0, 0] ++ leBytes 3 l ++ [0] ++ leBytes 10 dst ++ [0, 0] ++ leBytes 2 n ++ leBytes 2 m
    ++ ([ss1, ds1, ss2, ds2].map fun x => leBytes 8 (BitVec.ofInt 64 x).toNat).flatten

/-- CCOPY of two by two runs from memory to the scratchpad, CRED back over a negative stride, CFILL of the last bytes of the scratchpad;
and a descriptor of no byte. -/
theorem test_hyp_CopyTransfersMove :
    [(Eng.c0, CopyKind.copy, tCopyDesc 0x110000 (2 ^ 80 - 2 ^ 22 + 0x8000) 4 2 2 4 8 0 64, true),
     (.c1, .reduce .add .bf16, tCopyDesc (2 ^ 80 - 2 ^ 22 + 0x3000) 0x110004 4 2 1 4 (-4) 0 0, true),
     (.c0, .fill (leBytes 8 (2 ^ 64 - 16)), tCopyDesc (2 ^ 64 - 16) (2 ^ 80 - 16) 16 1 1 0 0 0 0, true),
     (.c0, .copy, tCopyDesc 0x110000 0x120000 0 1 1 0 0 0 0, false)].all (fun p =>
      let s := tWadi p.1 p.2.2.1
      let d := parseCopy p.2.2.1 p.2.1
      decide (s.copyEng = p.1 ∧ s.cur.spadFault (0x5000 : BitVec 22).toNat 64 = none ∧ p.2.2.1 = getBytes s.cur.spad 0x5000 64) &&
      (if p.2.2.2 then
        decide (s.cur.copyFault s.copyEng (copyReserved p.2.2.1) d 65536 = none) && moveMeets s (d.srcRuns 0 d.size) (d.dstRuns 0 d.size) d.red.isSome 64
      else decide (s.cur.copyFault s.copyEng (copyReserved p.2.2.1) d 65536 = some (s.cur.badCmd .c0 2)))) = true := by decide +kernel

/-- A state whose stream C0 is in chain mode at 0x110000, where the word w stands. -/
def tChain (w : Nat) : State :=
  let s := t3.modCur fun k => k.modEng .c0 fun e => { e with chainPc := some 0x110000, head := none, phase := .idle }
  { s with stream := .eng .c0, mem := putBytes s.mem 0x110000 (leBytes 8 w) }

theorem test_hyp_CopyStreamsChain :
    [tCopyDesc 0x110000 0 8 2 1 0x1000 0 0 0, tCopyDesc (2 ^ 80 - 2 ^ 22) 0 64 1 1 0 0 0 0].all (fun bs =>
      let s := tWadi .c1 bs
      let d := parseCopy bs .copy
      decide (s.cur.spadFault (0x5000 : BitVec 22).toNat 64 = none ∧ bs = getBytes s.cur.spad 0x5000 64 ∧
        s.cur.copyFault s.copyEng (copyReserved bs && sourceOnly bs) d 16777216 = none) &&
      (d.srcRuns 0 d.size).all fun r => (s.runParts s.core r).2.isNone) = true ∧
    [0, 1].all (fun m =>
      let bs := leBytes 10 0x110000 ++ [BitVec.ofNat 8 m] ++ List.replicate 53 0
      decide (fieldNat bs 10 1 < 2) && ((List.range 53).all fun j => fieldNat bs (11 + j) 1 == 0) && decide (fieldNat bs 0 10 % 8 = 0)) = true ∧
    [encodeCmd (.ccopy ⟨48, .peek, 2, .add⟩ 0x3040), encodeCmd (.ccopy ⟨0, .none, 0, .none⟩ 0x3040),
      encodeCmd (.cjump ⟨49, .zero, 0, .none⟩ 0x3040)].all (fun w =>
      let s := tChain w
      let ps := (s.checkRuns s.core false true [{ start := 0x110000, off := 0, n := 8, pos := 0, fab := false, need := 1 }]).1
      decide (s.copyEng = .c0 ∧ (s.cur.eng .c0).phase = .idle ∧ (s.cur.eng .c0).head = none ∧ (s.cur.eng .c0).chainPc = some 0x110000 ∧
        s.cur.unit.isSome = true ∧ s.cur.stop = none ∧
        (s.checkRuns s.core false true [{ start := 0x110000, off := 0, n := 8, pos := 0, fab := false, need := 1 }]).2 = none) &&
      decide (w = leNat (bytesOf s ps) ∧ (readCmd .c0 w).isSome = true ∧ s.waitsOf s.core (syncOf w).wsem = []) &&
      decide (((syncOf w).wmode = .none ∨ (s.cur.unit.map fun u => declares u.wmask (streamIndex (.eng .c0)) (syncOf w).wsem) = some true) ∧
        ((syncOf w).sop = .none ∨ (s.cur.unit.map fun u => declares u.smask (streamIndex (.eng .c0)) (syncOf w).ssem) = some true))) = true := by
  decide +kernel

/-- A copy nest (R223) of kind k: two copies at level 0, one at the others, event 9 at the end of level 0. -/
def tCopyNest (k : Nat) : List Byte :=
  [BitVec.ofNat 8 k, 0x89] ++ List.replicate 62 0
    ++ (leBytes 4 2 ++ leBytes 8 8192 ++ leBytes 8 8192 ++ [1] ++ List.replicate 11 0)
    ++ (List.replicate 5 (leBytes 4 1 ++ List.replicate 28 0)).flatten

/-- A copy nest as descriptor, as shadow set, and as active set at an index and chunk. -/
def tCopyNested (k : Nat) (desc : List Byte) (idx : List Nat) (j : Nat) : State :=
  (tWadi .c0 desc).modCur fun c =>
    { c.modUnit (fun u => { u with smask := Vector.replicate 6 (BitVec.allOnes 64) }) with
      nest0 := { active := ⟨tCopyNest k, true⟩, shadow := ⟨tCopyNest k, true⟩ },
      c0Eng := { c.c0Eng with phase := .running (.nest idx j false), head := some ⟨0x5000, none⟩ } }

/-- Nor in the states of a nest. -/
theorem tCopyNested_untouched (k : Nat) (desc : List Byte) (idx : List Nat) (j : Nat) (rs : List (Nat × Nat)) :
    untouched (tCopyNested k desc idx j) rs :=
  untouched_none (modCur_none (s := tWadi .c0 desc) (tWadi_none .c0 desc) rfl
    (fun c => { c.modUnit (fun u => { u with smask := Vector.replicate 6 (BitVec.allOnes 64) }) with
      nest0 := { active := ⟨tCopyNest k, true⟩, shadow := ⟨tCopyNest k, true⟩ },
      c0Eng := { c.c0Eng with phase := .running (.nest idx j false), head := some ⟨0x5000, none⟩ } })
    (fun _ q => by cases q <;> rfl) fun _ d => by cases d <;> rfl) rs

theorem test_hyp_CopyNestsChunk :
    [0, 0x20, 2].all (fun k =>
      let s := tWadi .c0 (tCopyNest k)
      let t := s.modCur fun c => c.modUnit fun u => { u with smask := Vector.replicate 6 (BitVec.allOnes 64) }
      decide (s.cur.spadFault (0x5000 : BitVec 22).toNat 256 = none ∧ t.cur.copyNestFault .c0 (getBytes t.cur.spad 0x5000 256) = none ∧
        s.cur.stop = none ∧ s.cur.refetching .c0 = false)) = true ∧
    [(0, [0, 0, 0, 0, 0, 0], 0), (0, [1, 0, 0, 0, 0, 0], 1), (0x20, [1, 0, 0, 0, 0, 0], 1), (2, [1, 0, 0, 0, 0, 0], 1)].all (fun p =>
      let desc := tCopyDesc (if p.1 = 2 then 0 else 0x110000) (2 ^ 80 - 2 ^ 22 + 0x8000) 5000 1 1 0 0 0 0
      let s := tCopyNested p.1 desc p.2.1 p.2.2
      let ls := copyLevels (tCopyNest p.1)
      let counts := ls.map (·.count)
      match s.cur.templateKept .c0 0x5000 (tCopyNest p.1) with
      | .ok (d, _) =>
        let x := d.at_ ls p.2.1
        let lo := 4096 * p.2.2
        let hi := min d.size (4096 * p.2.2 + 4096)
        decide (s.copyEng = .c0 ∧ (s.cur.eng .c0).phase = .running (.nest p.2.1 p.2.2 false) ∧ s.cur.refetching .c0 = false ∧ s.cur.nestRun .c0 = some (tCopyNest p.1) ∧
          BitVec.ofNat 22 ((s.cur.eng .c0).head.map (·.word.toNat)).get! = 0x5000 ∧ copiesOver counts p.2.1 = false ∧ lo < d.size ∧ s.cur.stop = none) &&
        moveMeets s (x.srcRuns lo hi) (x.dstRuns lo hi) d.red.isSome 64 && decide (p.2.2 = 0 → s.overlapOf s.core x = none) && decide ((s.cur.eng .c0).overlap = none) &&
        decide (copyEvent (tCopyNest p.1) = some 9 ∧ copyPosts ls p.2.1 = decide (p.2.1.headD 0 = 1) ∧ s.waitsOf s.core 9 = [] ∧
          (s.semCount s.core 9).toNat < 65535)
      | .error _ => false) = true := by decide +kernel

/-- A pack descriptor (R227): element type ty, r by c elements from mat with a pitch, blocks at 0x8000, TRANS. -/
def tPackDesc (ty r c pitch : Nat) (trans : Bool) (scl : Nat) : List Byte :=
  leBytes 10 0x110000 ++ [0, BitVec.ofNat 8 ty] ++ leBytes 2 r ++ leBytes 2 c ++ leBytes 8 pitch ++ leBytes 4 0x8000
    ++ [if trans then 1 else 0, 0, 0, 0] ++ leBytes 10 scl ++ [0, 0] ++ leBytes 4 2176 ++ leBytes 4 4352 ++ leBytes 8 (if scl = 0 then 0 else 64)
    ++ leBytes 4 0

/-- CPACK and CUNPACK of FP32 with padding, of nibbles with TRANS; CPACK of the MX type with its scales. -/
theorem test_hyp_PlanarBlocksPackAndUnpack :
    [(tPackDesc 0 3 2 64 false 0, 1, true), (tPackDesc 8 33 1 64 true 0, 2, true), (tPackDesc 7 1 33 64 false 0x118000, 3, false)].all (fun q =>
      let s := tWadi .c1 q.1
      let d := parsePack q.1
      let srcs := (d.allSegs.map fun g => d.segRun 1 g.2.1 g.2.2)
        ++ (if d.mtype = 7 then d.allSegs.map fun g => d.sclRun g.2.1 (g.2.2 + 64) else [])
      let dsts := d.allSegs.map fun g => d.segRun 2 g.2.1 g.2.2
      decide (s.cur.spadFault (0x5000 : BitVec 22).toNat 64 = none ∧ q.1 = getBytes s.cur.spad 0x5000 64 ∧
        s.cur.packFault s.copyEng q.1 false q.2.1 = none) &&
      moveMeets s srcs (d.blocks.zipIdx.map (d.blockRun 2 q.2.1)) false 4096 &&
      (!q.2.2 || (decide (s.cur.packFault s.copyEng q.1 true q.2.1 = none) &&
        moveMeets s (d.blocks.zipIdx.map (d.blockRun 1 q.2.1) ++ d.allSegs.filterMap fun g => d.partial_ g.2.1 g.2.2) dsts false d.blocks.length))) = true ∧
    (List.replicate 32 (List.replicate 32 (Machine.Num.ofInt 1))).length = 32 := by decide +kernel

/-! ## States that meet the hypotheses of the statements: power, the host, the fabric -/

/-- A Swinu message (R346): type, SEQ 9, to every module, in force from vfrom to vto, with a body. -/
def tMsg (type : Nat) (vfrom vto : Nat) (body : List Byte) : List Byte :=
  leBytes 4 0x53574E55 ++ [1, 0, BitVec.ofNat 8 type, 0] ++ leBytes 8 9 ++ leBytes 8 (2 ^ 64 - 1) ++ leBytes 8 vfrom ++ leBytes 8 vto
    ++ leBytes 4 body.length ++ List.replicate 20 0 ++ body ++ List.replicate 16608 0

/-- A curve of one point, and rank caps of which two cap. -/
def tCurveBody : List Byte := leBytes 2 1 ++ List.replicate 14 0 ++ leBytes 8 5 ++ leBytes 4 500000 ++ List.replicate 4 0
def tCapsBody : List Byte := leBytes 4 300 ++ leBytes 4 0 ++ List.replicate 56 0xFF

/-- A message of type t is well formed. -/
theorem tMsg_form (t : Nat) (body : List Byte) (h : (t, body) ∈ [(1, tCurveBody), (2, tCapsBody)]) (a : Nat) (ha : a ∈ [0, 50]) :
    swinuForm (tMsg t a 100 body) = true := by
  have len : (tMsg t a 100 body).length = 16672 + body.length := by
    simp only [tMsg, List.length_append, leBytes_length, List.length_replicate, List.length_cons, List.length_nil]
    omega
  simp only [List.mem_cons, List.not_mem_nil, or_false, Prod.mk.injEq] at h ha
  unfold swinuForm
  rw [len]
  rcases h with ⟨rfl, rfl⟩ | ⟨rfl, rfl⟩ <;> rcases ha with rfl | rfl <;> decide +kernel

/-- Messages that are accepted where their signature verifies: in force at once, and waiting; refused ones: malformed, expired. -/
theorem test_hyp_SwinuMessagesTakeEffect :
    (∀ t body a, (t, body) ∈ [(1, tCurveBody), (2, tCapsBody)] → a ∈ [0, 50] → signaturesVerify (tMsg t a 100 body) = true →
      t3.swinuStatus (tMsg t a 100 body) = 0 ∧ t3.barchanUp = true ∧ fieldNat (tMsg t a 100 body) 6 1 = t) ∧
    t3.swinuStatus [] ≠ 0 ∧ t3.tick.toNat < 50 ∧ (0 : Nat) ≤ t3.tick.toNat ∧
    (let s := { t3 with power := { t3.power with lastCurveSeq := some 9, hung := true } }
     s.barchanUp = false ∧ s.power.lastCurveSeq = some 9) ∧
    (let a : Assembly := { id := 4, count := 2, since := 0, parts := [(1, [7])] }
     let s := { t3 with tick := 4999999, power := { t3.power with assemblies := [a] } }
     let n : BitVec 16 := 2
     let bytes := leBytes 4 0 ++ List.replicate 6 0 ++ [1]
     s.power.assemblies = [a] ∧ s.barchanUp = true ∧ 4 ≤ bytes.length ∧ bytes.length ≤ 1404 ∧ n.toNat = a.count ∧ fieldNat bytes 0 4 = 0 ∧ s.tick.toNat < a.since.toNat + 5000000 ∧
      (a.parts.all fun p => p.1 != 0) = true ∧
      Assembly.whole { a with parts := a.parts ++ [(0, bytes.drop 4)] } = some (List.replicate 6 0 ++ [1, 7]) ∧
      fieldNat (List.replicate 6 0 ++ [1, 7]) 6 1 = 1 ∧ t3.power.assemblies = []) ∧
    (let s := { t3 with power := { t3.power with nextCurve := some ⟨7, 9, [(5, 500000)]⟩, curve := none, caps := some ⟨0, 5, []⟩, nextCaps := none } }
     s.power.nextCurve = some ⟨7, 9, [(5, 500000)]⟩ ∧ s.tick.toNat < 7 ∧ s.power.nextCaps = none ∧ s.power.caps = some ⟨0, 5, []⟩) ∧
    facilitySigned (([] : List Byte).take 64) ((([] : List Byte).drop 64).take 384) [] = false ∧ fieldNat [] 0x20 8 ≤ t3.tick.toNat := by
  refine ⟨fun t body a h ha v => ⟨?_, by decide +kernel, ?_⟩, by decide +kernel⟩
  · unfold State.swinuStatus
    have dest : BitVec.ofNat 64 (fieldNat (tMsg t a 100 body) 0x10 8) = BitVec.allOnes 64 := by
      simp only [List.mem_cons, List.not_mem_nil, or_false, Prod.mk.injEq] at h ha
      rcases h with ⟨rfl, rfl⟩ | ⟨rfl, rfl⟩ <;> rcases ha with rfl | rfl <;> decide +kernel
    simp only [tMsg_form t body h a ha, v, dest, beq_self_eq_true, Bool.or_true, Bool.not_true, Bool.false_eq_true, if_false]
    simp only [List.mem_cons, List.not_mem_nil, or_false, Prod.mk.injEq] at h ha
    rcases h with ⟨rfl, rfl⟩ | ⟨rfl, rfl⟩ <;> rcases ha with rfl | rfl <;> decide +kernel
  · simp only [List.mem_cons, List.not_mem_nil, or_false, Prod.mk.injEq] at h ha
    rcases h with ⟨rfl, rfl⟩ | ⟨rfl, rfl⟩ <;> rcases ha with rfl | rfl <;> decide +kernel

/-- t3 with power as given. -/
def tPow (g : Grade) (level measured tick since beat : Nat) (lift : Option W64) : State :=
  { t3 with
    tick := BitVec.ofNat 64 tick, dies := t3.dies.set 0 { Die.reset with parked := true, parkTick := 5, stack := .active },
    power := { t3.power with grade := g, level := level, measured := measured, since := BitVec.ofNat 64 since, beat := BitVec.ofNat 64 beat,
                             lift := lift, parkDone := [0] } }

theorem test_hyp_PowerRowsAct :
    (let s := State.relevel { t3 with power := { t3.power with periods := t3.power.periods + 1 } }
     t3.power.grade ≠ .park ∧ s.power.grade ≠ .shed ∧ s.power.grade ≠ .park ∧ (s.launches.map (·.id)).Nodup) ∧
    (let s := tPow .slow 500000 600000 30000000 0 0 (some 10000000)
     s.power.grade = .slow ∧ s.power.level < s.power.measured ∧ s.power.lift = some 10000000 ∧
      (10000000 : W64).toNat + 20000000 ≤ s.tick.toNat ∧ s.power.since.toNat + 2000000 ≤ s.tick.toNat ∧ s.barchanUp = true ∧ s.tick.toNat < s.power.beat.toNat + 50000000) ∧
    (let s := tPow .slow 600000 600000 29999999 0 0 (some 10000000)
     s.power.measured ≤ s.power.level ∧ s.tick.toNat < (10000000 : W64).toNat + 20000000) ∧
    (let s := (tPow .normal 600000 600000 2000005 0 0 none).modCore 0 fun k => k.modUnit fun u => { u with reasons := reasonPark }
     (s.coreAt 0).unit.map (fun u => hasReason u.reasons reasonPark) = some true ∧ (s.die (dieOf 0)).parked = true ∧ s.power.grade ≠ .park ∧
      (s.die (dieOf 0)).parkTick.toNat + 2000000 ≤ s.tick.toNat ∧
      (s.coreAt 1).unit = none) ∧
    (let s := tPow .park 500000 600000 1000000007 7 0 none
     s.power.grade = .park ∧ (0 : DieId) ∈ s.power.parkDone ∧ s.power.since.toNat + 1000000000 ≤ s.tick.toNat ∧
      s.memctl.shadow.getLsbD 0 = true ∧ (s.die 0).stack = .active ∧ s.power.beat.toNat + 50000000 ≤ s.tick.toNat ∧
      ({ s with memctl := { s.memctl with shadow := 0 } } : State).memctl.shadow.getLsbD 0 = false) ∧
    (let s := tPow .park 500000 600000 20000007 7 0 (some 7)
     (7 : W64).toNat + 20000000 ≤ s.tick.toNat ∧ (∀ e ∈ s.power.parkOrder, (s.die e).parked = false) ∧ s.power.parkDone = 0 :: []) ∧
    (let s := tPow .floor 190000 0 0 0 0 none
     s.power.grade = .floor ∧ 190000 ≤ s.power.level) ∧
    ({ t3 with power := { t3.power with hung := true }, memctl := { t3.memctl with copying := [(287, 5, 31)] } } : State).memctl.copying =
      [(287, 5, 31)] := by decide +kernel

/-- Nothing of a core is under way, as the statements ask. -/
def tQuiet (k : Core) : Bool :=
  k.a.out.isEmpty && k.x.out.isEmpty && k.a.deferred.isEmpty && k.x.deferred.isEmpty &&
    [Eng.m, .v, .c0, .c1].all fun e => (k.eng e).chunks.isEmpty && (k.eng e).phase == .idle

theorem tQuiet_spec (k : Core) (h : tQuiet k = true) : quiet k := by
  unfold tQuiet at h
  simp only [Bool.and_eq_true, List.isEmpty_iff, and_assoc] at h
  obtain ⟨ha, hx, da, dx, he⟩ := h
  refine ⟨ha, hx, da, dx, fun e => ?_⟩
  have m : e ∈ [Eng.m, .v, .c0, .c1] := by cases e <;> decide
  simpa using List.all_eq_true.mp he e m

/-- In park, a unit of a parked die that does not yield; and what has moved of a stack by then. -/
theorem test_hyp_PowerRowsAct_park :
    (let s := (tPow .park 500000 600000 2000005 7 0 none).modCore 0 fun k => k.modUnit fun u => { u with reasons := reasonPark }
     ((s.coreAt 0).unit.map (fun u => hasReason u.reasons reasonPark) = some true ∧ (s.die (dieOf 0)).parked = true ∧ s.power.grade = .park ∧
      (s.die (dieOf 0)).parkTick.toNat + 2000000 ≤ s.tick.toNat ∧ (s.coreAt 0).stop = none) ∧ quiet (s.coreAt 0)) ∧
    pagesOk 0 [(0, 1), (2, 1048576)] := by
  unfold pagesOk pagesOk pagesOk
  exact ⟨⟨by decide +kernel, tQuiet_spec _ (by decide +kernel)⟩, by decide⟩

/-- t3 with a partition 0 of registers as after its creation, monitor 15 of die 0 sampling source 7. -/
def tRegs : State :=
  { t3 with dies := t3.dies.set 0 { Die.reset with monitors := Die.reset.monitors.set 15 { Monitor.reset with cfg := 0x87000100, least := 4 } } }

/-- Nothing is under way in a state with the cores of t3. -/
theorem t3_untouched {s : State} (h : s.cores = t3.cores) (rs : List (Nat × Nat)) : untouched s rs := by
  have e (c : CoreId) : s.coreAt c = t3.coreAt c := by unfold State.coreAt; rw [h]
  exact untouched_none ⟨fun c q => (congrArg (fun k => (k.seq q).out) (e c)).trans (t3_none.1 c q),
    fun c d => (congrArg (fun k => (k.eng d).todo) (e c)).trans (t3_none.2 c d)⟩ rs

theorem test_hyp_HostAccessesAndRegisters_untouched (rs : List (Nat × Nat)) : untouched tRegs rs := t3_untouched (by unfold tRegs; rfl) rs

theorem test_hyp_HostAccessesAndRegisters :
    (tRegs.deaf 0x30000 = false ∧ State.reset.deaf 0x30000 = true) ∧ (tRegs.mailboxUp = true ∧ State.reset.mailboxUp = false ∧ (∀ e, (tRegs.die e).watch = []) ∧ (∀ e, (tRegs.die e).stack = .active)) ∧
    [0x30000, 0x7FFFFFFFFE].all (fun a => decide (tRegs.hostReaches a 2 = true ∧ tRegs.anyLive a 2 = false ∧ tRegs.firstRetired a 2 = none)) = true ∧
    tRegs.hostReaches 0x7FFFFFFFFF 2 = false ∧
    [RegRef.l2lim 7, .l2part 0, .dsched 3, .pcap 0, .prank 0, .ppower 0, .pthrot 0, .pkgpwr, .account 1 255, .hbmflr 0, .lppark, .rbcount 0,
      .moncfg 0 15, .monmin 0 15, .monmax 7 0, .monhist 0 15 255, .fnode, .fstat, .fwina 0 15, .fwinb 0 0, .fexpa 0 15, .fexpb 0 0, .route 262143].all
        (fun r => (tRegs.readReg r).isSome) = true ∧
    tRegs.readReg (.pcap 1) = none ∧ tRegs.readReg (.account 9 0) = none ∧
    (let m := (tRegs.die 0).monitors[(15 : Fin 16)]
     m.cfg.getLsbD 31 = true ∧ m.cfg.toNat / 2 ^ 24 % 64 = 7 ∧ (tRegs.die 0).monitors[(0 : Fin 16)].cfg.getLsbD 31 = false) := by
  decide +kernel

/-- A partition of island 63 with the most ranges, privileges and queue that it may have. -/
def tSpec : PartSpec :=
  { islands := BitVec.ofNat 64 (2 ^ 63), ranges := List.replicate 64 (0x10000, 0x20000, 7), privs := 7, qcap := 4096, floor := 65535,
    desc := tCreate, bankArea := 0x200000, pool := 2 ^ 48 - 1 }

/-- t3 with partition 0's INIT, and a unit of launch 1 whose stop the host disposes of with event 1 in its ring at 0x140000. -/
def tHostEv (init : A80) (wait : Bool) : State :=
  let pr : SavePriv :=
    { queues := Vector.replicate 8 none, used := [], aMarks := [], gMarks := [], slotMarks := [], check := none, seg := Segment.reset,
      handled := none, tcause := 0, tinfo := 0, tpc := 0, lost := [], deferred := [], seqnos := [], counts := [], caps := [], clocks := [],
      overs := [], chains := [], parked := false }
  let base := { State.reset with service := .full, dies := t3.dies, islands := t3.islands }
  let s := { base with
    ctxs := [{ tCtx 0 none 0 with part := some tPart, init := init, ranBefore := false, running := false, qcap := 4096 }, tCtx 1 (some 0) 1],
    nextLaunch := 3,
    mem := putBytes t3.mem 0x140000 ([2, 0, 1] ++ List.replicate 45 0 ++ leBytes 8 1),
    host := { State.reset.host with ring := some (0x140000, 4) } }
  if wait then { s with launches := [{ tLaunch with units := [⟨0, .awaiting none 1 false pr⟩] }] } else s

/-- t3 where partition 0 owns only island 0. -/
def tPart0 : State :=
  { t3 with ctxs := [{ tCtx 0 none 0 with part := some { tPart with islands := 1 } }, tCtx 1 (some 0) 1] }

theorem test_hyp_HostCommandsAct_create :
    tPart0.mailboxUp = true ∧ (parseCreate tSpec.desc).isSome = true ∧ tPart0.islandsFree tSpec.islands = true ∧ tSpec.ranges.length ≤ 64 ∧
      tSpec.ranges.all physRange = true ∧ tSpec.privs.toNat < 8 ∧ tSpec.qcap ≤ 4096 ∧ tSpec.floor < 65536 ∧ tSpec.desc.length = 64 ∧
      tSpec.bankArea % 4096 = 0 ∧ tSpec.pool < 2 ^ 48 ∧ tPart0.ctxs.length < 4096 ∧ tPart0.ctx 2 = none ∧
      (List.range 2).all (fun m => (tPart0.ctx m).isSome) = true := by decide +kernel

/-- Nothing is under way in the states of the host's events. -/
theorem test_hyp_HostCommandsAct_untouched (init : A80) (wait : Bool) (rs : List (Nat × Nat)) : untouched (tHostEv init wait) rs := by
  have e (c : CoreId) : (tHostEv init wait).coreAt c = Core.reset := by
    have : (tHostEv init wait).cores = State.reset.cores := by unfold tHostEv; cases wait <;> rfl
    unfold State.coreAt
    rw [this]
    simp [State.reset]
  exact untouched_none ⟨fun c q => by rw [e]; cases q <;> rfl, fun c d => by rw [e]; cases d <;> rfl⟩ rs

theorem test_hyp_HostCommandsAct :
    (t3.islandsFree 0 = false ∧ t3.ctx 9 = none) ∧
    (let s := tHostEv 0 false
     s.mailboxUp = true ∧ (s.ctx 0).map (fun c => (c.num, c.part.isSome, c.revoked, c.init)) = some (0, true, false, 0) ∧ s.awaiting = [] ∧
      s.host.held = [] ∧ s.hostReaches 0x140000 (64 * 1) = true ∧ (0x140000 : Nat) % 64 = 0) ∧
    (let s := tHostEv 0x71000 false
     s.awaiting = [] ∧ (s.ctx 0).map (fun c => (c.ranBefore, c.running, c.init.toNat % 128)) = some (false, false, 0) ∧
      gives (s.devRead 0 0x71000 128) = some tRecord ∧ parseTask tRecord = some tTask ∧
      (s.ctx 0).map (fun c => s.refusal c (some tTask)) = some 0 ∧ s.newLaunchId 0 < 2 ^ 48) ∧
    (let s := tHostEv 0 true
     s.awaiting.map (fun w => (w.1, w.2.1, w.2.2.2.1, w.2.2.2.2)) = [(1, 0, none, 1)] ∧ (s.awaiting.map fun w => s.within w.2.2.1 0) = [true] ∧
      s.hostPlace (1 : W64).toNat = some 0x140000 ∧ fieldNat (getBytes s.mem 0x140000 64) 0x30 8 = 1 ∧
      (getBytes s.mem 0x140000 64).headD 0 ≠ 0 ∧ fieldNat (getBytes s.mem 0x140000 64) 2 1 = 1 ∧ ∀ x, (s.die x).watch = []) ∧
    [IslandState.failed, .gated].all (fun x =>
      (({ t3 with islands := t3.islands.set 63 { Island.reset with state := x } } : State).island 63).state == x) = true ∧
    (let s : State := { State.reset with service := .full, islands := State.reset.islands.set 63 { Island.reset with state := .on } }
     (s.island 63).state = .on ∧ s.islandEmpty 63 = true ∧ s.holding (fun u => (s.subtree 0).contains u.ctx) = []) := by
  decide +kernel

theorem test_hyp_BringUpAndAttestation :
    State.reset.service = .unpowered ∧ t3.service ≠ .unpowered ∧
    ({ t3 with service := .reduced } : State).service = .reduced ∧ (0x80 : BitVec 8).getLsbD (7 : Fin 8).val = true ∧
    (t3.coreAt 0).unit.isSome = true ∧ dieOf 0 = 0 ∧
    (let s := { t3 with service := .draining, serving := some 7 }
     s.service = .draining ∧ s.serving = some 7) ∧
    (let s := { t3 with service := .draining, serving := some 0 }
     s.serving = some (dieOf 0)) ∧
    (7, [1]) ∈ ({ t3 with host := { t3.host with spdm := [(7, [1])] } } : State).host.spdm := by decide +kernel

/-- Die 7 holds no unit. -/
theorem test_hyp_BringUpAndAttestation_empty (k : CoreId) (h : dieOf k = 7) :
    (({ t3 with service := .draining, serving := some 7 } : State).coreAt k).unit = none := by
  have : k ≠ 0 := by rintro rfl; exact absurd h (by decide +kernel)
  exact congrArg Core.unit (t3_others k this)

/-- A flit with number 0 that acknowledges 7, its CRC right (R397). -/
def tFlit : List Byte := leBytes 2 0 ++ leBytes 2 7 ++ List.replicate 4 0 ++ [0xAB] ++ List.replicate 243 0 ++ leBytes 4 0xBD82BBB8

theorem tFlit_crc : crc32c (tFlit.take 252) = 0xBD82BBB8 := by
  have e : crcForce (tFlit.take 252) 0xFFFFFFFF = 0x427D4447 := by decide +kernel
  rw [crc32c, ← crcForce_eq _ _ (by decide), e]
  rfl

/-- t3 as node 5, port 31 up, with the records, requests and ports given. -/
def tNode (records : List RedRecord) (waiting : List RemoteWait) (lost : List Nat) : State :=
  { t3 with
    fabric := { t3.fabric with valid := true, node := 5, ports := t3.fabric.ports.set 31 { Port.reset with up := true, recvSeq := 0xFFFF },
                               records := records, waiting := waiting, lost := lost } }

theorem test_hyp_FabricPortsAndTime :
    (let s := tNode [] [] []
     s.fabric.ports[(31 : Fin 32)].up = true ∧ tFlit.length = 256 ∧ fieldNat tFlit 252 4 = (crc32c (tFlit.take 252)).toNat ∧
      fieldNat tFlit 0 2 = (s.fabric.ports[(31 : Fin 32)].recvSeq + 1).toNat ∧ fieldNat tFlit 0 2 ≠ (s.fabric.ports[(0 : Fin 32)].recvSeq + 1).toNat ∧
      s.fabric.ports[(0 : Fin 32)].up = false ∧ s.fabric.valid = true ∧ t3.fabric.valid = false ∧ 6 ≠ s.fabric.node.val ∧ 6 ∉ s.fabric.lost) ∧
    [([], 0, 50000000), ([(6, (5 : W64))], 100000000, 50000005)].all (fun p =>
      let s : State := { tNode [] [] [] with tick := BitVec.ofNat 64 (p.2.1 + 50000005) }
      let t : State := { s with fabric := { s.fabric with heard := p.1, lastTime := 5, validSince := 5 } }
      decide (t.fabric.validSince.toNat + 50000000 ≤ t.tick.toNat) && (t.fabric.heard.all fun x => decide (x.2.toNat + 50000000 ≤ t.tick.toNat)) &&
        (decide (t.fabric.lastTime.toNat + 100000000 ≤ t.tick.toNat) == !p.1.isEmpty)) = true := by
  rw [tFlit_crc]
  decide +kernel

/-- A message of node 6 to node 7 where no entry names a port, and where one names port 31. -/
theorem test_hyp_FabricPortsAndTime_transit :
    let x : Transit := { src := 6, core := 0, stream := 1, dst := 7, bytes := [1] }
    let s := { tNode [] [] [] with agenda := [.transit x] }
    let t := { s with fabric := { s.fabric with routes := [(7, 0x80000000)] } }
    s.agenda = .transit x :: [] ∧ x.dst ≠ s.fabric.node.val ∧ s.fabric.path x.dst = [] ∧ s.fabric.hops = [] ∧ t.fabric.path x.dst ≠ [] ∧
    ({ s with agenda := [.timeSource true] } : State).agenda = .timeSource true :: [] ∧ s.fabric.valid = true ∧ s.fabric.source = false := by
  decide +kernel

/-- The identifier of a reducing copy of node 6. -/
def tIdent : RedIdent := { node := 6, launch := 1, unit := 0, stream := 0, seq := 3 }

/-- Partition 0 exports the first 4 TiB as export 15 for reading, writing and atomics. -/
def tExport (s : State) : State :=
  s.modPart 0 fun p => { p with exports := p.exports.set 15 ⟨0, 0xFFFFFFC00000000F⟩ }

/-- Nothing is under way in those states. -/
theorem test_hyp_FabricRequestsAnswered_untouched (rs : List (Nat × Nat)) : untouched (tExport (tNode [] [] [])) rs :=
  t3_untouched (by unfold tExport State.modPart State.modCtx; rfl) rs

theorem test_hyp_FabricRequestsAnswered :
    (let s := tExport (tNode [] [] [])
     (∀ d, (s.die d).watch = []) ∧ s.fabric.anyUp = true ∧ 6 ≠ s.fabric.node.val ∧ s.exportPlace 0 15 0x110000 8 1 = some 0x110000 ∧
      s.exportPlace 0 15 0x110000 8 2 = some 0x110000 ∧ s.exportPlace 0 15 0x110000 8 3 = some 0x110000 ∧
      s.exportPlace 0 15 0x110000 8 permAtomic = some 0x110000 ∧ s.exportPlace 0 14 0x110000 8 1 = none ∧ s.firstUnc 0x110000 8 = none ∧
      s.anyLive 0x110000 8 = false ∧ s.firstRetired 0x110000 8 = none ∧ s.fabric.records = [] ∧ 8 % redSize .fp32 = 0 ∧ s.twoSets (s.exportTen 0 15) 0x110000 8 = false) ∧
    (let x : RedRecord := { ident := tIdent, base := 2, map := 1 }
     (tNode [x] [] []).fabric.records = [x] ∧ x.has 0 = true ∧ x.has 2 = true ∧ x.has 3 = false) := by decide +kernel

/-- A request of core 0 that went out by port 31: of the X-sequencer, or of stream C0. -/
def tWait (e : Bool) (r : RemoteOp) : RemoteWait :=
  { id := 3, core := 0, stream := if e then .eng .c0 else .seq .x, access := 0, piece := 0, node := 6, req := r, part := 0, exp := 15,
    offset := 0x110000, port := some 31, since := 0 }

theorem test_hyp_FabricRequestsAnswered_answers :
    answers (tWait false (.load 8)).req (.data [0, 0, 0, 0, 0, 0, 0, 0] none) = true ∧ answers (tWait false (.store [1])).req .refused = true ∧
    (tWait false (.load 8)).since.toNat + 10000000 ≤ ({ t3 with tick := 10000000 } : State).tick.toNat ∧ t3.tick.toNat < 0 + 10000000 ∧
    (let s := tNode [] [tWait false (.reduce ⟨tIdent, 3, 0, .add, .fp32, []⟩)] []
     s.fabric.held = [] ∧ s.waitsRecord (tWait false (.load 8)) = false ∧ s.tick.toNat < (tWait false (.load 8)).since.toNat + 10000000) ∧
    (let s := (tNode [] [tWait true (.copyRead 8)] []).modCore 0 fun k => k.modEng .c0 fun t =>
        { t with phase := .running .fresh, chunks := [{ id := 3, chunk := 0, va := 0x110000, read := true }] }
     s.fabric.waiting = [tWait true (.copyRead 8)] ∧ ((s.coreAt 0).eng .c0).chunks.map (·.id) = [3] ∧
      ((s.coreAt 0).eng .c0).fails = [] ∧ ((s.coreAt 0).eng .c0).phase = .running .fresh ∧ s.fabric.held = []) := by decide +kernel

/-! ## Single steps and values, against the spec's tables and worked examples -/

/-- Register g[n] after an instruction. -/
def gAfter (i : Instr) (s : State) (n : Fin 32) : Option W64 :=
  match exec i s with
  | .next t => some t.curSeq.g[n]
  | _ => none

/-- Register a[n] after an instruction. -/
def aAfter (i : Instr) (s : State) (n : Fin 16) : Option A80 :=
  match exec i s with
  | .next t => some t.curSeq.a[n]
  | _ => none

/-- The table of R118: sums and differences wrap, amounts are the low six bits, signed and unsigned orders differ. -/
theorem test_integer_group :
    (let s := t1 (-1) 65 0 1 0 0
     gAfter (.add 5 1 4) s 5 = some 0 ∧ gAfter (.sub 5 3 4) s 5 = some (-1) ∧ gAfter (.shl 5 4 2) s 5 = some 2 ∧
      gAfter (.shr 5 1 2) s 5 = some 0x7FFFFFFFFFFFFFFF ∧ gAfter (.sra 5 1 2) s 5 = some (-1) ∧ gAfter (.rol 1 4 2) s 1 = some 2) ∧
    (let s := t1 (-1) 0 5 5 0 0
     gAfter (.slt 5 1 2) s 5 = some 1 ∧ gAfter (.sltu 5 1 2) s 5 = some 0 ∧ gAfter (.min 5 1 2) s 5 = some (-1) ∧
      gAfter (.minu 5 1 2) s 5 = some 0 ∧ gAfter (.seq 5 3 4) s 5 = some 1) := by decide +kernel

/-- The bit group of R119: counts of zero operands, a width code of 0, fields that reach past bit 63. -/
theorem test_bit_group :
    (let s := t1 0 0 0xABCD 0x0804 0 0
     gAfter (.clz 5 1) s 5 = some 64 ∧ gAfter (.ctz 5 1) s 5 = some 64 ∧ gAfter (.popc 5 3) s 5 = some 10 ∧
      gAfter (.bfxu 5 3 4) s 5 = some 0xBC ∧ gAfter (.bfx 5 3 4) s 5 = some (-0x44) ∧ gAfter (.bfxu 5 3 2) s 5 = some 0xABCD) := by
  decide +kernel

/-- Multiplication and the division edge cases of R120. -/
theorem test_multiply_group :
    (let s := t1 (-1) 0x8000000000000000 0 (-7) 0 0
     gAfter (.mulh 5 1 1) s 5 = some 0 ∧ gAfter (.mulhu 5 1 1) s 5 = some (-2) ∧ gAfter (.div 5 2 1) s 5 = some 0x8000000000000000 ∧
      gAfter (.rem 5 2 1) s 5 = some 0 ∧ gAfter (.div 5 4 3) s 5 = some (-1) ∧ gAfter (.remu 5 4 3) s 5 = some (-7)) ∧
    (let s := t1 (-7) 2 0 0 0 0
     gAfter (.div 5 1 2) s 5 = some (-3) ∧ gAfter (.rem 5 1 2) s 5 = some (-1)) := by decide +kernel

/-- The fragment of R122 that builds the base of the local window, word by word and step by step. -/
theorem test_local_window_base :
    (decodeWords [0x24A0FFFF, 0, 0] = some (.ldi 5 0xFFFF) ∧ decodeWords [0x28A1FFC0, 0, 0] = some (.ldk 5 1 0xFFC0) ∧
      decodeWords [0x30200003, 0, 0] = some (.aseth 1 0) ∧ decodeWords [0x30212800, 0, 0] = some (.aadd 1 1 5)) ∧
    (let g (v : W64) : State := t2.modCur fun k => k.modSeq .x fun q => { q with g := q.g.set 5 v, a := q.a.set 1 0 }
     gAfter (.ldi 5 0xFFFF) (g 0) 5 = some 0xFFFFFFFFFFFFFFFF ∧
      gAfter (.ldk 5 1 0xFFC0) (g 0xFFFFFFFFFFFFFFFF) 5 = some 0xFFFFFFFFFFC0FFFF ∧
      gAfter (.ldk 5 0 0) (g 0xFFFFFFFFFFC0FFFF) 5 = some 0xFFFFFFFFFFC00000 ∧ aAfter (.aseth 1 0) (g 5) 1 = some 0 ∧
      aAfter (.aadd 1 1 5) (g 0xFFFFFFFFFFC00000) 1 = some 0xFFFFFFFFFFFFFFC00000) := by decide +kernel

/-- Formats of R85: the least and most values, and an exact tie goes to even. -/
theorem test_number_formats :
    fmtE4m3.decode 0x7E = .fin false 14 5 ∧ (fmtE4m3.decode 0x7F).isNan = true ∧
    fmtFp32.encode .rne ((fmtFp32.decode 0x3F800000).add (fmtFp32.decode 0x33800000)) = 0x3F800000 ∧
    fmtFp32.encode .rne ((fmtFp32.decode 0x3F800001).add (fmtFp32.decode 0x33800000)) = 0x3F800002 := by decide +kernel

/-- The worked row of R97 (P = 4; 3.0, -1.25 and 0.4): scale 128, elements 6, -2 and 1. -/
theorem test_planar_row :
    let r := planarRow 4 ([fmtFp32.decode 0x40400000, fmtFp32.decode 0xBFA00000, fmtFp32.decode 0x3ECCCCCD] ++ List.replicate 29 (.ofInt 0)) false
    r.1 = 128 ∧ r.2.take 4 = [6, -2, 1, 0] := by decide +kernel

/-- The worked element of R103: Q = 92,274,688 at anchor 0x7F reads as 5.5. -/
theorem test_accumulator_reads : fmtFp32.encode .rne (accNum 0x7F (accWord false 92274688)) = 0x40B00000 := by decide +kernel

/-- A bound that stands just at what was accepted, and a step that answers a next state. -/
theorem test_hyp_AcceptedSeqNeverFalls :
    let s := { t2 with agenda := [.event .heartbeat], power := { t2.power with lastCurveSeq := some 3 } }
    4 ≤ acceptedSeq s.power.lastCurveSeq ∧ 0 ≤ acceptedSeq s.power.lastCapsSeq ∧ (match step s with | .next _ => true | _ => false) = true := by
  decide +kernel

/-- The digests of "abc" that FIPS 180-4 gives as examples for SHA-256 and SHA-384 (R348). -/
theorem test_digests :
    sha256 [0x61, 0x62, 0x63] = beBytes 32 0xBA7816BF8F01CFEA414140DE5DAE2223B00361A396177A9CB410FF61F20015AD ∧
    sha384 [0x61, 0x62, 0x63] =
      beBytes 48 0xCB00753F45A35E8BB5A03D699AC65007272C32AB0EDED1631A8B605A43FF5BED8086072BA1E7CC2358BAECA134C825A7 := by decide +kernel

end Sys2Proof.Tests
end

/-! # The state after reset -/

section

namespace Sys2Proof.Machine

open Sys2Proof

/-! ## The parts of the state after reset -/

@[simp] theorem State.coreAt_reset (c : CoreId) : State.reset.coreAt c = Core.reset := by
  simp only [State.coreAt, State.reset, Fin.getElem_fin, Vector.getElem_replicate]

@[simp] theorem State.die_reset (d : DieId) : State.reset.die d = Die.reset := by
  simp only [State.die, State.reset, Fin.getElem_fin, Vector.getElem_replicate]

@[simp] theorem Die.monitors_reset (m : Fin 16) : Die.reset.monitors[m] = Monitor.reset := by
  simp only [Die.reset, Fin.getElem_fin, Vector.getElem_replicate]

@[simp] theorem State.port_reset (i : Fin 32) : State.reset.fabric.ports[i] = Port.reset := by
  simp only [State.reset, Fin.getElem_fin, Vector.getElem_replicate]

/-- The level after reset is PMAX, above the gated floor, so SHORT is 0 (R351). -/
theorem State.pkgpwr_reset : State.reset.pkgpwr = 3000 * 2 ^ 32 + 3000 * 2 ^ 16 := by
  have hlevel : State.reset.power.level = 3000000 := rfl
  have hpmax : State.reset.power.pmax = 3000000 := rfl
  have hgrade : State.reset.power.grade.code = 0 := rfl
  simp only [State.pkgpwr, gatedFloor, hlevel, hpmax, hgrade, Nat.reduceSub, Nat.reduceDiv, Nat.reduceMod, Nat.reducePow,
    Nat.reduceMul, Nat.reduceAdd]

/-- With no SYNC and every port down, FSTAT reads 0 (R399). -/
theorem Fabric.fstat_of_ports_down {f : Fabric} (hsync : f.sync = false) (hdown : ∀ i : Fin 32, f.ports[i].up = false) :
    f.fstat = 0 := by
  have hnone (l : List (Fin 32)) : l.foldl (fun m i => if f.ports[i].up then m + 2 ^ i.val else m) 0 = 0 := by
    induction l with
    | nil => rfl
    | cons i l ih => rw [List.foldl_cons, hdown i]; exact ih
  rw [Fabric.fstat, hsync, hnone]
  rfl

/-! ## The registers that the host reads -/

/-- All 16 ways of every slice are direct storage (R289). -/
theorem State.readReg_l2lim_reset (d : DieId) : State.reset.readReg (.l2lim d) = some 16 := by
  rw [State.readReg, State.die_reset]
  rfl

/-- SLICE is 1,000 µs and QSHIFT is 20 (R307). -/
theorem State.readReg_dsched_reset (d : DieId) : State.reset.readReg (.dsched d) = some (1000 * 65536 + 20) := by
  rw [State.readReg, State.die_reset]
  rfl

/-- Sampling is off, and no sample has moved MONMIN or MONMAX from where a clear leaves them (R385). -/
theorem State.readReg_monitor_reset (d : DieId) (m : Fin 16) :
    State.reset.readReg (.moncfg d m) = some 0 ∧ State.reset.readReg (.monmin d m) = some 0xFFFFFFFF ∧
      State.reset.readReg (.monmax d m) = some 0 := by
  simp only [State.readReg, State.die_reset, Die.monitors_reset]
  exact ⟨rfl, rfl, rfl⟩

/-- NODE is not assigned (R399). -/
theorem State.readReg_fnode_reset : State.reset.readReg .fnode = some 0 := by
  have hvalid : State.reset.fabric.valid = false := rfl
  have hnode : State.reset.fabric.node.val = 0 := rfl
  rw [State.readReg, hvalid, hnode]
  rfl

/-- TICK is not aligned, and every port is down (R399). -/
theorem State.readReg_fstat_reset : State.reset.readReg .fstat = some 0 := by
  have hdown (i : Fin 32) : State.reset.fabric.ports[i].up = false := by rw [State.port_reset]; rfl
  rw [State.readReg, Fabric.fstat_of_ports_down rfl hdown]
  rfl

/-- The parking shadow of every stack is reserved (R375). -/
theorem State.readReg_lppark_reset : State.reset.readReg .lppark = some 0xFF := rfl

/-- LEVEL and PMAX read 3,000 W, SHORT and GRADE read 0 (R351). -/
theorem State.readReg_pkgpwr_reset :
    State.reset.readReg .pkgpwr = some (BitVec.ofNat 64 (3000 * 2 ^ 32 + 3000 * 2 ^ 16)) := by
  rw [State.readReg, State.pkgpwr_reset]

/-- Settles O59: the parts of the reset state as they stand in it, and each register by its value after reset. -/
theorem resetHoldsStatedValues : Obligations.ResetHoldsStatedValues := by
  unfold Obligations.ResetHoldsStatedValues
  have hcores (c : CoreId) : State.reset.coreAt c = Core.reset ∧ (State.reset.coreAt c).unit = none :=
    ⟨State.coreAt_reset c, by rw [State.coreAt_reset]; rfl⟩
  have hdies (d : DieId) (m : Fin 16) :=
    And.intro (State.readReg_l2lim_reset d) (And.intro (State.readReg_dsched_reset d) (State.readReg_monitor_reset d m))
  exact ⟨rfl, rfl, rfl, Memory.wf_nil, getByte_nil, hcores, hdies, State.readReg_fnode_reset,
    State.readReg_fstat_reset, State.readReg_lppark_reset, State.readReg_pkgpwr_reset⟩

end Sys2Proof.Machine

end
